-- ==== Sys2Proof/Word.lean ====
section
/-!
DEFINITION. The word types of the hub model and their plainest arithmetic.
Counts, sizes, stamps and ticks are natural numbers; a byte that the hub stores or sends is a bit vector.
-/
namespace Sys2Proof

/-- One byte as the hub stores or sends it. -/
abbrev Byte := BitVec 8

/-- A run of bytes, lowest offset first. -/
abbrev Bytes := List Byte

/-- A sparse table: keys strictly rising in every table the model builds. -/
abbrev Tbl (α : Type) := List (Nat × α)

/-- The largest value of an `n`-bit counter that saturates (R9 style counters). -/
def satMax (n : Nat) : Nat := 2 ^ n - 1

/-- Add one to a counter of `n` bits that stays at its largest value. -/
def satInc (n v : Nat) : Nat := if v < 2 ^ n - 1 then v + 1 else v

/-- Add `k` to a counter of `n` bits that stays at its largest value. -/
def satAdd (n v k : Nat) : Nat := min (v + k) (2 ^ n - 1)

/-- The number of bits of a cycle stamp's angle (R10). -/
def angleBits : Nat := 65536

/-- A 56-bit cycle stamp: cycle number in bits [55:16], angle in bits [15:0] (R10). -/
abbrev Stamp := Nat

/-- The stamp `C#cycle@angle` (R10). -/
def mkStamp (cycle angle : Nat) : Stamp := cycle * angleBits + angle

/-- The cycle number of a stamp (R10). -/
def Stamp.cycle (s : Stamp) : Nat := s / angleBits

/-- The angle of a stamp (R10). -/
def Stamp.angle (s : Stamp) : Nat := s % angleBits

/-- Ticks of the 32,768 Hz counter in one second (R64). -/
def ticksPerSecond : Nat := 32768

end Sys2Proof
end

