-- ==== Sys2Proof/Syntax.lean ====
section
/-!
DEFINITION. The commands the hub takes: one constructor per row of spec/opcode_table.json, with the operands that the
row's rule and its chapter give it, and the observations an event brings from outside (measured values, received
messages, pin levels).
-/
namespace Sys2Proof

/-- The submission descriptor of a host command (Table RNG.5): who sent it, on which ring, and its data buffer. -/
structure Desc where
  tenant : Nat
  ring : Nat
  cid : Nat
  fence : Bool
  dptr : Nat
  dlen : Nat
deriving DecidableEq, Repr

/-- An entry the host has posted in a BUF or AUD ring (Table RNG.9), as the hub reads it from host memory. -/
structure HostPost where
  addr : Nat
  len : Nat
  tag : Nat
deriving DecidableEq, Repr

/-- What the tracker and the local channels show over the cycle that has just ended (R34–R38). -/
structure BoundaryObs where
  /-- Fractions of a tick and of a slot frame at the boundary, 1/65,536. -/
  tickFrac : Nat
  frameFrac : Nat
  /-- Half-cycle RMS of VA, VB, VC, in mV, and whether each crossing came within 1.5 periods. -/
  rms : List Nat
  crossing : List Bool
  /-- Measured frequencies of VA, VB, VC over the cycle, the PLL's frequency and phase error (R36). -/
  measured : List Nat
  freq : Nat
  phaseErr : Int
  /-- Phase offsets of VA, VB, VC against the active reference. -/
  offsets : List Int
deriving DecidableEq, Repr

/-- What the reads of a CHIP start show of the flash die (R362, R363, R371): weak bits by ladder, ladders with a stray bit beyond
the frontier or a bad copy, ladders whose newest base is bad in both copies, and blocks without a good header with the outcome of
their blank-check. -/
structure FlashObs where
  weak : List (Nat × Nat) := []
  repair : List Nat := []
  lost : List Nat := []
  headers : List (Nat × Bool) := []
deriving DecidableEq, Repr

/-- What training shows of the ring (R87, R98, R100): whether ring A returned with WRAP = 0, its HOP count and the loop
delay LA in UI. -/
structure TrainObs where
  returned : Bool
  hop : Nat
  la : Nat
deriving DecidableEq, Repr

/-- What a CHIP start finds (Table PWR.5): the flash die, the ring's training, the ROM digest (R234) and the entropy start-up test
(R330); slots whose records all fail (R349), whether a slot record whose programming was cut short reads good (R332); the invalid
blocks of retention SRAM (R85: 0 header, 1 and 2 anchor slots, 3 keypad record, 4 + b duty account, 16 + m residuals); and whether
the residual journal's head page reads good, with the MPs whose pages do not (R373). -/
structure StartObs where
  flash : FlashObs := {}
  train : TrainObs
  romGood : Bool := true
  entropyGood : Bool := true
  keysLost : List Nat := []
  cutRecord : Bool := false
  retBad : List Nat := []
  journalGood : Bool := true
  pagesBad : List Nat := []
deriving DecidableEq, Repr

/-- The commands, those with operands first and each half in the order of the table; each cites the rule of spec/ that gives it. The first operand of a host command is its
descriptor. -/
inductive Instr where
  /-- R480. -/
  | adminAttach (d : Desc) (target : Nat)
  /-- R481. -/
  | ringCreate (d : Desc) (defn : Bytes)
  /-- R483. -/
  | ringDelete (d : Desc) (idx : Nat)
  /-- R497. -/
  | streamFlush (d : Desc) (idx : Nat)
  /-- R511. -/
  | faultRead (d : Desc) (domain tenant flags : Nat)
  /-- R512. -/
  | hubReset (d : Desc) (scope tenant : Nat)
  /-- R513. -/
  | fwWrite (d : Desc) (image offset : Nat) (data : Bytes)
  /-- R513. -/
  | fwActivate (d : Desc) (image len digest : Nat)
  /-- R529. -/
  | stageWrite (d : Desc) (obj offset flags : Nat) (data : Bytes)
  /-- R514. -/
  | stageRead (d : Desc) (obj offset which : Nat)
  /-- R530. -/
  | stageDiscard (d : Desc) (obj : Nat)
  /-- R532. -/
  | check (d : Desc)
  /-- R533. -/
  | commitAt (d : Desc) (gen : Nat) (stamp : Stamp)
  /-- R514. -/
  | commitCancel (d : Desc) (cue : Nat)
  /-- R239. -/
  | seal (d : Desc) (digest : Nat)
  /-- R515. -/
  | readTime (d : Desc)
  /-- R80. -/
  | timeChallenge (d : Desc)
  /-- R80. -/
  | timeSet (d : Desc) (data : Bytes)
  /-- R63. -/
  | clearFirstSwitch (d : Desc)
  /-- R82. `us` is the time from VDD33 absent to its return. -/
  | powerOff (d : Desc) (us : Nat)
  /-- R516. -/
  | readRegisters (d : Desc) (mp count which : Nat)
  /-- R170. -/
  | syncReset (d : Desc) (heads loc : Nat) (stamp : Stamp)
  /-- R230. -/
  | spareTest (d : Desc) (head ch : Nat)
  /-- R229. -/
  | spareRelease (d : Desc) (head ch : Nat)
  /-- R218. -/
  | captureNow (d : Desc) (set : Nat)
  /-- R516. -/
  | captureRead (d : Desc) (set slot offset flags : Nat)
  /-- R110. -/
  | plyReadmit (d : Desc) (head : Nat)
  /-- R324. -/
  | readSigned (d : Desc) (keysel nreq nflag nonce : Nat) (requests : Bytes)
  /-- R268. -/
  | sessionOpen (d : Desc) (mp tenant sflags : Nat) (stamp : Stamp)
  /-- R269. -/
  | sessionClose (d : Desc) (session : Nat) (stamp : Stamp)
  /-- R518. -/
  | sessionList (d : Desc) (tenant first count : Nat)
  /-- R275. -/
  | billEnd (d : Desc) (tenant : Nat) (stamp : Stamp)
  /-- R518. -/
  | billRead (d : Desc) (what tenant id count : Nat)
  /-- R289. -/
  | tokenSubmit (d : Desc) (tenant : Nat) (digits : Bytes)
  /-- R292. -/
  | ecGrant (d : Desc) (tenant : Nat)
  /-- R294. -/
  | consentDisconnect (d : Desc) (session : Nat)
  /-- R296. -/
  | consentRevoke (d : Desc) (session : Nat)
  /-- R288. -/
  | keypadUnlock (d : Desc)
  /-- R519. -/
  | creditRead (d : Desc) (tenant : Nat)
  /-- R520. -/
  | relaySet (d : Desc) (mp cmd : Nat) (stamp : Stamp)
  /-- R520. -/
  | relayRead (d : Desc) (mp count : Nat)
  /-- R309. -/
  | custodyBind (d : Desc) (session short : Nat)
  /-- R309. -/
  | custodyUnbind (d : Desc) (session bind : Nat)
  /-- R311. -/
  | custodySubmit (d : Desc) (session : Nat) (payload : Bytes)
  /-- R332. -/
  | keyGenerate (d : Desc) (kslot : Nat)
  /-- R333. -/
  | keyImport (d : Desc) (data : Bytes)
  /-- R335. -/
  | keyErase (d : Desc) (kslot : Nat)
  /-- R337. -/
  | keyAttest (d : Desc) (kslot : Nat)
  /-- R381. -/
  | archiveRead (d : Desc) (first count kinds ring flags session : Nat)
  /-- R250. -/
  | legalLogRead (d : Desc) (first count flags : Nat)
  /-- R523. -/
  | tamperRead (d : Desc) (scope mp : Nat)
  /-- R505. -/
  | leaseList (d : Desc) (first count : Nat)
  /-- R419. -/
  | cmpRevoke (d : Desc) (eui : Nat)
  /-- R431. -/
  | cmpPush (d : Desc) (short kslot : Nat) (data : Bytes)
  /-- R433. -/
  | radioTx (d : Desc) (data : Bytes)
  /-- R447. -/
  | annPlay (d : Desc) (arg : Nat)
  /-- R447. -/
  | annStop (d : Desc) (ch clip : Nat)
  /-- R447. -/
  | annTone (d : Desc) (gen ch freq att dur : Nat)
  /-- R525. -/
  | annReset (d : Desc) (ch : Nat)
  /-- R557. -/
  | cascadeStatus (d : Desc)
  /-- R489. -/
  | badDescriptor (d : Desc) (opc : Nat)
  /-- R588. -/
  | rngBootCtrlGo (value : Nat)
  /-- R485. `posts` are the entries the host has put into a BUF or AUD ring, as the hub reads them. -/
  | doorbellWrite (func word : Nat) (posts : List HostPost)
  /-- R480. -/
  | mbxReq (func value : Nat)
  /-- R585. -/
  | captureGroupFirstRead (func group : Nat)
  /-- R590. -/
  | bkdSwitchCtrl (value : Nat)
  /-- R590. -/
  | bkdPwronCtrl (value : Nat)
  /-- R590. -/
  | bkdTimeCtrl (value : Nat)
  /-- R591. Registers 0 to 2 of an alarm: TIME, DATE, CTRL. -/
  | alarmRegisterWrite (alarm reg value : Nat)
  /-- R592. -/
  | gpioWrite (offset value : Nat)
  /-- R593. -/
  | metSiteIdWrite (word value : Nat)
  /-- R596. -/
  | evtOverrunClear (value : Nat)
  /-- R587. -/
  | registerWrite (func bar offset value : Nat)
  /-- R13. -/
  | badAccess (func bar offset : Nat) (write : Bool)
  /-- R462. -/
  | msixUnmask (func vec : Nat)
  /-- R457. -/
  | linkStateChange (up : Bool) (rate width : Nat)
  /-- R465. -/
  | flr (func : Nat)
  /-- R465. -/
  | busMasterEnableCleared (func : Nat)
  /-- R465. -/
  | d3hotEntry (func : Nat)
  /-- R459. -/
  | vfEnableChange (enable : Bool) (num : Nat) (ari : Bool)
  /-- R464. With MSI-X Enable and the vector mask. -/
  | functionLive (func : Nat) (msix : Bool) (vmask : Nat)
  /-- R466. -/
  | teardownComplete (tenant : Nat)
  /-- R470. The ring is the one whose memory the fault hit, if any. -/
  | dmaFault (func cause addr : Nat) (ring : Option Nat)
  /-- R471. `onRequest`: it was met on a request of the function. -/
  | aerError (func : Nat) (correctable : Bool) (status : Nat) (onRequest : Bool)
  /-- R492. -/
  | ringModerationExpire (tenant idx : Nat)
  /-- R497. -/
  | pageFlushExpire (tenant idx : Nat)
  /-- R499. -/
  | stagingDrained (tenant idx : Nat)
  /-- R399. -/
  | faultLevelComplete (domain : Nat)
  /-- R399. -/
  | faultLevelTimeout (domain : Nat)
  /-- R400. `obs` is what training shows where the block is RING. -/
  | escalationComplete (domain : Nat) (obs : TrainObs)
  /-- R403. -/
  | tamperWriteSpanEnd (key : Nat)
  /-- R46. -/
  | cycleBoundary (obs : BoundaryObs)
  /-- R534. The rows of a cue name it by its index. -/
  | cfgCommit (cue : Nat)
  /-- R534. -/
  | cascadeCommit (cue : Nat)
  /-- R171. -/
  | decimSync (cue : Nat)
  /-- R262. -/
  | tariffSwitch (cue : Nat)
  /-- R49. -/
  | reportCut (cue : Nat)
  /-- R54. -/
  | relaySwitch (cue : Nat)
  /-- R218. -/
  | capture (cue : Nat)
  /-- R447. -/
  | annStart (cue : Nat)
  /-- R88. `ends` are the eight local samples with the frame's label. -/
  | slotFrameStart (ends : List (Nat × Nat))
  /-- R108. The sections that returned on a port, 0 PLYA or 1 PLYB, each with its HOP and its bytes; `wrap` is the preamble's WRAP. -/
  | ringFrameReceived (port frame : Nat) (wrap : Bool) (sections : List (Nat × Bytes))
  /-- R24. -/
  | verdictDeadline (head window : Nat)
  /-- R185. -/
  | releaseInstant (mp frame : Nat)
  /-- R202. -/
  | cfSpacingExpire (pin : Nat)
  /-- R201. -/
  | cfWidthEnd (pin : Nat)
  /-- R96. -/
  | messageRepeatExpire (head mseq : Nat)
  /-- R103. -/
  | joinStepTimeout (head : Nat)
  /-- R110. -/
  | exclusionHoldoffEnd (head : Nat)
  /-- R143. -/
  | reportTimeout (head code : Nat)
  /-- R99. Head messages: the position they came from and the decrypted box. -/
  | announce (pos : Nat) (box : Bytes)
  /-- R102. -/
  | cert (pos : Nat) (box : Bytes)
  /-- R104. -/
  | joinHead (pos : Nat) (box : Bytes)
  /-- R105. -/
  | joinFinish (pos : Nat) (box : Bytes)
  /-- R117. -/
  | armAck (pos : Nat) (box : Bytes)
  /-- R57. -/
  | armResult (pos : Nat) (box : Bytes)
  /-- R96. -/
  | ack (pos : Nat) (box : Bytes)
  /-- R100. -/
  | surveyReply (pos : Nat) (box : Bytes)
  /-- R119. -/
  | version (pos : Nat) (box : Bytes)
  /-- R144. -/
  | autonReport (pos : Nat) (box : Bytes)
  /-- R146. -/
  | event (pos : Nat) (box : Bytes)
  /-- R175. -/
  | syncDone (pos : Nat) (box : Bytes)
  /-- R170. `wide` says that the edge is at least 1 µs wide. -/
  | syncInEdge (wide : Bool)
  /-- R171. -/
  | syncSettleTimeout (ch : Nat)
  /-- R219. -/
  | captureComplete (set slot : Nat)
  /-- R224. -/
  | spareFlagsMismatch (head : Nat)
  /-- R226. -/
  | spareMeasurementTimeout (head : Nat)
  /-- R195. `temp` in 1/64 °C. -/
  | junctionTempRange (outside : Bool) (temp : Int)
  /-- R275. -/
  | snapshotComplete (tenant : Nat)
  /-- R279. Keys 0 to 9, then A, B, C, D, * and # as 10 to 15. -/
  | keypadKey (key : Nat)
  /-- R300. -/
  | relayLimitExpire (mp : Nat)
  /-- R300. -/
  | relayFeedbackPersist (mp : Nat)
  /-- R317. -/
  | loggerSilentExpire (session bind : Nat)
  /-- R330. `ok` is the outcome of the start-up test. -/
  | drbgRetry (ok : Bool)
  /-- R364. `ok` says that the program passed. -/
  | flashProgramComplete (block : Nat) (ok : Bool)
  /-- R359. `ok` says that the erase, the blank-check and the header write passed. -/
  | blockEraseComplete (block : Nat) (ok : Bool)
  /-- R368. `weak`: 0 the bit read good, 1 good after the second program, 2 it stayed weak. -/
  | ladderIncrementComplete (weak : Nat)
  /-- R380. `found`: 0 clean, 1 corrected, 2 unreadable, 3 a weak programmed bit, 4 a weak bit that stayed or a frontier not blank. -/
  | patrolRead (area index found : Nat)
  /-- R418. A PSDU with a good FCS and its RSSI. -/
  | joinReq (psdu : Bytes) (rssi : Int)
  /-- R416. A PSDU with a good FCS and its RSSI. -/
  | data (psdu : Bytes) (rssi : Int)
  /-- R433. `supported` says that the PPDU uses no unsupported option. -/
  | rawPpdu (psdu : Bytes) (rssi : Int) (fcsOk supported : Bool)
  /-- R419. -/
  | leaseExpire (short : Nat)
  /-- R419. -/
  | quarantineExpire (short : Nat)
  /-- R411. -/
  | accountBucketExpire (band : Nat)
  /-- R427. `busy` is what listen-before-talk hears. -/
  | txBackoffExpire (item : Nat) (busy : Bool)
  /-- R413. `busy` is what listen-before-talk hears. -/
  | lbtDeferExpire (item : Nat) (busy : Bool)
  /-- R412. -/
  | generalFrameTimeout (item : Nat)
  /-- R442. `half` is the half bridge. -/
  | overCurrentShutdown (ch half : Nat)
  /-- R442. -/
  | loopFaultShutdown (ch : Nat)
  /-- R439. -/
  | retryExpire (ch : Nat)
  /-- R442. -/
  | retryRestore (ch : Nat)
  /-- R440. -/
  | startingComplete (ch : Nat)
  /-- R441. -/
  | stoppingComplete (ch : Nat)
  /-- R439. -/
  | idleTimeout (ch : Nat)
  /-- R443. 0 below 140 °C, 1 from 140, 2 from 150, 3 from 165. -/
  | powerDieTempBand (band : Nat)
  /-- R439. `mv` is VSPK in mV. -/
  | vspkUvlo (mv : Nat)
  /-- R438. `us` is how long the link was not valid. -/
  | annLinkValid (us : Nat)
  /-- R446. -/
  | clipEnd (ch : Nat)
  /-- R447. -/
  | toneEnd (gen : Nat)
  /-- R449. `missed` counts the samples without data. -/
  | pcmBufferEmpty (missed : Nat)
  /-- R66. `good` says the sensor answered; `temp` in 1/64 °C. -/
  | tempSample (good : Bool) (temp : Int)
  /-- R61. -/
  | supplySwitchOver (toVbat : Bool)
  /-- R76. -/
  | vbatLow (low : Bool)
  /-- R74. -/
  | alarmMatch (alarm : Nat)
  /-- R585. -/
  | captureGroupExpire (func group : Nat)
  /-- R243. `first` is the tick of the first open sample. -/
  | sealBrkOpen (first : Nat) (isOpen : Bool)
  /-- R242. -/
  | sealLockChange (strapped : Bool)
  /-- R254. A press of `ms` milliseconds. -/
  | ldspButton (ms : Nat)
  /-- R548. Cascade messages: the port they came on and the packet. -/
  | boundary (port : Nat) (packet : Bytes)
  /-- R551. -/
  | sync (port : Nat) (packet : Bytes)
  /-- R538. -/
  | prepare (port : Nat) (packet : Bytes)
  /-- R538. -/
  | agree (port : Nat) (packet : Bytes)
  /-- R538. -/
  | disagree (port : Nat) (packet : Bytes)
  /-- R538. -/
  | commit (port : Nat) (packet : Bytes)
  /-- R538. -/
  | abort (port : Nat) (packet : Bytes)
  /-- R538. -/
  | confirm (port : Nat) (packet : Bytes)
  /-- R559. -/
  | aggReq (port : Nat) (packet : Bytes)
  /-- R559. -/
  | aggRep (port : Nat) (packet : Bytes)
  /-- R546. -/
  | join (port : Nat) (packet : Bytes)
  /-- R549. -/
  | rillAdmit (port : Nat) (packet : Bytes)
  /-- R547. -/
  | refuse (port : Nat) (packet : Bytes)
  /-- R557. -/
  | status (port : Nat) (packet : Bytes)
  /-- R545. -/
  | leave (port : Nat) (packet : Bytes)
  /-- R548. -/
  | echoReq (port : Nat) (packet : Bytes)
  /-- R548. `roundTrip` in 2^-16 µs. -/
  | echoRep (port : Nat) (packet : Bytes) (roundTrip : Nat)
  /-- R546. -/
  | memberStatusTimeout (hub : Nat)
  /-- R566. `low` is the level the pin takes. -/
  | resetN (low : Bool)
  /-- R572. `done` steps of Table PWR.6 complete in `us` µs; 6 is all of them. -/
  | pfail (done us : Nat)
  /-- R580. The clock is away for `us` µs. -/
  | refclkLoss (us : Nat)
  /-- R579. `core` is the core whose watchdog expired. -/
  | wdtService (core : Nat)
  /-- R568. -/
  | chipStart (obs : StartObs)
  /-- R436. -/
  | radioTxFault (kind : Nat)
  /-- R448. -/
  | warnPlayEnd (mp : Nat)
  /-- R540. -/
  | rilPortLinkChange (port : Nat) (up : Bool)
  /-- R544. -/
  | rillBadPacket (port : Nat) (packet : Bytes)
  /-- R541. -/
  | strapChange (en : Bool) (cascId : Nat)
  /-- R585. -/
  | captureGroupLastRead (func group : Nat)
  /-- R413. `busy` is what listen-before-talk hears. -/
  | bandSilenceEnd (busy : Bool)
  /-- R73. -/
  | bkdRtcSh0
  /-- R472. -/
  | perstNLow
  /-- R457. -/
  | perstNHigh
  /-- R472. -/
  | linkDown
  /-- R472. -/
  | hotReset
  /-- R473. -/
  | hostSilent
  /-- R392. -/
  | eventSuppressionSpanEnd
  /-- R393. -/
  | eventBlockPlaceFree
  /-- R213. -/
  | frequencyIntervalEnd
  /-- R230. -/
  | rotationScheduleTick
  /-- R279. -/
  | keypadEntryTimeout
  /-- R288. -/
  | keypadLockEnd
  /-- R288. -/
  | keypadBadExpire
  /-- R315. -/
  | signatureComplete
  /-- R332. -/
  | keyRecordReadback
  /-- R329. -/
  | drbgReseed
  /-- R330. -/
  | entropyTestFail
  /-- R428. -/
  | beaconInterval
  /-- R411. -/
  | transmissionEnd
  /-- R439. -/
  | vspkRecovered
  /-- R438. -/
  | annLinkLost
  /-- R452. -/
  | muteRise
  /-- R439. -/
  | muteRelease
  /-- R449. -/
  | pcmIdleExpire
  /-- R68. -/
  | compWindowStart
  /-- R65. -/
  | crystalStop
  /-- R65. -/
  | crystalResume
  /-- R73. -/
  | shadowFreezeExpire
  /-- R82. -/
  | pwronMaxOffExpire
  /-- R60. -/
  | bkdReset
  /-- R252. -/
  | ldspFrameTimer
  /-- R253. -/
  | ldspScreenTimer
  /-- R254. -/
  | ldspHoldExpire
  /-- R609. -/
  | jtagActivity
  /-- R550. -/
  | boundaryMissing
  /-- R546. -/
  | joinAnswerTimeout
  /-- R547. -/
  | refusalRetryExpire
  /-- R538. -/
  | prepareReplyTimeout
  /-- R539. -/
  | decisionDeadline
  /-- R539. -/
  | confirmTimeout
  /-- R559. -/
  | aggReqTimeout
  /-- R565. -/
  | por
  /-- R563. -/
  | bor
  /-- R575. -/
  | pfHoldRelease
  /-- R21. -/
  | legalEngineFault
  /-- R579. -/
  | wdtLegal
  /-- R579. -/
  | wdtSystem
  /-- R581. -/
  | serviceRestartComplete
  /-- R502. -/
  | audBufferRead
deriving DecidableEq, Repr

end Sys2Proof
end

