-- ==== Sys2Proof/Config.lean ====
section
/-!
DEFINITION. What one hub fixes, and the values the spec leaves open.
Every `opaque` constant here has no body, so nothing in Lean can learn a value of it and every claim holds for
each value it could have.  Log entries 2 (free values), 3 (cryptography) and 4 (identity) name them.
-/
namespace Sys2Proof.Config

/-- DESIGN CHOICE: the n-th value the spec leaves open; applied to a counter the machine holds. -/
opaque freeValue : Nat → Nat

/-- The hub's 64-bit device identity (DEVICE_ID). -/
opaque deviceId : Nat

/-- The legal firmware identity measured at a CHIP start (LFW_ID). -/
opaque legalFirmwareId : Nat

/-- The master's DEVICE_ID as a member knows it when the cascade object does not give it (R545): no message carries it. -/
opaque masterId : Nat

/-- The hub's own Rill repeat latency in 2^-16 µs, measured at start-up (R543). -/
opaque repeatLatency : Nat

/-- AES-256 CMAC of a message under a key number (R545). -/
opaque cmac256 : Nat → Bytes → Nat

/-- The CAUSE byte of EV_RNG_STATE for a cause the model names by a number: the spec lists no codes. -/
opaque ringStateCause : Nat → Nat

/-- The CAUSE byte of EV_ANN_STATE: the spec lists no codes. -/
opaque annCause : Nat → Nat

/-- TYPE of the legal log entry for a weak bit (R368): Table SEAL.6 lists none. -/
opaque weakBitType : Nat

/-- The cause byte of EV_CMP_AUTH for GEN (0), NOKEY (1), NO_LEASE (2) and TAG (3): the spec gives no codes. -/
opaque radioAuthCause : Nat → Nat

/-- The KG byte of a Campion frame with SEC = 0, which names no slot: the spec gives no value. -/
opaque plainKg : Nat

/-- The hub-loss policies of the four local MPs of a head (POLICY of Table HED.3): the spec names no object that sets them. -/
opaque headPolicy : Nat → Bytes

/-- PILOT of Table HED.3 for a head: the spec names no object that sets it. -/
opaque headPilot : Nat → Nat

/-- DATA of an event whose chapter names what it carries but gives no layout: event ID and the values carried. -/
opaque eventData : Nat → List Int → Bytes

/-- VSPK in mV as the power die reports it at a tick (Table REG.7). -/
opaque vspkLevel : Nat → Nat

/-- A firmware image's version word, and whether its signature verifies under Treten's firmware key in ROM (R513): the spec gives
no layout of an image. -/
opaque imageVersion : List (Nat × BitVec 8) → Nat
opaque imageSigned : List (Nat × BitVec 8) → Bool

/-- Vendor and device identifier, and the silicon revision code (Table REG.8). -/
def idPci : Nat := 0x92561F7B
def idRev : Nat := 0x11

/-- SHA-256 of a byte string, as a 256-bit number whose big-endian bytes are the digest. -/
opaque sha256 : Bytes → Nat

/-- AES-128 CMAC of a message under a key number. -/
opaque cmac : Nat → Bytes → Nat

/-- AES-CCM opening: key, nonce bytes, associated data, sealed bytes; the opened bytes when the tag is good. -/
opaque ccmOpen : Nat → Bytes → Bytes → Bytes → Option Bytes

/-- AES-CCM sealing: key, nonce bytes, associated data, plain bytes. -/
opaque ccmSeal : Nat → Bytes → Bytes → Bytes → Bytes

/-- AES-128 of one 16-byte block under a key number (R282). -/
opaque aes128 : Nat → Bytes → Bytes

/-- An ECDSA P-256 signature over a digest by the key material named, at a fresh counter. -/
opaque ecdsaSign : Nat → Nat → Nat → Bytes

/-- Verification of an ECDSA P-256 signature over a digest under a public key number. -/
opaque ecdsaVerify : Nat → Nat → Bytes → Bool

/-- The public point of key material, 64 bytes. -/
opaque publicKey : Nat → Bytes

/-- Key derivation: key material, label and context give key material. -/
opaque kdf : Nat → Nat → Bytes → Nat

/-- Whether a head certificate is well formed and chains in one step to one of the issuer anchors given (R102). -/
opaque certChains : Bytes → List Bytes → Bool

/-- Whether a certificate's validity dates contain a UTC tick count. -/
opaque certDatesOk : Bytes → Int → Bool

/-- The public key number a certificate carries. -/
opaque certKey : Bytes → Nat

/-- The serial a certificate carries. -/
opaque certSerial : Bytes → Nat

/-- The hub's device certificate in DER form. -/
opaque hubCert : Bytes

/-- Treten's head issuer anchor in ROM. -/
opaque headAnchor : Bytes

/-- Session keys of a join: ephemeral secret, the partner's ephemeral public key, salt, info, and which of the keys in
the derived bytes (R104). -/
opaque sessionKey : Nat → Bytes → Bytes → Bytes → Nat → Nat

/-- The public key of an ephemeral secret, 64 bytes. -/
opaque ephemeralPublic : Nat → Bytes

/-- The hub's device identity key material. -/
opaque deviceKey : Nat

/-- Material of a slot that is loaded at manufacture. -/
opaque factoryKey : Nat → Nat

/-- Whether 64 bytes are a point of P-256 (R334). -/
opaque pointOk : Bytes → Bool

/-- The seal key material (Key store and counters). -/
opaque sealKey : Nat

/-- Unwrapping of an import blob with K8 (R333): the material when the tag is good. -/
opaque unwrapBlob : Bytes → Option Bytes

/-- The factory filter coefficient k of coefficient set 0 (mask ROM). -/
opaque romCoefficient : Nat → Int

/-- The resampling prototype's coefficient k (mask ROM). -/
opaque romResampler : Nat → Int

end Sys2Proof.Config
end

