-- ==== Sys2Proof/Machine/Bytes.lean ====
section
/-!
DEFINITION. Bytes, checks, sparse tables and canonical byte memories: the helpers every block uses.
All integers of a record are little-endian (R8) except hashes, signatures and keys.
-/
namespace Sys2Proof.Machine

/-! ### Bytes and integers -/

/-- The `n` low bytes of `v`, little-endian (R8). -/
def le : Nat → Nat → Bytes
  | 0, _ => []
  | n + 1, v => BitVec.ofNat 8 v :: le n (v / 256)

/-- The `n` low bytes of `v`, most significant first (hashes, signatures and keys). -/
def be (n v : Nat) : Bytes := (le n v).reverse

/-- The little-endian value of a byte run. -/
def leVal : Bytes → Nat
  | [] => 0
  | b :: r => b.toNat + 256 * leVal r

/-- The big-endian value of a byte run. -/
def beVal (b : Bytes) : Nat := leVal b.reverse

/-- A signed value as `n` little-endian two's-complement bytes. -/
def leInt (n : Nat) (v : Int) : Bytes := le n (v % (2 ^ (8 * n) : Nat)).toNat

/-- The two's-complement reading of an `n`-bit value. -/
def signed (n v : Nat) : Int := if v % 2 ^ n < 2 ^ (n - 1) then (v % 2 ^ n : Nat) else ((v % 2 ^ n : Nat) : Int) - (2 ^ n : Nat)

/-- `n` bytes from offset `o`; bytes past the end read 0 (R386's padding). -/
def slice (b : Bytes) (o n : Nat) : Bytes := ((b.drop o).take n) ++ List.replicate (n - (b.drop o).length) 0

/-- The little-endian field of `n` bytes at offset `o`. -/
def fld (b : Bytes) (o n : Nat) : Nat := leVal (slice b o n)

/-- Pad with 0 to `n` bytes, or cut at `n`. -/
def pad (n : Nat) (b : Bytes) : Bytes := slice b 0 n

/-- `n` zero bytes. -/
def zeros (n : Nat) : Bytes := List.replicate n 0

/-- Bit `i` of a number. -/
def bit (v i : Nat) : Bool := v / 2 ^ i % 2 == 1

/-- A flag at bit `i`. -/
def flag (b : Bool) (i : Nat) : Nat := if b then 2 ^ i else 0

/-- Clear bit `i`. -/
def clearBit (v i : Nat) : Nat := if bit v i then v - 2 ^ i else v

/-- Set bit `i`. -/
def setBit (v i : Nat) : Nat := if bit v i then v else v + 2 ^ i

/-- The number of bits set among the low `n`. -/
def popcount : Nat → Nat → Nat
  | 0, _ => 0
  | n + 1, v => v % 2 + popcount n (v / 2)

/-- Quotient rounded half away from zero (R615). -/
def roundDiv (a : Int) (b : Nat) : Int :=
  if b = 0 then 0
  else if 0 ≤ a then ((2 * a.toNat + b) / (2 * b) : Nat) else - (((2 * (-a).toNat + b) / (2 * b) : Nat) : Int)

/-- The integer square root rounded down, by bits from `2 ^ k`. -/
def isqrtBits : Nat → Nat → Nat → Nat
  | 0, _, r => r
  | k + 1, v, r => if (r + 2 ^ k) * (r + 2 ^ k) ≤ v then isqrtBits k v (r + 2 ^ k) else isqrtBits k v r

/-- The integer square root of a value below 2^128, rounded down. -/
def isqrt (v : Nat) : Nat := isqrtBits 64 v 0

/-- Saturate to a signed range of `n` bits. -/
def satInt (n : Nat) (v : Int) : Int := max (-(2 ^ (n - 1) : Nat)) (min v ((2 ^ (n - 1) - 1 : Nat) : Int))

/-! ### Cyclic checks -/

/-- One bit of CRC-16 with polynomial x^16 + x^12 + x^5 + 1 (chapter 4). -/
def crc16Bit (c : Nat) (b : Bool) : Nat :=
  let m := (c * 2) % 65536
  if (bit c 15) != b then m ^^^ 0x1021 else m

/-- CRC-16 over one byte, most significant bit first. -/
def crc16Byte (c : Nat) (b : Byte) : Nat :=
  [7, 6, 5, 4, 3, 2, 1, 0].foldl (fun a i => crc16Bit a (bit b.toNat i)) c

/-- CRC-16 of the Plynury ring chapter: initial value 0xFFFF, no reflection, no final XOR. -/
def crc16 (b : Bytes) : Nat := b.foldl crc16Byte 0xFFFF

/-- One bit of the reflected CRC-32 of IEEE 802.3 (R84). -/
def crc32Bit (c : Nat) (_ : Nat) : Nat := if c % 2 = 1 then (c / 2) ^^^ 0xEDB88320 else c / 2

/-- CRC-32 over one byte. -/
def crc32Byte (c : Nat) (b : Byte) : Nat := [0, 1, 2, 3, 4, 5, 6, 7].foldl crc32Bit (c ^^^ b.toNat)

/-- The CRC-32 of IEEE 802.3 (R84); PRESUMED polynomial and form, log entry 5. -/
def crc32 (b : Bytes) : Nat := (b.foldl crc32Byte 0xFFFFFFFF) ^^^ 0xFFFFFFFF

/-- SHA-256 as 32 big-endian bytes. -/
def sha256 (b : Bytes) : Bytes := be 32 (Config.sha256 b)

/-! ### Sparse tables -/

/-- The entry of key `k`, or `d` when the table lists none. -/
def tget {α : Type} (d : α) : Tbl α → Nat → α
  | [], _ => d
  | (k', v) :: m, k => if k = k' then v else if k < k' then d else tget d m k

/-- The table with key `k` holding `v`, keys kept rising. -/
def tput {α : Type} : Tbl α → Nat → α → Tbl α
  | [], k, v => [(k, v)]
  | (k', v') :: m, k, v =>
    if k < k' then (k, v) :: (k', v') :: m
    else if k = k' then (k, v) :: m
    else (k', v') :: tput m k v

/-- The table without key `k`. -/
def tdel {α : Type} (m : Tbl α) (k : Nat) : Tbl α := m.filter (fun p => p.1 != k)

/-- Whether key `k` is listed. -/
def thas {α : Type} (m : Tbl α) (k : Nat) : Bool := m.any (fun p => p.1 == k)

/-- The entry of key `k` when it is listed. -/
def tfind {α : Type} (m : Tbl α) (k : Nat) : Option α := (m.find? (fun p => p.1 == k)).map (·.2)

/-- Change every entry of a table. -/
def tmap {α : Type} (f : Nat → α → α) (m : Tbl α) : Tbl α := m.map (fun p => (p.1, f p.1 p.2))

/-! ### Byte memories in canonical form -/

/-- A byte memory: addresses strictly rising, no entry equal to what an unlisted address reads as. -/
abbrev Mem := List (Nat × BitVec 8)

/-- The byte at an address. -/
def Mem.read (dflt : Nat → Byte) : Mem → Nat → Byte
  | [], a => dflt a
  | (a', v) :: m, a => if a = a' then v else if a < a' then dflt a else Mem.read dflt m a

/-- Store one byte, keeping the canonical form. -/
def Mem.write (dflt : Nat → Byte) : Mem → Nat → Byte → Mem
  | [], a, v => if v = dflt a then [] else [(a, v)]
  | (a', v') :: m, a, v =>
    if a < a' then (if v = dflt a then (a', v') :: m else (a, v) :: (a', v') :: m)
    else if a = a' then (if v = dflt a then m else (a, v) :: m)
    else (a', v') :: Mem.write dflt m a v

/-- Store a run of bytes from an address up. -/
def Mem.writeAll (dflt : Nat → Byte) : Mem → Nat → Bytes → Mem
  | m, _, [] => m
  | m, a, b :: r => Mem.writeAll dflt (Mem.write dflt m a b) (a + 1) r

/-- `n` bytes from an address up. -/
def Mem.readAll (dflt : Nat → Byte) (m : Mem) (a : Nat) : Nat → Bytes
  | 0 => []
  | n + 1 => Mem.read dflt m a :: Mem.readAll dflt m (a + 1) n

/-- Forget the entries of the addresses from `a` to `a + n - 1`. -/
def Mem.drop (m : Mem) (a n : Nat) : Mem := m.filter (fun p => p.1 < a || a + n ≤ p.1)

/-- The canonical form after a first address bound `lo`: addresses rise from it, and no entry is the default. -/
def Mem.wfFrom (dflt : Nat → Byte) : Nat → Mem → Bool
  | _, [] => true
  | lo, (a, v) :: m => decide (lo ≤ a) && (v != dflt a) && Mem.wfFrom dflt (a + 1) m

/-- The canonical form of a byte memory. -/
def Mem.wf (dflt : Nat → Byte) (m : Mem) : Bool := Mem.wfFrom dflt 0 m

/-! ### Lists -/

/-- The entry of a list at an index, or a default. -/
def nth {α : Type} (d : α) : List α → Nat → α
  | [], _ => d
  | x :: _, 0 => x
  | _ :: r, n + 1 => nth d r n

/-- A list with the entry at an index replaced. -/
def setNth {α : Type} : List α → Nat → α → List α
  | [], _, _ => []
  | _ :: r, 0, v => v :: r
  | x :: r, n + 1, v => x :: setNth r n v

/-- The numbers from `a` up, `n` of them. -/
def span (a : Nat) : Nat → List Nat
  | 0 => []
  | n + 1 => a :: span (a + 1) n

/-- The sum of a list of integers. -/
def isum (l : List Int) : Int := l.foldl (· + ·) 0

/-- The sum of a list of naturals. -/
def nsum (l : List Nat) : Nat := l.foldl (· + ·) 0

end Sys2Proof.Machine
end

