-- ==== Sys2Proof/Machine/Dates.lean ====
section
/-!
DEFINITION. Dates of the hub's calendar (R70–R72, R258): day 0 is 2000-01-01, weekday 6.
-/
namespace Sys2Proof.Machine

/-- A leap year of the Gregorian calendar. -/
def leap (y : Nat) : Bool := (y % 4 == 0 && y % 100 != 0) || y % 400 == 0

/-- Days of a month. -/
def monthDays (y m : Nat) : Nat :=
  if m = 2 then (if leap y then 29 else 28) else if m = 4 ∨ m = 6 ∨ m = 9 ∨ m = 11 then 30 else 31

/-- Days from 2000-01-01 to the first day of year `y`, from 2000 on. -/
def yearStart (y : Nat) : Nat :=
  365 * (y - 2000) + (y - 1997) / 4 + ((y - 1) / 400 - 4) - ((y - 1) / 100 - 19)

/-- Days from the first day of year `y` to the first day of month `m`. -/
def monthStart (y m : Nat) : Nat := nsum ((span 1 (m - 1)).map (monthDays y))

/-- The day number of a date. -/
def dayNumber (y m d : Nat) : Nat := yearStart y + monthStart y m + (d - 1)

/-- ISO weekday of a day number: 2000-01-01 is 6 (R70). -/
def weekday (day : Nat) : Nat := (day + 5) % 7 + 1

/-- The year of a day number, 2000 to 2199. -/
def yearOf (day : Nat) : Nat := (span 2001 199).foldl (fun y c => if yearStart c ≤ day then c else y) 2000

/-- The month of a day number. -/
def monthOf (day : Nat) : Nat :=
  let y := yearOf day
  (span 2 11).foldl (fun m c => if yearStart y + monthStart y c ≤ day then c else m) 1

/-- The day of the month of a day number. -/
def dayOf (day : Nat) : Nat := day - (yearStart (yearOf day) + monthStart (yearOf day) (monthOf day)) + 1

/-- The day number of the w-th weekday `wd` of a month, w = 5 the last one (R72). -/
def nthWeekday (y m w wd : Nat) : Nat :=
  let first := dayNumber y m 1
  let d0 := first + (wd + 7 - weekday first) % 7
  let last := first + monthDays y m - 1
  if w < 5 then d0 + 7 * (w - 1) else d0 + 7 * ((last - d0) / 7)

/-- Ticks in one day. -/
def dayTicks : Nat := 86400 * ticksPerSecond

/-- The last UTC tick of the calendar's range, 2199-12-31T23:59:59 (R71). -/
def calendarEnd : Nat := yearStart 2200 * dayTicks - 1

/-- Ticks of one minute. -/
def minuteTicks : Nat := 60 * ticksPerSecond

/-- A DST rule (Table BKD.9): month and week, weekday, minute. -/
structure DstPoint where
  mw : Nat
  wd : Nat
  minute : Nat
deriving DecidableEq, Repr

/-- The standard-local instant of a DST point in year `y`, in ticks. -/
def DstPoint.instant (p : DstPoint) (y : Nat) : Nat :=
  nthWeekday y (p.mw % 16) (p.mw / 16 % 8) p.wd * dayTicks + p.minute * minuteTicks

/-- The date of a DST point in year `y`. -/
def DstPoint.day (p : DstPoint) (y : Nat) : Nat := nthWeekday y (p.mw % 16) (p.mw / 16 % 8) p.wd

/-- The fields of a DST point lie in their ranges (Table BKD.9). -/
def DstPoint.ok (p : DstPoint) : Bool :=
  decide (1 ≤ p.mw % 16 ∧ p.mw % 16 ≤ 12 ∧ 1 ≤ p.mw / 16 % 8 ∧ p.mw / 16 % 8 ≤ 5 ∧ 1 ≤ p.wd ∧ p.wd ≤ 7 ∧ p.minute ≤ 1439)

/-- Whether DST is in force at a standard-local instant (R72). -/
def dstInForce (start finish : DstPoint) (std : Int) : Bool :=
  if std < 0 then false else
  let t := std.toNat
  let y := yearOf (t / dayTicks)
  let a := start.instant y
  let b := finish.instant y
  if a < b then decide (a ≤ t ∧ t < b) else decide (t < b ∨ a ≤ t)

end Sys2Proof.Machine
end

