-- ==== Sys2Proof/Machine/Objects.lean ====
section
/-!
DEFINITION. The configuration objects of Table SLU.1: their codes, sizes, classes, default contents and the ranges
of their fields (rules FIELD and the object rules of Table SLU.2).
-/
namespace Sys2Proof.Machine

/-! ### Codes -/

/-- Object types of Table SLU.1. -/
def objFilter : Nat := 0x01
def objCoef : Nat := 0x02
def objScale : Nat := 0x03
def objMp : Nat := 0x04
def objCf : Nat := 0x05
def objClock : Nat := 0x10
def objComp : Nat := 0x11
def objCalendar : Nat := 0x12
def objSync : Nat := 0x13
def objRing : Nat := 0x14
def objDetect : Nat := 0x15
def objSection : Nat := 0x16
def objQuality : Nat := 0x17
def objCapture : Nat := 0x18
def objSlot : Nat := 0x20
def objBilling : Nat := 0x21
def objBinding : Nat := 0x22
def objCredit : Nat := 0x23
def objRelay : Nat := 0x24
def objCustody : Nat := 0x25
def objSubscription : Nat := 0x30
def objArchMask : Nat := 0x31
def objTenant : Nat := 0x32
def objStaging : Nat := 0x33
def objRadio : Nat := 0x34
def objAnn : Nat := 0x35
def objClip : Nat := 0x36
def objCascade : Nat := 0x40

/-- The 16-bit OBJ of a type and an instance. -/
def objCode (t i : Nat) : Nat := t * 256 + i

/-- Whether an OBJ is one of Table SLU.1. -/
def objKnown (obj : Nat) : Bool :=
  let t := obj / 256
  let i := obj % 256
  if t = objCoef then decide (1 ≤ i ∧ i ≤ 31)
  else if t = objSlot then decide (i ≤ 65)
  else [0x01, 0x03, 0x04, 0x05, 0x10, 0x11, 0x12, 0x13, 0x14, 0x15, 0x16, 0x17, 0x18, 0x21, 0x22, 0x23, 0x24, 0x25,
        0x30, 0x31, 0x32, 0x33, 0x34, 0x35, 0x36, 0x40].contains t && i == 0

/-- Size of an object in bytes (Table SLU.1); the clip object's own length is kept apart. -/
def objSize (obj : Nat) : Nat :=
  match obj / 256 with
  | 0x01 => 17536
  | 0x02 => 200
  | 0x03 => 8776
  | 0x04 => 16448
  | 0x05 => 48
  | 0x10 => 16
  | 0x11 => 56
  | 0x12 => 16
  | 0x13 => 8
  | 0x14 => 712
  | 0x15 => 74528
  | 0x16 => 128
  | 0x17 => 1024
  | 0x18 => 1280
  | 0x20 => 3536
  | 0x21 => 1024
  | 0x22 => 2048
  | 0x23 => 6152
  | 0x24 => 4096
  | 0x25 => 4608
  | 0x30 => 272
  | 0x31 => 256
  | 0x32 => 4112
  | 0x33 => 512
  | 0x34 => 1296
  | 0x35 => 32
  | 0x36 => 393728
  | 0x40 => 72
  | _ => 0

/-- Calibration objects (class CAL of Table SLU.1). -/
def objCal (obj : Nat) : Bool := decide (1 ≤ obj / 256 ∧ obj / 256 ≤ 5)

/-- Agreed objects (Table SLU.1). -/
def objAgreed (obj : Nat) : Bool := [0x12, 0x20, 0x21, 0x32, 0x40].contains (obj / 256)

/-! ### Defaults -/

/-- The byte of a header-then-entries layout. -/
def entryByte (hdr entry : Bytes) (off : Nat) : Byte :=
  if off < hdr.length then nth 0 hdr off else nth 0 entry ((off - hdr.length) % entry.length)

/-- Default MP entry: absent, or three-phase for the local incomer (Table MET.3). -/
def mpDefault (three : Bool) : Bytes :=
  [if three then 2 else 0, 0, 0xFF, 0] ++ zeros 36 ++ le 4 2000 ++ le 4 2000 ++ le 4 20 ++ le 4 10000 ++ [0, 10] ++ zeros 6

/-- Default band entries (Table CMP.2); DESIGN CHOICE for CH, OFF_MS and PREAMBLE, log entry 8. -/
def bandDefault (b : Nat) : Bytes :=
  let mk := fun (flo sp n budget reserve rate lth lis flags : Nat) =>
    [BitVec.ofNat 8 flags, BitVec.ofNat 8 rate, 14, BitVec.ofNat 8 reserve] ++ le 4 flo ++ le 2 sp ++
      [BitVec.ofNat 8 n, 0] ++ le 4 budget ++ le 2 lth ++ le 2 lis ++ le 2 0 ++ [4] ++ zeros 9
  if b = 0 then mk 868000 200 3 36000 50 0 (65536 - 85) 5000 5
  else if b = 1 then mk 869400 250 1 360000 50 0 (65536 - 85) 5000 5
  else if b = 2 then mk 902200 400 64 0 50 1 (65536 - 85) 5000 7
  else zeros 32

/-- Quality and health defaults (Table PQE.6). -/
def qualityDefault (off : Nat) : Byte :=
  if off < 260 then nth 0 (le 4 230000) (off % 4)
  else if off < 268 then nth 0 (le 2 9000 ++ le 2 11000 ++ le 2 500 ++ le 2 200) (off - 260)
  else if off < 332 then 0xFF
  else if off < 340 then 0
  else if off < 360 then
    nth 0 (le 2 1000 ++ [3, 50] ++ le 2 1000 ++ le 2 500 ++ le 4 0x100000 ++ le 4 0x10000 ++ [4, 0] ++ le 2 300) (off - 340)
  else 0

/-- The default of calendar 0 (Table TAR.1, R256): one rate at price 0. -/
def slotDefault (off : Nat) : Byte :=
  if off = 0 ∨ off = 2 ∨ (16 ≤ off ∧ off ≤ 19) ∨ off = 288 ∨ off = 289 then 1
  else if 40 ≤ off ∧ off < 48 then 0x20
  else if 468 ≤ off ∧ off < 528 ∧ off % 4 < 2 then 0xFF
  else 0

/-- The default byte of an object: what it holds until a commit changes it.
Fields the tables give no default read 0, or the value log entry 8 names. -/
def objDefault (obj off : Nat) : Byte :=
  match obj / 256 % 256 with
  | 0x03 => entryByte ([9] ++ zeros 7) (le 4 0x40000000 ++ [30, 0, 0, 0]) off
  | 0x04 => nth 0 (mpDefault (decide (16384 ≤ off))) (off % 64)
  | 0x05 => entryByte [] (le 2 0xFFFF ++ [0, 10] ++ le 4 10000 ++ zeros 4) off
  | 0x10 => nth 0 ([0, 1, 2, 0xFF, 20, 0, 0, 0] ++ le 4 230000 ++ zeros 4) off
  | 0x13 => nth 0 [0, 4, 0, 0, 0, 0, 0, 0] off
  | 0x14 => if off < 512 then 0 else nth 0 (le 2 10 ++ le 2 32) (off - 512)
  | 0x15 => entryByte [] ([0, 0, 0, 0] ++ (List.replicate 4 ([0, 1, 1, 0] ++ zeros 12)).flatten) off
  | 0x16 => entryByte [] (le 2 0xFFFF ++ [2, 20] ++ le 4 0 ++ le 4 45000 ++ zeros 4) off
  | 0x17 => qualityDefault off
  | 0x18 => entryByte [] ([0, 0, 1, 1] ++ zeros 76) off
  | 0x20 => if obj = 0x2000 then slotDefault off else 0
  | 0x23 => entryByte (le 2 300 ++ zeros 6) (zeros 20 ++ le 4 10) off
  | 0x24 => entryByte [] (le 2 16384 ++ le 2 0 ++ le 4 20000 ++ le 4 15000 ++ zeros 4) off
  | 0x25 => if off < 4096 then nth 0 ([0, 0xFF] ++ le 2 60 ++ le 2 60 ++ le 2 900 ++ zeros 8) (off % 16) else 0
  | 0x30 => 0xFF
  | 0x31 => 0xFF
  | 0x32 =>
    if off < 16 then 0
    else if off = 16 then 1
    else nth 0 ([0, 16, 4, 0, 0, 0, 0, 0] ++ List.replicate 8 0x20) (off % 16)
  | 0x33 => if off % 2 = 0 then 4 else 0
  | 0x34 =>
    if off < 16 then nth 0 ([0, 0, 0, 0, 10, 4, 0, 20] ++ le 4 86400 ++ zeros 4) off
    else if off < 272 then nth 0 (bandDefault ((off - 16) / 32)) ((off - 16) % 32)
    else 0
  | 0x35 => nth 0 ([24, 24] ++ le 2 10 ++ [1, 24, 2, 0, 0xFF, 0]) off
  | 0x40 => if off = 1 then 1 else 0
  | _ => 0

/-- The configuration memory's address of a byte of an object: 2^20 × key + offset. -/
def cfgAddr (key off : Nat) : Nat := key * 1048576 + off

/-- What an unlisted configuration address reads as: the object's default byte. -/
def cfgDefault (a : Nat) : Byte := objDefault (a / 1048576 % 65536) (a % 1048576)

/-- The key of an object of a tenant: the subscription object has one copy per tenant (R528). -/
def objKey (tenant obj : Nat) : Nat := if obj / 256 = objSubscription then obj + 65536 * tenant else obj

/-! ### Field ranges (rule FIELD)

Each check reads its object through `r off size`, the little-endian value of `size` bytes at `off`. -/

/-- How a check reads an object. -/
abbrev Rd := Nat → Nat → Nat

/-- `lo ≤ v ≤ hi`. -/
def within (lo v hi : Nat) : Bool := decide (lo ≤ v ∧ v ≤ hi)

/-- A signed field of `n` bytes lies within ± bounds. -/
def withinInt (lo : Int) (n v : Nat) (hi : Int) : Bool := decide (lo ≤ signed (8 * n) v ∧ signed (8 * n) v ≤ hi)

/-- Channel filter fields (Table FLT.5). -/
def fieldFilter (r : Rd) : Bool :=
  (span 0 1096).all fun c => within 0 (r (16 * c) 1) 2 && within 0 (r (16 * c + 1) 1) 31 &&
    withinInt (-1342177) 4 (r (16 * c + 4) 4) 1342177

/-- Coefficient set fields (Table FLT.6). -/
def fieldCoef (r : Rd) : Bool := within 0 (r 0 1) 64 && within 0 (r 4 4) 4128768

/-- Channel scale fields (Table MET.2). -/
def fieldScale (r : Rd) : Bool := within 7 (r 0 1) 10 && (span 0 1096).all fun c => within 0 (r (8 + 8 * c + 4) 1) 63

/-- MP fields (Table MET.3). -/
def fieldMp (r : Rd) : Bool :=
  (span 0 257).all fun m =>
    let b := 64 * m
    within 0 (r b 1) 2 && (m != 256 || r b 1 == 2) && within 0 (r (b + 1) 1) 2 &&
    (within 0 (r (b + 2) 1) 7 || r (b + 2) 1 == 0xFF) && within 0 (r (b + 3) 1) 1 &&
    within 1 (r (b + 52) 4) 1000000 && within 0 (r (b + 56) 1) 6 && within 1 (r (b + 57) 1) 80

/-- CF pin fields (Table MET.4). -/
def fieldCf (r : Rd) : Bool :=
  (span 0 4).all fun p => let b := 12 * p
    (within 0 (r b 2) 256 || r b 2 == 0xFFFF) && within 0 (r (b + 2) 1 % 8) 6 && within 0 (r (b + 2) 1 / 8 % 4) 3 &&
    within 1 (r (b + 3) 1) 80 && within 1 (r (b + 4) 4) 1000000

/-- Cycle clock fields (Table SLU.5). -/
def fieldClock (r : Rd) : Bool :=
  (span 0 4).all (fun i => within 0 (r i 1) 2 || r i 1 == 0xFF) && within 5 (r 4 1) 80 && within 0 (r 5 1) 1

/-- A DST point of the calendar object. -/
def dstPoint (r : Rd) (off : Nat) : DstPoint := ⟨r off 1, r (off + 1) 1, r (off + 2) 2⟩

/-- Calendar fields (Table BKD.9, R72). -/
def fieldCalendar (r : Rd) : Bool :=
  withinInt (-48) 1 (r 0 1) 56 && within 0 (r 1 1) 8 &&
  (r 1 1 == 0 || ((dstPoint r 2).ok && (dstPoint r 6).ok &&
    (span 2000 200).all fun y => (dstPoint r 2).day y != (dstPoint r 6).day y))

/-- Sync fields (Table FLT.10). -/
def fieldSync (r : Rd) : Bool := within 4 (r 1 1) 255 && within 0 (r 4 1) 2

/-- Ring configuration fields (Table PLY.12). -/
def fieldRing (r : Rd) : Bool := within 1 (r 512 2) 3600 && within 16 (r 514 2) 1024 && within 0 (r 516 1) 3

/-- Detector and threshold fields (Table FLT.7). -/
def fieldDetect (r : Rd) : Bool :=
  (span 0 1096).all fun c => let b := 68 * c
    within 0 (r b 2 % 32) 20 && within 0 (r b 2 / 256 % 32) 20 &&
    (span 0 4).all fun t => within 0 (r (b + 4 + 16 * t) 1 / 4 % 8) 4 &&
      within 1 (r (b + 5 + 16 * t) 1) 255 && within 1 (r (b + 6 + 16 * t) 1) 255

/-- Section fields (Table MET.5). -/
def fieldSection (r : Rd) : Bool :=
  (span 0 8).all fun k => let b := 16 * k
    (within 0 (r b 2) 256 || r b 2 == 0xFFFF) && within 1 (r (b + 2) 1) 15 && within 1 (r (b + 3) 1) 255 &&
    within 3000 (r (b + 8) 4) 1048576

/-- Quality and health fields (Table PQE.6). -/
def fieldQuality (r : Rd) : Bool :=
  (span 0 64).all (fun h => within 0 (r (268 + h) 1) 7 || r (268 + h) 1 == 0xFF) &&
  (span 0 8).all (fun k => within 0 (r (332 + k) 1) 1) && within 1 (r 342 1) 255 && within 1 (r 343 1) 255 &&
  within 2 (r 356 1) 16 && (r 358 2 == 0 || within 10 (r 358 2) 65535)

/-- Capture set fields (Table PQE.8). -/
def fieldCapture (r : Rd) : Bool :=
  (span 0 16).all fun k => let b := 80 * k
    within 0 (r b 1) 32 && within 0 (r (b + 1) 1) 16 && within 1 (r (b + 2) 1) 64 && within 1 (r (b + 3) 1 % 8) 4 &&
    (span 0 (r b 1)).all fun i => within 0 (r (b + 16 + 2 * i) 2) 1095

/-- A calendar slot is present (Table TAR.1). -/
def slotPresent (r : Rd) : Bool := r 2 2 % 2 == 1

/-- A day profile is well formed (R258). -/
def dayProfileOk (r : Rd) (d : Nat) : Bool :=
  let m := fun i => r (464 + 64 * d + 4 * i) 2
  let rate := fun i => r (464 + 64 * d + 4 * i + 2) 1
  m 0 == 0 &&
  (span 0 16).all (fun i => m i == 0xFFFF || (within 0 (m i) 1439 && decide (rate i < r 16 1))) &&
  (span 1 15).all (fun i => m i == 0xFFFF || (m (i - 1) != 0xFFFF && decide (m (i - 1) < m i)))

/-- The seasons are in strictly rising order, on valid days (R258). -/
def seasonsOk (r : Rd) : Bool :=
  let mo := fun i => r (288 + 4 * i) 1
  let da := fun i => r (288 + 4 * i + 1) 1
  (span 0 (r 17 1)).all (fun i => within 1 (mo i) 12 && within 1 (da i) (monthDays 2000 (mo i)) &&
    decide (r (288 + 4 * i + 2) 1 < r 18 1)) &&
  (span 1 (r 17 1 - 1)).all (fun i => decide (mo (i - 1) * 32 + da (i - 1) < mo i * 32 + da i))

/-- The period-end rule of a slot is well formed (Table TAR.1). -/
def billOk (r : Rd) : Bool :=
  within 0 (r 24 2) 1439 &&
  (match r 22 1 with
   | 0 => r 23 1 == 0
   | 1 => r 23 1 == 0
   | 2 => within 1 (r 23 1) 7
   | 3 => within 1 (r 23 1) 28 || r 23 1 == 0xFF
   | _ => false)

/-- A calendar slot passes CAL_SLOT (R258). -/
def slotOk (passive : Bool) (r : Rd) : Bool :=
  !slotPresent r ||
  (within 1 (r 16 1) 16 && within 1 (r 17 1) 12 && within 1 (r 18 1) 16 && within 1 (r 19 1) 32 && within 0 (r 20 1) 128 &&
   seasonsOk r &&
   (span 0 (r 18 1)).all (fun w => (span 0 7).all fun d => decide (r (336 + 8 * w + d) 1 < r 19 1)) &&
   (span 0 (r 20 1)).all (fun k => decide (r (2512 + 8 * k + 4) 1 < r 19 1)) &&
   (span 0 (r 19 1)).all (fun d => dayProfileOk r d) &&
   decide (r 21 1 < r 16 1) && billOk r && (!passive || r 8 8 != 0))

/-- Calendar slot fields (Table TAR.1). -/
def fieldSlot (passive : Bool) (r : Rd) : Bool :=
  !slotPresent r || (r 0 2 == 1 && (if passive then r 8 8 != 0 else r 8 8 == 0) &&
    within 1 (r 16 1) 16 && within 1 (r 17 1) 12 && within 1 (r 18 1) 16 && within 1 (r 19 1) 32 && within 0 (r 20 1) 128 &&
    decide (r 21 1 < r 16 1) && billOk r &&
    (span 0 (r 20 1)).all fun k =>
      let y := r (2512 + 8 * k) 2
      let m := r (2512 + 8 * k + 2) 1
      (y == 0 || within 2000 y 2199) && within 1 m 12 && within 1 (r (2512 + 8 * k + 3) 1) (monthDays (if y = 0 then 2000 else y) m))

/-- Tenant billing fields (Table TAR.3). -/
def fieldBilling (r : Rd) : Bool := r 0 1 == 0 && (span 0 256).all fun t => within 0 (r (4 * t) 1) 32

/-- MP binding fields (Table TAR.4). -/
def fieldBinding (r : Rd) : Bool :=
  (span 0 256).all fun m => within 0 (r (8 * m) 1) 1 && (r (8 * m + 4) 4 == 0 || within 50 (r (8 * m + 4) 4) 1048576)

/-- Credit fields (Table CRD.5); LOCK_S is held in 2-second units. -/
def fieldCredit (r : Rd) : Bool :=
  within 30 (r 0 2) 43200 && within 0 (r 2 1) 63 &&
  (span 0 256).all fun t => let b := 8 + 24 * t
    within 0 (r b 1) 1 && within 1 (r (b + 20) 4) 65535

/-- Relay fields (Table CRD.6). -/
def fieldRelay (r : Rd) : Bool :=
  (span 0 256).all fun m => let b := 16 * m
    within 1000 (r (b + 4) 4) 200000 && within 1000 (r (b + 8) 4) 200000

/-- Custody fields (Table CUS.7). -/
def fieldCustody (r : Rd) : Bool :=
  (span 0 256).all (fun m => let b := 16 * m
    (within 0 (r (b + 1) 1) 15 || r (b + 1) 1 == 0xFF) && within 10 (r (b + 2) 2) 600 && within 10 (r (b + 4) 2) 3600 &&
    within 60 (r (b + 6) 2) 65535) &&
  (span 0 64).all (fun k => within 0 (r (4096 + 8 * k) 1 / 4 % 4) 2)

/-- Subscription fields (Table EVT.7). -/
def fieldSubscription (r : Rd) : Bool :=
  (span 0 16).all fun c => within 0 (r (256 + c) 1) 63 || r (256 + c) 1 == 0xFF

/-- Tenant fields (Table HIF.6). -/
def fieldTenant (r : Rd) : Bool :=
  within 0 (r 0 2) 3600 && r 16 1 % 2 == 1 &&
  (span 0 256).all fun t => within 1 (r (16 + 16 * t + 1) 1) 64 && within 1 (r (16 + 16 * t + 2) 1) 8

/-- Stream staging fields (Table RNG.15). -/
def fieldStaging (r : Rd) : Bool := (span 0 256).all fun t => within 1 (r (2 * t) 1) 32

/-- One defined band's fields (Table CMP.7). -/
def fieldBand (r : Rd) (n : Nat) : Bool :=
  let b := 16 + 32 * n
  r b 1 % 2 == 0 ||
  (within 0 (r (b + 1) 1) 2 && withinInt (-10) 1 (r (b + 2) 1) 14 && within 0 (r (b + 3) 1) 90 && within 100 (r (b + 8) 2) 1000 &&
   within 1 (r (b + 10) 1) 128 && withinInt (-110) 2 (r (b + 16) 2) (-50) && within 160 (r (b + 18) 2) 10000 &&
   within 0 (r (b + 20) 2) 10000 && within 4 (r (b + 22) 1) 32)

/-- Radio fields (Tables CMP.6 and CMP.7). -/
def fieldRadio (r : Rd) : Bool :=
  within 0 (r 0 1) 2 && within 0 (r 1 1) 7 && within 1 (r 4 1) 60 && within 1 (r 5 1) 15 && within 0 (r 7 1) 100 &&
  within 3600 (r 8 4) 2592000 && within 0 (r 12 1) 63 && (span 0 8).all (fieldBand r) &&
  (span 0 256).all fun t => r (274 + 4 * t) 2 == 0 ||
    (within 1 (r (272 + 4 * t) 2) 0xFFFD && decide (r (272 + 4 * t) 2 + r (274 + 4 * t) 2 ≤ 0xFFFE))

/-- Annunciator fields (Table ANN.3). -/
def fieldAnn (r : Rd) : Bool :=
  within 1 (r 2 2) 600 && within 0 (r 4 1) 2 && within 16 (r 5 1) 40 && within 0 (r 6 1) 2 &&
  (within 0 (r 8 1) 63 || r 8 1 == 0xFF)

/-- A band keeps R410. -/
def bandOk (r : Rd) (n : Nat) : Bool :=
  let b := 16 + 32 * n
  let lo := r (b + 4) 4
  let hi := lo + r (b + 8) 2 * r (b + 10) 1
  r b 1 % 2 == 0 ||
  ((decide (863000 ≤ lo ∧ hi ≤ 870000) || decide (902000 ≤ lo ∧ hi ≤ 928000)) && decide (r (b + 11) 1 < r (b + 10) 1) &&
   withinInt (-128) 1 (r (b + 2) 1) 14)

/-- The radio object passes BAND (R410). -/
def radioBandsOk (r : Rd) : Bool :=
  (span 0 8).all (bandOk r) && (r 0 1 == 0 || r (16 + 32 * r 1 1) 1 % 2 == 1)

/-- The tenant ranges of the radio object do not overlap (ADDR_RANGE). -/
def addrRangesOk (r : Rd) : Bool :=
  let used := (span 0 256).filter fun t => r (274 + 4 * t) 2 != 0
  used.all fun a => used.all fun b =>
    decide (a = b ∨ r (272 + 4 * a) 2 + r (274 + 4 * a) 2 ≤ r (272 + 4 * b) 2 ∨
      r (272 + 4 * b) 2 + r (274 + 4 * b) 2 ≤ r (272 + 4 * a) 2)

/-- The clip object passes CLIP_SIZE (R450): `len` is the object's length. -/
def clipsOk (len : Nat) (r : Rd) : Bool :=
  decide (len - 512 ≤ 393216) &&
  (span 0 64).all fun c => r (8 * c + 4) 3 == 0 || decide (r (8 * c) 4 + r (8 * c + 4) 3 ≤ len - 512)

/-- The archive mask excludes nothing it may not (R389). -/
def archMaskOk (isFault : Nat → Bool) (r : Rd) : Bool :=
  (span 0 2048).all fun id =>
    bit (r (id / 8) 1) (id % 8) ||
      !(isFault id || [8, 11, 12].contains (id / 128) || (id / 128 == 0 && decide (64 ≤ id)))

/-- Rule FIELD for one object. -/
def fieldOk (obj : Nat) (r : Rd) : Bool :=
  match obj / 256 with
  | 0x01 => fieldFilter r
  | 0x02 => fieldCoef r
  | 0x03 => fieldScale r
  | 0x04 => fieldMp r
  | 0x05 => fieldCf r
  | 0x10 => fieldClock r
  | 0x12 => fieldCalendar r
  | 0x13 => fieldSync r
  | 0x14 => fieldRing r
  | 0x15 => fieldDetect r
  | 0x16 => fieldSection r
  | 0x17 => fieldQuality r
  | 0x18 => fieldCapture r
  | 0x20 => fieldSlot (obj % 2 == 1) r
  | 0x21 => fieldBilling r
  | 0x22 => fieldBinding r
  | 0x23 => fieldCredit r
  | 0x24 => fieldRelay r
  | 0x25 => fieldCustody r
  | 0x30 => fieldSubscription r
  | 0x32 => fieldTenant r
  | 0x33 => fieldStaging r
  | 0x34 => fieldRadio r
  | 0x35 => fieldAnn r
  | _ => true

end Sys2Proof.Machine
end

