-- ==== Sys2Proof/Machine/State.lean ====
section
/-!
DEFINITION. The state of the hub: every register, queue, counter, mode and pin the spec gives it, as plain data,
with `State.reset`.  Each structure names the chapter of spec/ that gives its fields; INVENTORY.md lists them one by
one with their reset values.
-/
namespace Sys2Proof.Machine

/-! ### Cycle clock and cues (02_cycle_clock.md) -/

/-- Clock states with the CLK codes of Table CYC.1. -/
inductive ClkState where
  | locked | slave | acquire | relock | coastLast | coastNom
deriving DecidableEq, Repr

/-- Cue states (R618, Table CYC.6). -/
inductive CueState where
  | free | pending | armed | done | cancelled | late
deriving DecidableEq, Repr

/-- A scheduler cue (R49, Table CYC.6). -/
structure Cue where
  stamp : Stamp := 0
  kind : Nat := 0
  owner : Nat := 0
  state : CueState := .free
  arg : Nat := 0
deriving DecidableEq, Repr

/-- A boundary log entry (Table CYC.5). -/
structure BndEntry where
  cycle : Nat
  state : Nat
  tickFrac : Nat
  ticks : Nat
  frameFrac : Nat
  frame : Nat
  freq : Nat
deriving DecidableEq, Repr

/-- The cycle clock and its scheduler. -/
structure Clk where
  state : ClkState := .coastNom
  /-- Locked at least once since the last CHIP reset (Table CYC.2). -/
  everLocked : Bool := false
  /-- The anchor has been read, so the next boundary is numbered (R617). -/
  numbering : Bool := false
  /-- Number of the last numbered boundary, with its ticks and frame (R31). -/
  cycle : Option Nat := none
  tick : Nat := 0
  tickFrac : Nat := 0
  frame : Nat := 0
  frameFrac : Nat := 0
  /-- Tracked frequency and phase error (R36), and the last frequency while locked. -/
  freq : Nat := 3276800
  phaseErr : Int := 0
  lockedFreq : Nat := 3276800
  /-- Index in the reference list of the active reference. -/
  active : Option Nat := none
  /-- Consecutive cycles each of VA, VB, VC has been valid (R34). -/
  refRun : List Nat := [0, 0, 0]
  /-- Phase offsets of VA, VB, VC against the active reference, newest first, at most 16 (R35). -/
  joint : List (List Int) := [[], [], []]
  /-- The offset applied to the active reference. -/
  offset : Int := 0
  /-- Consecutive cycles that meet the lock criterion (R37), and those each of VA, VB, VC has measured out of range (R38). -/
  lockRun : Nat := 0
  outRun : List Nat := [0, 0, 0]
  /-- The reference switched in the running cycle; the switch awaits an offset measurement (R35). -/
  refSwitched : Bool := false
  /-- 0-LOW filter of set 0 in use (R152). -/
  lowBand : Bool := true
  log : List BndEntry := []
  /-- The anchor read at this start (cycle, ticks), and the first boundary logged since (R44, R198). -/
  anchor : Option (Nat × Nat) := none
  first : Option BndEntry := none
  cues : Tbl Cue := []
deriving DecidableEq, Repr

/-! ### Backup domain (03_backup_time.md) -/

/-- A cycle anchor slot of retention SRAM (Table BKD.7); `good` stands for its CRC. -/
structure Anchor where
  seq : Nat := 0
  cycle : Nat := 0
  ticks : Nat := 0
  clk : Nat := 0
  good : Bool := false
deriving DecidableEq, Repr

/-- One alarm (R74), as its three registers. -/
structure Alarm where
  time : Nat := 0x01000000
  date : Nat := 0x07D00101
  ctrl : Nat := 0
  /-- Tick at which its values took effect, and the UTC second of its last firing. -/
  since : Nat := 0
  last : Option Int := none
deriving DecidableEq, Repr

/-- One band's duty account in retention SRAM (Table BKD.6). -/
structure Duty where
  defined : Bool := false
  cur : Nat := 0
  minStart : Nat := 0
  buckets : List Nat := []
deriving DecidableEq, Repr

/-- Retention SRAM (Table BKD.4). -/
structure Ret where
  /-- The header is valid (R85). -/
  valid : Bool := false
  anchorA : Anchor := {}
  anchorB : Anchor := {}
  /-- Next anchor goes to slot B. -/
  nextB : Bool := false
  /-- Keypad lockout record: LOCK_UNTIL and the four BAD times (Table CRD.7). -/
  lockUntil : Nat := 0
  bad : List Nat := [0, 0, 0, 0]
  /-- Residuals of MP 0 to 256, 28 values each (Table BKD.5). -/
  res : Tbl (List Nat) := []
  duty : Tbl Duty := []
deriving DecidableEq, Repr

/-- The backup domain (Table BKD.1). -/
structure Bkd where
  tick : Nat := 0
  /-- Crystal edges since the compensation window started. -/
  edge : Nat := 0
  /-- Ticks come from the reference crystal (R65); edges counted since the crystal returned. -/
  fromRef : Bool := false
  crystalStopped : Bool := false
  goodEdges : Nat := 0
  /-- Correction of the running window and the carry (R68). -/
  corrN : Int := 0
  carry : Rat := 0
  samples : List Int := []
  lastSample : Option Int := none
  sampleAt : Nat := 0
  fast : Bool := false
  calm : Nat := 0
  sensorFail : Bool := false
  /-- A sample of the running window was clamped (R67). -/
  clamp : Bool := false
  curve : Bytes := []
  /-- A committed curve that takes effect at the next window start (R69). -/
  curveNext : Option Bytes := none
  epoch : Int := 0
  /-- Copies of the calendar object and of NOMF (R60). -/
  calendar : Bytes := []
  nominal60 : Bool := false
  alm0 : Alarm := {}
  alm1 : Alarm := {}
  /-- UTC ticks up to which firings are STEPPED after a backward time set (R75). -/
  stepBack : Option Int := none
  /-- VBAT stands below 1.6 V, and the tick from which a run of 50 ms counts after a time set (R76). -/
  vbatLow : Bool := false
  vbatFrom : Nat := 0
  /-- RWS writes that take effect at the next tick: register offset and value (R587). -/
  rws : List (Nat × Nat) := []
  /-- OSF cause bits: 1 POR, 2 STOP, 4 VBAT; OSF is set while any cause stands (R76, R77). -/
  osf : Bool := true
  causes : Nat := 1
  /-- Cause bits and switch-over count the hub held at shutdown (R63, R76). -/
  causesShut : Nat := 0
  countShut : Nat := 0
  modeB : Bool := false
  vsw : Nat := 6
  onVbat : Bool := false
  swCount : Nat := 0
  swSat : Bool := false
  first : Option (Nat × Bool × Nat) := none
  stepLimit : Nat := 300
  nonce : Option (Nat × Nat) := none
  freeze : Option (Nat × List Nat) := none
  policy : Nat := 0
  maxOff : Nat := 60
  pwronLow : Bool := false
  lowSince : Nat := 0
  ret : Ret := {}
  /-- The break latch: tick of the first open sample of SEAL_BRK (R243). -/
  breakLatch : Option Nat := none
deriving DecidableEq, Repr

/-! ### Plynury ring and heads (04_plynury_ring.md, 05_head_partners.md) -/

/-- Head states at the hub (Table PLY.7). -/
inductive HeadState where
  | absent | repeater | joining | active | excluded | isolated
deriving DecidableEq, Repr

/-- A downstream message waiting for a lane, or sent and not yet acknowledged (R96, R116). -/
structure DownMsg where
  /-- Position addressed, or 0xFF for broadcast. -/
  addr : Nat
  typ : Nat
  mseq : Nat
  /-- Long containers: MORE and FRAG. -/
  more : Bool
  frag : Nat
  payload : Bytes
  /-- Frame in which it was last sent. -/
  frame : Nat
  /-- A CF release's window, which orders the long containers (R116). -/
  release : Option Nat
  repeats : Nat
deriving DecidableEq, Repr

/-- Where an arm stands: its lane is reserved, it has been sent, the head has accepted or refused it, or it has ended. -/
inductive ArmState where
  | reserved | sent | accepted | refused | ended
deriving DecidableEq, Repr

/-- An arm (R54, R115, R117). -/
structure Arm where
  id : Nat
  head : Nat
  /-- Frame that carries the ARM, action frame, and offset in modulator clocks. -/
  send : Nat
  act : Nat
  offset : Nat
  mp : Nat
  cmd : Nat
  cue : Nat
  /-- What asked for it (0 credit, 1 operator), the stamp of its coil instant, and the operate delay in µs (R298). -/
  cause : Nat
  coil : Stamp
  delay : Nat
  state : ArmState
  /-- A CANCEL has been queued (0 none, 1 queued, 2 sent) with the frame it was sent in. -/
  cancel : Nat
  cancelFrame : Nat
deriving DecidableEq, Repr

/-- What one window has received of a head's sections: copies per ring by frame index (R107, R108). -/
structure WinRx where
  /-- SFC of the window's first frame and the window-tag key of its session. -/
  sfc : Nat
  kd : Nat
  a : Tbl Bytes
  b : Tbl Bytes
deriving DecidableEq, Repr

/-- A join in progress (R103). -/
structure Join where
  step : Nat := 0
  since : Nat := 0
  certLen : Nat := 0
  cert : Bytes := []
  /-- Index of the ephemeral secret among the DRBG's values, and the content of JOIN_HUB without its signature. -/
  ephemeral : Nat := 0
  hubContent : Bytes := []
  transcript : Bytes := []
  start : Nat := 0
deriving DecidableEq, Repr

/-- What a head has last reported of its inputs (Table PLY.4). -/
structure HeadLive where
  hst : Nat := 0
  relay : List Nat := [0, 0, 0, 0]
  relaySeen : Bool := false
  tamper : Nat := 0
  /-- Stamp and tick of the last COVER and MAGNET transitions seen in MUXD (R404). -/
  coverAt : Nat × Nat := (0, 0)
  magnetAt : Nat × Nat := (0, 0)
  probe1 : Nat := 0
  probe2 : Nat := 0
  probeStatus : Nat := 0
  pilot : Nat := 0
  pilotAge : Nat := 0
  /-- Last frame a good section came on each port. -/
  seenA : Option Nat := none
  seenB : Option Nat := none
  /-- Frame from which CTRL_PEND has waited for a grant (R95). -/
  waitFrom : Option Nat := none
deriving DecidableEq, Repr

/-- One head at the hub. -/
structure Head where
  state : HeadState := .absent
  serial : Nat := 0
  rLat : Nat := 0
  hver : Nat := 0
  mpCount : Nat := 4
  join : Join := {}
  /-- Session: start frame S, the frame in which it ended, and the four keys KD, KCD, KCU, KCONF (R104, R105). -/
  session : Option Nat := none
  ended : Option Nat := none
  keys : List Nat := []
  datesUnchecked : Bool := false
  /-- Twice the survey delay dA in UI, the next one with the frame its survey completed, the declared GD, and what both were
  before the cycle that changed them (R100, R119, R160). -/
  dA2 : Option Int := none
  nextDA2 : Option (Int × Nat) := none
  gd : Nat := 0
  oldDelay : Option (Nat × Int × Nat) := none
  /-- GD that applies from the session start (R160). -/
  nextGd : Option (Nat × Nat) := none
  /-- Exclusion: end of the holdoff, ticks of the counted events, held for PLY_READMIT, held as unsupported (R110, R119). -/
  exclUntil : Nat := 0
  counted : List Nat := []
  held : Bool := false
  unsupported : Bool := false
  /-- Verdict history: the last 16 windows, newest first, true for FAIL (R109). -/
  fails : List Bool := []
  win : Tbl WinRx := []
  /-- Verdicts by window: 0 PASS, 1 + cause for FAIL with the causes of Table EVT.9. -/
  verdicts : Tbl Nat := []
  live : HeadLive := {}
  /-- Pilot results as of the last window that passed (R222). -/
  pilot : Nat := 0
  /-- MUXD entry 64 of the latest window that passed, with the window's first frame (R306, R310). -/
  probe : Option (Bytes × Nat) := none
  /-- Control channel: next MSEQ down, MSEQs taken up, messages not acknowledged, fragments under reassembly. -/
  mseq : Nat := 0
  taken : List Nat := []
  unacked : List DownMsg := []
  fragTyp : Nat := 0
  fragNext : Nat := 0
  fragBytes : Bytes := []
  /-- Head configuration (R137, R535): the generation the head reports, and the copy sent: the frame it applies at, the MSEQ of
  its last fragment and whether that has been acknowledged. -/
  configGen : Nat := 0
  applyFrame : Option Nat := none
  configMseq : Nat := 0
  configAcked : Bool := true
  /-- Replies outstanding: code and the frame each must be complete by (R143). -/
  reports : List (Nat × Nat) := []
  /-- END_FRAME, S_FRAME and LOCAL_FRAMES of the last report accepted (R198, R404). -/
  span : Option (Nat × Nat × Nat) := none
  version : Bytes := []
  /-- Whether the session has passed a window, and the window with which the head's last session's verified data ends. -/
  lastPass : Option Nat := none
deriving DecidableEq, Repr

/-- A slot frame as the hub sent it (R88): its number, headers, grant, SOF and containers. -/
structure SentFrame where
  frame : Nat
  headerA : Bytes
  headerB : Bytes
  grant : Nat
  sync : Bool
  lanes : List Bytes
deriving DecidableEq, Repr

/-- The ring. -/
structure Ply where
  /-- Slot frames started since the CHIP start, and the count at the first frame of the last training (R118, R398). -/
  started : Bool := false
  frame : Nat := 0
  base : Nat := 0
  trained : Bool := false
  /-- Loop delay LA in UI, HOP count returned, and whether ring A returned with WRAP = 0 (R87, R98). -/
  la : Nat := 0
  hop : Nat := 0
  whole : Bool := false
  /-- Last frame received on PLYA and on PLYB. -/
  lastA : Option Nat := none
  lastB : Option Nat := none
  wrapped : Bool := false
  breakHop : Nat := 0x7F
  /-- Highest position heard on PLYA plus 1 and lowest heard on PLYB in frames with WRAP = 1 (R112). -/
  heardA : Option (Nat × Nat) := none
  heardB : Option (Nat × Nat) := none
  gap : Option (Nat × Nat) := none
  /-- Head count of the last whole enumeration, kept in the object store (R99). -/
  lastCount : Nat := 0
  /-- Round-robin position of the last grant (R95). -/
  lastGrant : Nat := 63
  queue : List DownMsg := []
  /-- Arms that have not ended, and the ARM_ID that the next one takes (R117). -/
  arms : List Arm := []
  armSeq : Nat := 1
  /-- Frames whose SOF is K28.1 (R114), with their offsets. -/
  syncFrames : List (Nat × Nat) := []
  unwrapFrame : Option Nat := none
  sent : Option SentFrame := none
  heads : Tbl Head := []
  /-- Last AUTON_SEQ accepted per serial (R144) and highest event SEQ taken per serial (R146). -/
  autonSeqs : Tbl Nat := []
  eventSeqs : Tbl Nat := []
  /-- Generation of each position's head configuration at the hub (R137), kept in the object store. -/
  configGens : Tbl Nat := []
deriving DecidableEq, Repr

/-! ### Sample path (06_filter_chain.md) -/

/-- A raw input sample with its flags, in the bits of Table FLT.3 (R148). -/
structure Raw where
  val : Int
  flags : Nat
deriving DecidableEq, Repr

/-- An output: stamp C#cycle@(512·k), value, flags, and its span of labels (R153–R158). -/
structure OutSample where
  cycle : Nat
  k : Nat
  val : Int
  flags : Nat
  lo : Int
  hi : Int
deriving DecidableEq, Repr

/-- Threshold states (Table FLT.4). -/
inductive ThrState where
  | disabled | idle | qualifying | active | releasing
deriving DecidableEq, Repr

/-- A threshold: its state, run counter, the first evaluation and extreme of the run, the labels the run rests on, and the
object bytes it runs under. -/
structure Thr where
  state : ThrState := .disabled
  count : Nat := 0
  stamp : Stamp := 0
  extreme : Int := 0
  clip : Bool := false
  lo : Int := 0
  hi : Int := 0
  cfg : Bytes := []
  /-- The ENTERs (false) and EXITs (true) that stand unretracted, oldest first, each with the labels its run rests on (R167); an EXIT
  with RESET rests on none. -/
  stands : List (Bool × Int × Int) := []
deriving DecidableEq, Repr

/-- Detector values of a half-cycle (Table FLT.7a): none is MISSING. -/
structure Half where
  peak : Int
  rms : Nat
  clip : Bool
  sat : Bool
  spare : Bool
deriving DecidableEq, Repr

/-- One of the 1,096 channels. -/
structure Chan where
  /-- Raw history, newest first, at most 128, and the label of the newest. -/
  raw : List Raw := []
  label : Int := -1
  /-- The next output to compute. -/
  next : Option (Nat × Nat) := none
  /-- A sync reset awaits its SETTLE label: action frame, offset in modulator clocks (R171). -/
  syncWait : Option (Nat × Nat) := none
  /-- Reset label, and whether its 32 labels settle too (R172, R175). -/
  reset : Option (Int × Bool) := none
  /-- Outputs, newest first, at most 18 cycles. -/
  outs : List OutSample := []
  satCycle : Option Nat := none
  /-- Envelope in 1/2^20 output units (R164). -/
  env : Nat := 0
  half0 : Option Half := none
  half1 : Option Half := none
  /-- RMS_CYC at the end of each half-cycle, and RMS_WIN of the last window. -/
  rc0 : Option Nat := none
  rc1 : Option Nat := none
  win : Option Nat := none
  /-- Cycle whose RMS_CYC stands in rc1. -/
  rcCycle : Nat := 0
  thr : List Thr := [{}, {}, {}, {}]
deriving DecidableEq, Repr

/-- The metrology array's sample path. -/
structure Flt where
  chans : Tbl Chan := []
  /-- Stamp of the last SYNC_IN edge accepted (R174), and the frame until which SYNC_OUT is high (R176). -/
  lastEdge : Option Nat := none
  syncOutUntil : Option Nat := none
  /-- Syncs of the last cycles: stamp, head mask, local bit (R174). -/
  syncs : List (Nat × Nat × Bool) := []
  /-- Stamp of the last sync executed, and the count of EV_FLT_SAT (Table REG.6). -/
  lastSync : Stamp := 0
  /-- First cycle under the nominal frequency in force (R163). -/
  nomSince : Nat := 0
  satCount : Nat := 0
deriving DecidableEq, Repr

/-! ### Energy and test pulses (07_energy_pulses.md) -/

/-- One output of an MP awaiting its release: calibrated values per phase, duration in seconds, flags, last label, and the
spans of its channels by head (R185). -/
structure MpOut where
  cycle : Nat
  k : Nat
  last : Int
  v : List Rat
  i : List Rat
  dt : Rat
  flags : Nat
  spans : List (Nat × Int × Int)
deriving DecidableEq, Repr

/-- One output of the sliding cycle: energy per phase in pJ, duration, values, and whether it may not be released. -/
structure Slide where
  e : List Rat
  dt : Rat
  v : List Rat
  i : List Rat
  bad : Bool
deriving DecidableEq, Repr

/-- What one cycle has released, in 2^-32 units per quantity, with its flags: bits [7:0] Table FLT.3, bit 8 BRIDGED,
9 NO_BASIS, 10 withheld, 11 filled. -/
structure CycE where
  cycle : Nat
  e : List Nat
  flags : Nat
  dt : Rat
  whole : Bool
deriving DecidableEq, Repr

/-- A withheld run until its fill is decided (R186, R196–R199): its release front as stamp, tick and frame, Z as stamp and
frame once an output has been released after it, the mean power of the first cycle released then, S of a fill whose edge
part is still to come, and the fill's import total in 2^-32 µWh with the GFLAGS of Table CUS.4.  The run of a CHIP reset
begins at the last anchored boundary. -/
structure HeldRun where
  start : Stamp
  ticks : Nat
  frame : Int
  boot : Bool := false
  z : Option (Stamp × Int) := none
  pow : Option (List Rat) := none
  edge : Option Int := none
  evid : Nat := 0
  gflags : Nat := 2
  decided : Bool := false
deriving DecidableEq, Repr

/-- One metering point, or the local incomer (index 256). -/
structure Mp where
  queue : List MpOut := []
  /-- Next output to form, and the next to be released. -/
  form : Option (Nat × Nat) := none
  front : Option (Nat × Nat) := none
  slide : List Slide := []
  /-- Outputs since one that may not be released (R185). -/
  sinceBad : Nat := 128
  /-- A withheld run: its release front stamp, tick, and frame. -/
  run : Option (Nat × Nat × Int) := none
  /-- 28 accumulators in 2^-32 units (R181), the part not yet committed to the legal registers, and EST (R187). -/
  acc : List Nat := List.replicate 28 0
  uncommitted : List Nat := List.replicate 28 0
  est : List Nat := List.replicate 28 0
  /-- Cycles released but not yet taken by the boundary work, oldest first, and the cycle being released. -/
  done : List CycE := []
  cur : Option CycE := none
  /-- What the last 64 cycles released, newest first, so that registers can be read at an earlier boundary (R324). -/
  past : List (Nat × List Nat) := []
  /-- Mean power of the last released cycle, 2^-32 units per second (R186). -/
  lastPow : List Rat := List.replicate 28 0
  /-- Last valid full cycle: number, mean powers, and mean phase powers in pW (R173). -/
  basis : Option (Nat × List Rat × List Rat) := none
  /-- NO_LOAD: consecutive cycles of the condition, the state, and per cycle the state and Q suppression (R189, R190). -/
  nlRun : Nat := 0
  noLoad : Bool := false
  nlCycles : List (Nat × Bool × Bool) := []
  nlNext : Option Nat := none
  /-- Status bits (Table MET.6): RESIDUAL_LOST, UNCLEAN, FILLED, and SUBST of the last released cycle. -/
  resLost : Bool := false
  unclean : Bool := false
  filled : Bool := false
  subst : Bool := false
  /-- Rollovers of each register already reported (R194). -/
  rolls : List Nat := List.replicate 28 0
  /-- Withheld runs whose fill is not yet decided, and those decided since the last boundary, oldest first. -/
  held : List HeldRun := []
  /-- The MP's legal registers were restored since the CHIP start. -/
  restored : Bool := false
  /-- An output has been released since the CHIP start (R198). -/
  released : Bool := false
deriving DecidableEq, Repr

/-- A CF pin (R200–R203): accumulator in 2^-32 units, pending pulses, and the pulse that is high. -/
structure CfPin where
  acc : Nat := 0
  pending : Nat := 0
  high : Bool := false
  rise : Option Nat := none
  /-- Width of the pulse in 1/100 frame. -/
  width : Nat := 0
  overrun : Bool := false
  /-- Pulses emitted since the CHIP start: the frame of each rising edge is `rise`. -/
  count : Nat := 0
  cfg : Bytes := []
deriving DecidableEq, Repr

/-- Reconciliation of one bus section: running sums by period start, and qualification (R204, R205). -/
structure Recon where
  periods : Tbl (Int × Int × Bool) := []
  result : Nat := 0
  qual : Nat := 0
  standing : Bool := false
deriving DecidableEq, Repr

/-- The verified gate. -/
structure Met where
  mps : Tbl Mp := []
  pins : List CfPin := [{}, {}, {}, {}]
  recon : Tbl Recon := []
  tempExt : Bool := false
  temp : Int := 0
  siteId : List Nat := [0, 0, 0, 0]
deriving DecidableEq, Repr

/-! ### Power quality and channel health (08_quality_health.md) -/

/-- A harmonic record's values (Table PQE.1): first cycle, flags, G1, angle, and the record. -/
structure Harm where
  cycle : Nat
  flags : Nat
  g1 : Nat
  ang : Nat
deriving DecidableEq, Repr

/-- An open voltage event (R214–R216). -/
structure VoltEvent where
  start : Stamp
  ticks : Nat
  halves : Nat
  extreme : Nat
  xch : Nat
  flags : Nat
  lo : Int
  hi : Int
deriving DecidableEq, Repr

/-- A voltage set: open dip, swell and interruption, and its next half-cycle to evaluate. -/
structure VoltSet where
  dip : Option VoltEvent := none
  swell : Option VoltEvent := none
  interrupt : Option VoltEvent := none
  next : Option (Nat × Nat) := none
  harm : Tbl Harm := []
deriving DecidableEq, Repr

/-- Sense states (Table PQE.2). -/
inductive SenseState where
  | normal | suspect | fault | clearing
deriving DecidableEq, Repr

/-- The sense state of a head's phase (head 64 is the incomer's section entry: 64 + section). -/
structure Sense where
  state : SenseState := .normal
  count : Nat := 0
  undecided : Bool := false
  /-- The policy applies to outputs from this cycle (R223). -/
  applies : Option Nat := none
  /-- The policy has ended: it applies to outputs before this cycle (R223). -/
  until_ : Option Nat := none
  lo : Int := 0
  hi : Int := 0
deriving DecidableEq, Repr

/-- Rotation phases (Table PQE.4). -/
inductive RotPhase where
  | idle | parallel | zero | dc | overlap | park
deriving DecidableEq, Repr

/-- A rotation request (R230). -/
structure RotReq where
  ch : Nat
  origin : Nat
  release : Bool
deriving DecidableEq, Repr

/-- The spare of a head (0–63) or of the local set (64). -/
structure Spare where
  phase : RotPhase := .idle
  ch : Nat := 0
  origin : Nat := 0
  release : Bool := false
  rot : Nat := 0
  /-- AT_FRAME of the phase, its AT cycle, and the first cycle measured (R226). -/
  at_ : Nat := 0
  start : Nat := 0
  measure : Option Nat := none
  good : Nat := 0
  m0 : Int := 0
  m1 : Int := 0
  drift : Int := 0
  hoPpm : Nat := 0
  wfail : Bool := false
  baselined : Bool := false
  parked : Option Nat := none
  faulty : Bool := false
  spareFails : Nat := 0
  queue : List RotReq := []
  /-- Frames for which the SPARE_ACTIVE flags have disagreed (R224). -/
  mismatch : Nat := 0
  /-- Frame from which a parked channel's state stands again after the head joined (R229). -/
  parkAt : Option Nat := none
  /-- Baselines B by channel, with the serial they were taken under (R227). -/
  base : Tbl (Int × Nat) := []
deriving DecidableEq, Repr

/-- A capture slot (R218, R219). -/
inductive SlotState where
  | free | collecting | ready
deriving DecidableEq, Repr

/-- One sample of a capture. -/
structure CapSample where
  ch : Nat
  cycle : Nat
  k : Nat
  val : Int
  flags : Nat
deriving DecidableEq, Repr

/-- A capture: its trigger, the cycles it holds from `first` up to `stop`, its channels and their outputs. -/
structure Capture where
  state : SlotState := .free
  trigger : Nat := 0
  stamp : Stamp := 0
  ticks : Nat := 0
  first : Nat := 0
  stop : Nat := 0
  chs : List Nat := []
  retrig : Nat := 0
  retracted : Bool := false
  trunc : Bool := false
  /-- The service cores went down while it was collecting (R219). -/
  stopped : Bool := false
  /-- CAPTURE_READ has begun. -/
  reading : Bool := false
  lo : Int := 0
  hi : Int := 0
  data : List CapSample := []
  seq : Nat := 0
deriving DecidableEq, Repr

/-- A capture set's slots, its count of dropped triggers, and the cycle from which it keeps pre-trigger history. -/
structure CapSet where
  slots : List Capture := [{}, {}, {}, {}]
  dropped : Nat := 0
  seq : Nat := 0
  preFrom : Nat := 0
deriving DecidableEq, Repr

/-- Quality and health. -/
structure Pqe where
  sets : Tbl VoltSet := []
  sense : Tbl Sense := []
  spares : Tbl Spare := []
  caps : Tbl CapSet := []
  rot : Nat := 0
  /-- Frequency interval: its start tick and the boundaries in it (R213). -/
  freqStart : Option Nat := none
  /-- Automatic scheduler: tick of its last entry, and the channel it takes next (R230). -/
  lastAuto : Nat := 0
  autoNext : Nat := 0
  /-- Threshold ENTERs that capture sets have yet to see: channel, stamp and labels (R218). -/
  trigs : List (Nat × Stamp × Int × Int) := []
deriving DecidableEq, Repr

/-! ### Legal partition and seal (09_legal_partition.md) -/

/-- Seal states (Table SEAL.2). -/
inductive SealState where
  | unsealed | sealed | broken
deriving DecidableEq, Repr

/-- The legal log and the seal, with LDSP. -/
structure Seal where
  state : SealState := .unsealed
  /-- VALID mark (R247), and R234 and R236 passed since the last CHIP start. -/
  mark : Bool := false
  checks : Bool := false
  /-- LEGAL_HALT (R234). -/
  halt : Bool := false
  unwatched : Bool := false
  /-- Pins as stably read: SEAL_LOCK strapped, SEAL_BRK open (R238). -/
  lockStrapped : Bool := false
  brkOpen : Bool := true
  /-- A SEAL accepted and not yet applied: it carries this digest (R240). -/
  pending : Option Nat := none
  /-- Legal log entries of the permanent and the rolling section, newest first (R248). -/
  perm : List Bytes := []
  roll : List Bytes := []
  seq : Nat := 0
  link : Nat := 0
  /-- Digests of the two calibration copies, and whether each copy's pages pass their trailers (R236). -/
  copy1 : Option Bytes := none
  copy2 : Option Bytes := none
  /-- Seal records, newest first (Table SEAL.4). -/
  records : List Bytes := []
  /-- Highest cycle anchor in the legal partition (R45). -/
  cycleAnchor : Nat := 0
  /-- Digest of the application image started last (R233). -/
  fwDigest : Bytes := []
  /-- LDSP: screen shown, its quantity, frame counter, tick of the last frame and screen change, hold, last frame sent. -/
  screen : Nat := 0
  ldspSeq : Nat := 0
  frameAt : Nat := 0
  screenAt : Nat := 0
  holdUntil : Option Nat := none
  frame : Bytes := []
  /-- FLAGGED_SPAN of each MP that is open: its flags and cycles so far. -/
  flagged : Tbl (Nat × Nat) := []
deriving DecidableEq, Repr

/-! ### Tariff calendars and billing (10_tariffs_billing.md) -/

/-- A register set (R271): energies in 2^-32 units, CHARGE in 2^-32 µCU. -/
structure RegSet where
  imp : List Nat := List.replicate 16 0
  exp : List Nat := List.replicate 16 0
  tot : List Nat := List.replicate 7 0
  charge : Int := 0
deriving DecidableEq, Repr

/-- A session (R268–R270, Table TAR.5). -/
structure Session where
  mp : Nat
  tenant : Nat
  /-- Opening boundary; CLK, TT and tick count there once it has opened. -/
  start : Nat
  opened : Bool := false
  stat : Nat := 0
  ticks : Nat := 0
  nonPerishable : Bool := false
  autoOpened : Bool := false
  filled : Bool := false
  untrusted : Bool := false
  bridged : Bool := false
  rebuilt : Bool := false
  /-- Scheduled close and its cause; closing boundary once closed; the final record is archived. -/
  closeAt : Option (Nat × Nat) := none
  closed : Option Nat := none
  cause : Nat := 0
  archived : Bool := false
  regs : RegSet := {}
  /-- Disconnect consent (R294) and operator override (R297); EV_CRD_PROTECTED raised in this episode. -/
  consent : Bool := false
  overridden : Bool := false
  protectedSaid : Bool := false
deriving DecidableEq, Repr

/-- A snapshot being completed (R275). -/
structure Snap where
  cycle : Nat
  cause : Nat
  flags : Nat
  period : Nat
  stat : Nat
  ticks : Nat
  nsess : Nat
  regs : RegSet
  calId : Nat
deriving DecidableEq, Repr

/-- A tenant's billing. -/
structure Bill where
  regs : RegSet := {}
  period : Nat := 1
  /-- PFLAGS of the running period (Table TAR.6). -/
  flags : Nat := 0
  lastB : Option Nat := none
  /-- Command period ends scheduled. -/
  ends : List Nat := []
  pend : List Snap := []
  /-- Snapshots kept, newest first, at most 24 (R276). -/
  snaps : List Snap := []
deriving DecidableEq, Repr

/-- A calendar's state: its rate, LAST_END, and the rates it had, newest first, as cycle, frame and rate. -/
structure Cal where
  rate : Nat := 0
  lastEnd : Option Nat := none
  hist : List (Nat × Nat × Nat) := []
deriving DecidableEq, Repr

/-- What a tariff state record holds (R274). -/
structure TarRec where
  cals : Tbl Cal := []
  sessions : Tbl Session := []
  bills : Tbl Bill := []
  mps : Tbl RegSet := []
  /-- EST counters (R187). -/
  est : Tbl (List Nat) := []
deriving DecidableEq, Repr

/-- Energy booked in a cycle not long past, so that registers can be read at an earlier boundary (R324). -/
structure Booked where
  cycle : Nat
  mp : Nat
  session : Option Nat
  tenant : Nat
  rate : Nat
  rate0 : Nat
  tot : List Nat
  charge : Int
  charge0 : Int
deriving DecidableEq, Repr

/-- The tariff and billing engine. -/
structure Tar where
  live : TarRec := {}
  /-- The last tariff state record with its cycle, and the total-phase legal registers of the bound MPs in it. -/
  saved : Option (Nat × TarRec × Tbl (List Nat)) := none
  recent : List Booked := []
  /-- Next SESSION_ID, and the end of the block reserved (R270). -/
  nextId : Nat := 1
  blockEnd : Nat := 64
  /-- First cycle in NO_LOAD of each MP that is in it (R269). -/
  nlSince : Tbl Nat := []
  /-- Period ends by rule due at a boundary: boundary, calendar, cause. -/
  ruleEnds : List (Nat × Nat × Nat) := []
  /-- The tick up to which calendar instants have been looked at: the last projection of R259. -/
  projected : Option Nat := none
  /-- UNTRUSTED in the running cycle. -/
  untrusted : Bool := false
deriving DecidableEq, Repr

/-! ### Credit tokens and outlet switching (11_credit_relays.md) -/

/-- A tenant's credit account and token window (R286, R290–R293). -/
structure Credit where
  prepaid : Bool := false
  creditIn : Int := 0
  /-- CHARGE at the commit that made the tenant PREPAID, 2^-32 µCU. -/
  chargeBase : Int := 0
  floor : Nat := 0
  used : List Nat := []
  /-- Slot and generation of the token key the window belongs to. -/
  key : Option (Nat × Nat) := none
  /-- Credit accepted and due at the next boundary, and an EC request due there. -/
  due : Int := 0
  ecDue : Bool := false
  /-- State of Table CRD.3: 0 CREDIT, 1 LOW, 2 EMERGENCY, 3 EXHAUSTED. -/
  state : Nat := 0
  ec : Bool := false
  ecUsed : Bool := false
  /-- DEBT_STEP multiples already reported, none while there is no debt. -/
  debtSaid : Option Nat := none
  /-- Boundary at which the values stand, its STAT, and BALANCE in 2^-32 µCU there. -/
  cycle : Nat := 0
  stat : Nat := 0
  balance : Int := 0
  rebuilt : Bool := false
deriving DecidableEq, Repr

/-- Relay states (Table CRD.9). -/
inductive RelayState where
  | opened | closed | opening | closing | faultWelded | faultNoclose | unknown
deriving DecidableEq, Repr

/-- Where a de-energise sequence stands (R295): held for want of the annunciator, its cues placed, its warning sounding. -/
inductive SeqPhase where
  | held | cued | warning
deriving DecidableEq, Repr

/-- A de-energise sequence of an MP: who asked for it, W, the switching stamp, its two cues, and the later stamp that an
operator named (R295, R520). -/
structure RelSeq where
  operator : Bool
  credit : Bool
  phase : SeqPhase
  warnAt : Stamp
  switch : Stamp
  annCue : Nat
  cue : Nat
  warnFailed : Bool
  asked : Stamp
deriving DecidableEq, Repr

/-- The relay of an MP. -/
structure Relay where
  state : RelayState := .unknown
  fb : Nat := 0
  /-- The tick by which a movement must be complete. -/
  limit : Nat := 0
  /-- Tick since which feedback has disagreed, or has recovered from a fault. -/
  since : Option Nat := none
  /-- T_CLOSE as adapted, in µs (R299). -/
  tClose : Option Nat := none
  /-- Coil instant of the last close, awaiting its inrush (R299). -/
  coil : Option Stamp := none
  seq : Option RelSeq := none
  /-- The last open was credit's (R296). -/
  byCredit : Bool := false
deriving DecidableEq, Repr

/-- Keypad entry (R279). -/
structure Keypad where
  /-- 0 idle, 1 MP digits of A, 2 token digits, 3 MP digits of B, 4 ignore up to the next A or B. -/
  phase : Nat := 0
  mp : List Nat := []
  digits : List Nat := []
  last : Nat := 0
deriving DecidableEq, Repr

/-- Credit and switching. -/
structure Crd where
  accounts : Tbl Credit := []
  relays : Tbl Relay := []
  keypad : Keypad := {}
  /-- EV_CRD_LOCK has been raised for the start of the lockout standing now. -/
  lockSaid : Bool := false
  /-- The fifth rejection has come: a lockout starts with the next key press (R288). -/
  lockDue : Bool := false
  /-- Bad tokens and lockout of each submitting function (R289). -/
  funcBad : Tbl (List Nat) := []
  funcLock : Tbl Nat := []
deriving DecidableEq, Repr

/-! ### Custody chains (12_custody_chain.md) -/

/-- A gap that is open, or ended and not yet written (R317, Table CUS.3). -/
structure Gap where
  cause : Nat
  /-- Binding for causes 1 and 2, 0xF otherwise. -/
  bind : Nat := 0xF
  start : Stamp := 0
  startTicks : Nat := 0
  /-- GAP_BEGIN has been written. -/
  begun : Bool := false
  finish : Option Stamp := none
  evid : Nat := 0
  flags : Nat := 0
  /-- END and EVID are both decided. -/
  decided : Bool := false
  /-- Session import total at START, once the cycles before it have settled (causes 3 and 6). -/
  base : Option Nat := none
deriving DecidableEq, Repr

/-- A logger bound to a session (R309). -/
structure Binding where
  short : Nat
  eui : Nat
  lseq : Option Nat := none
  /-- Evidence time of the last reading, and the tick from which LOG_SILENT runs (R317, R318). -/
  evid : Nat := 0
  heard : Nat := 0
  /-- Latest values, status and age of the binding's last reading (Table CUS.8). -/
  value : Nat := 0
  age : Nat := 0
deriving DecidableEq, Repr

/-- One excursion rule on one source (R321): 0 OK, 1 PENDING, 2 EXCURSION. -/
structure Exc where
  state : Nat := 0
  first : Nat := 0
  firstStamp : Stamp := 0
  extreme : Int := 0
  release : Option Nat := none
  gap : Bool := false
deriving DecidableEq, Repr

/-- The custody chain of a session (R302). -/
structure Chain where
  tenant : Nat
  mp : Nat
  seq : Nat := 0
  /-- Bytes the next LINK is computed from: the genesis, then the last record (R304). -/
  last : Bytes := []
  lastStamp : Stamp := 0
  ruleSet : Nat := 0xFF
  /-- Records not yet covered by a signature block, oldest first, and the SEQ of the first of them (R314, R315). -/
  segment : List Bytes := []
  firstSeq : Nat := 0
  /-- Records and first tick since the last CHECKPOINT record (R314), whether it went unsigned (R316), and a CHECKPOINT that
  waits for its opening, with its cause. -/
  count : Nat := 0
  since : Option Nat := none
  extend : Bool := false
  waiting : Option Nat := none
  /-- Heartbeats: END_CYC, TICKS and session totals at the previous one (R313), the boundary of one that waits for its cycles
  to settle, and the lowest bus RMS since, in units of 0.1 V. -/
  hbCycle : Nat := 0
  hbTicks : Nat := 0
  hbImp : Nat := 0
  hbExp : Nat := 0
  hbDue : Option Nat := none
  vmin : Option Nat := none
  /-- Tick of the last PROBE_READING (R310). -/
  probeTicks : Nat := 0
  /-- The relay condition of cause 3 as last decided, kept while the relay is UNKNOWN. -/
  deenergised : Bool := false
  /-- Records that fall due at the next boundary: type, SRC, SRCID, payload (R307). -/
  due : List (Nat × Nat × Nat × Bytes) := []
  binds : Tbl Binding := []
  gaps : List Gap := []
  /-- Excursion states by 256 × source + rule, and the evidence time last evaluated by source (R321). -/
  excs : Tbl Exc := []
  evald : Tbl Nat := []
  /-- Ticks of the host notes of the last 60 s (R311). -/
  notes : List Nat := []
  closed : Bool := false
  full : Bool := false
deriving DecidableEq, Repr

/-- A signing operation (R338): its purpose, what is signed, and what it fixed when it opened. -/
structure SignOp where
  /-- 0 checkpoint, 1 blob, 2 signed legal log, 3 attestation. -/
  purpose : Nat
  slot : Nat
  kgen : Nat := 0
  ctr : Nat := 0
  /-- Key material fixed at the opening. -/
  mat : Nat := 0
  opened : Bool := false
  session : Nat := 0xFFFFFFFF
  /-- Last SEQ of a checkpoint's segment, or the token of the waiting command. -/
  token : Nat := 0
  body : Bytes := []
deriving DecidableEq, Repr

/-- The custody block. -/
structure Cus where
  chains : Tbl Chain := []
  ops : List SignOp := []
  nextToken : Nat := 1
deriving DecidableEq, Repr

/-! ### Key store (13_keys_counters.md) -/

/-- The current generation of a key slot as its record holds it (Table KEY.2). -/
structure KeySlot where
  kgen : Nat := 0
  valid : Bool := false
  owner : Nat := 0xFF
  origin : Nat := 0
  stat : Nat := 0
  cycle : Nat := 0
  ticks : Nat := 0
  /-- Material; factory material (ORIGIN 0) is named by its slot. -/
  mat : Nat := 0
deriving DecidableEq, Repr

/-- A counter of a key generation: its next value and what has been reported (R341–R344, R347). -/
structure KeyCtr where
  next : Nat := 1
  low : Bool := false
  exhausted : Bool := false
deriving DecidableEq, Repr

/-- A slot record waiting to be programmed, or the one being programmed (R332). -/
structure KeyWrite where
  slot : Nat
  record : KeySlot
  opc : Nat
  token : Nat
  started : Bool := false
  aborted : Nat := 0
deriving DecidableEq, Repr

/-- The slots that hold keys at delivery (Table KEY.1). -/
def factorySlots : Tbl KeySlot :=
  [(0, { kgen := 1, valid := true }), (1, { kgen := 1, valid := true }), (3, { kgen := 1, valid := true, owner := 0 }),
   (5, { kgen := 1, valid := true, owner := 0 }), (8, { kgen := 1, valid := true })]

/-- The key store. -/
structure Keys where
  /-- Valid slot records, in the wrapped-keys partition. -/
  slots : Tbl KeySlot := factorySlots
  writes : List KeyWrite := []
  /-- Signing counters by slot, and LOGGER transmit counters by 512 + slot. -/
  ctrs : Tbl KeyCtr := []
  /-- DRBG: instantiated, requests and tick since the last seeding, tick of the next retry (R329, R330). -/
  drbg : Bool := false
  requests : Nat := 0
  seeded : Nat := 0
  retryAt : Nat := 0
  /-- RING_SESSION generations by position (R336). -/
  ringGens : Tbl Nat := []
  /-- Slots that failed at the load of this run (R349, KEY_STATUS.LOAD_FAIL). -/
  loadFail : Nat := 0
deriving DecidableEq, Repr

/-! ### Events, faults and tamper records (15_events_faults.md) -/

/-- One 64-byte event record (Table EVT.6), as fields. -/
structure EventRec where
  eseq : Nat
  id : Nat
  stamp : Stamp
  stat : Nat
  ticks : Nat
  sev : Nat
  domain : Nat
  tenant : Nat
  rflags : Nat
  src : Nat
  depth : Nat
  data : Bytes
deriving DecidableEq, Repr

/-- A record raised in the step under way, before its ESEQ (R387), with the windows it rests on when it is early (R394). -/
structure Raised where
  entry : EventRec
  range : List (Nat × Nat × Nat) := []
  early : Bool := false
deriving DecidableEq, Repr

/-- An early event that a RETRACT may still name (R394, R395): its windows and the rings it was sent to. -/
structure EarlyRef where
  eseq : Nat
  id : Nat
  tenant : Nat
  /-- Derivation range: head, first frame of the first window, first frame of the last window. -/
  range : List (Nat × Nat × Nat)
  /-- Rings it was sent to, as 64 × tenant + index. -/
  rings : List Nat
deriving DecidableEq, Repr

/-- One level of a domain's handling stack (R399). -/
structure Level where
  id : Nat
  sev : Nat
  since : Nat
  nested : Bool
deriving DecidableEq, Repr

/-- Handling state of a domain (Table EVT.4). -/
inductive DomState where
  | idle | handling | escalating
deriving DecidableEq, Repr

/-- One fault domain: its stack (top first), pending queue (oldest first) and counters (R399–R401). -/
structure Dom where
  state : DomState := .idle
  stack : List Level := []
  queue : List (Nat × Nat) := []
  total : Nat := 0
  minor : Nat := 0
  major : Nat := 0
  critical : Nat := 0
  esc : Nat := 0
  sat : Nat := 0
  overrun : Bool := false
deriving DecidableEq, Repr

/-- One tamper record (Table EVT.10) with the flash copy's bookkeeping (R403). -/
structure Tamper where
  count : Nat := 0
  flags : Nat := 0
  firstStamp : Stamp := 0
  firstClk : Nat := 0
  firstTicks : Nat := 0
  lastStamp : Stamp := 0
  lastClk : Nat := 0
  lastTicks : Nat := 0
deriving DecidableEq, Repr

/-- The event block, the fault counters and the tamper records. -/
structure EvBlk where
  /-- Next ESEQ to issue (R387). -/
  next : Nat := 65536
  /-- Every record raised since the CHIP start, oldest first: the model's trace of the event block's output. -/
  log : List EventRec := []
  /-- Records raised before the first numbered boundary, which take its stamp (R617), oldest first. -/
  prestamp : List EventRec := []
  /-- Records raised in the step under way: they take their ESEQs together, in order (R387). -/
  batch : List Raised := []
  /-- The suppression span (ticks / 32,768), the occurrences of each ID in it, and those suppressed (R392). -/
  span : Nat := 0
  counts : Tbl Nat := []
  suppressed : Tbl Nat := []
  /-- Records lost by class, not yet reported (R393). -/
  lost : Tbl Nat := []
  /-- All records lost since the CHIP start (Table REG.8). -/
  lostAll : Nat := 0
  /-- Early events whose windows have no verdict yet. -/
  early : List EarlyRef := []
  /-- Fault domains: 0 to 15 device, 16 + t tenant t (Table EVT.3). -/
  doms : Tbl Dom := []
  /-- Occurrences of each fault ID (R401). -/
  perId : Tbl Nat := []
  /-- Live tamper records: 32 m + type, m = 256 for the device (R402). -/
  tampers : Tbl Tamper := []
  /-- The tamper area's copy (flash). -/
  tampersFlash : Tbl Tamper := []
  /-- Tick of each record's last write, and the records with unwritten occurrences (R403). -/
  tamperWrite : Tbl Nat := []
  tamperDirty : List Nat := []
  /-- Records with an unwritten span at the last PFAIL (R403, UNSURE). -/
  tamperUnsure : List Nat := []
deriving DecidableEq, Repr

/-! ### Cistern archive (14_cistern.md) -/

/-- An archived item (R376, Table CIS.11). -/
structure Item where
  kind : Nat
  tenant : Nat
  session : Nat
  aseq : Nat
  units : Nat
  body : Bytes
  damaged : Bool
deriving DecidableEq, Repr

/-- An item waiting for room in the custody tail, with the event record it carries, if any (R378). -/
structure Waiting where
  item : Item
  ev : Option EventRec
deriving DecidableEq, Repr

/-- A block's life state in its header (R358). -/
inductive BlockState where
  | free | opened | full | stale | retired
deriving DecidableEq, Repr

/-- A flash block as its header describes it (Table CIS.7). -/
structure Block where
  part : Nat
  logical : Nat
  count : Nat
  state : BlockState
  est : Bool
  headerGood : Bool
  wticks : Nat
deriving DecidableEq, Repr

/-- An erase-journal entry (Table CIS.8). -/
structure JEntry where
  seq : Nat
  block : Nat
  kind : Nat
  count : Nat
  done : Bool
deriving DecidableEq, Repr

/-- A ladder in force (Table CIS.9): its generation, base, leading programmed bits and weak bits counted (R366–R370). -/
structure Ladder where
  lgen : Nat := 0
  base : Nat := 0
  f : Nat := 0
  parked : Bool := true
  weak : Nat := 0
  lastInc : Nat := 0
  /-- Where its generation stands in the ladder area, in sixteenths of a page since the area was first used. -/
  place : Nat := 0
deriving DecidableEq, Repr

/-- One MP page of the residual journal (Table CIS.10). -/
structure ResPage where
  run : Nat
  res : List Nat
  nlo : List Nat
deriving DecidableEq, Repr

/-- The residual journal image (R372). -/
structure ResImage where
  run : Nat
  ticks : Nat
  cycle : Nat
  pages : Tbl ResPage
deriving DecidableEq, Repr

/-- The archive controller and its flash die. -/
structure Cis where
  /-- Blocks that differ from their factory header. -/
  blocks : Tbl Block := []
  journal : List JEntry := []
  jseq : Nat := 0
  /-- Which spare block (logical 2 to 47) is taken next, and the spares activated. -/
  sparesUsed : Nat := 0
  readOnly : List Nat := []
  /-- Blocks waiting for an erase, oldest first, with the PART and LOGICAL each will serve; the first of each plane runs. -/
  erases : List (Nat × Nat × Nat) := []
  /-- Ladders: 65,536 × partition + LID. -/
  ladders : Tbl Ladder := []
  /-- Ladder increments under way, in order. -/
  incs : List Nat := []
  /-- Next place of each ladder area by partition, and the oldest pair of its blocks that is in use (R370). -/
  ladNext : Tbl Nat := []
  ladFirst : Tbl Nat := []
  /-- Custody blocks in use, oldest first: logical block, its first ASEQ and units used; units of the tail's first item already
  programmed (R376, R379). -/
  segs : List (Nat × Nat × Nat) := []
  prog : Nat := 0
  image : Option ResImage := none
  tail : List Item := []
  waiting : List Waiting := []
  /-- A TAIL_FULL episode is running (R378). -/
  tailFull : Bool := false
  /-- EV_CIS_TAIL_FULL has been raised in it. -/
  tailSaid : Bool := false
  log : List Item := []
  nextAseq : Nat := 65536
deriving DecidableEq, Repr

/-! ### Campion radio (16_campion_radio.md) -/

/-- A lease (Table CMP.5, Table CMD.20): state 1 LEASED, 2 QUARANTINE; the tick it runs out at. -/
structure Lease where
  eui : Nat
  slot : Nat
  tenant : Nat
  state : Nat
  till : Nat
deriving DecidableEq, Repr

/-- The receive floor of a node: slot and generation it counts for, the live floor, and the one archived (R348, R420). -/
structure Floor where
  slot : Nat
  kgen : Nat
  fc : Nat
  archived : Nat
  low : Bool := false
deriving DecidableEq, Repr

/-- A frame the hub wants to send (R426–R429): its class, clear prefix and payload, the slot and EUI whose key seals it, and the
command that waits for it.  A raw frame carries its PSDU as payload. -/
structure TxFrame where
  id : Nat
  raw : Bool := false
  typ : Nat
  dst : Nat
  custody : Bool
  sealSlot : Option Nat
  /-- EUI of the logger key; none for the group key. -/
  eui : Option Nat
  fc : Nat
  pfx : Bytes
  payload : Bytes
  /-- Tick it was first refused for budget, and LBT deferrals so far (R412, R413). -/
  refused : Option Nat := none
  deferrals : Nat := 0
  opc : Nat := 0
deriving DecidableEq, Repr

/-- The transmission under way: its frame, PSDU, band, start tick and airtime in thirds of a µs. -/
structure OnAir where
  frame : TxFrame
  psdu : Bytes
  band : Nat
  ch : Nat
  start : Nat
  air : Nat
deriving DecidableEq, Repr

/-- A received frame that waits while the service cores are down (R435). -/
structure RxFrame where
  psdu : Bytes
  rssi : Int
  fcsOk : Bool
  fec : Bool
  rate : Nat
deriving DecidableEq, Repr

/-- A band switch to come: the settings in force on the air until then lie in Cmp (R429). -/
structure BandSwitch where
  at_ : Nat
  notices : Nat
deriving DecidableEq, Repr

/-- The radio. -/
structure Cmp where
  /-- MODE, BAND, CH and RATE on the air. -/
  mode : Nat := 0
  band : Nat := 0
  ch : Nat := 0
  rate : Nat := 0
  switch : Option BandSwitch := none
  /-- Beacon sequence of the last interval, and the tick the next begins at (R428). -/
  bseq : Nat := 0
  nextBeacon : Nat := 0
  /-- Airtime per second by band, in thirds of a µs, newest first (R411). -/
  account : Tbl (List (Nat × Nat)) := []
  hold : List Nat := []
  queue : List TxFrame := []
  nextId : Nat := 1
  air : Option OnAir := none
  /-- The band is silent until this tick (R413). -/
  silentTill : Nat := 0
  leases : Tbl Lease := []
  /-- Short address last leased to an EUI (R418). -/
  lastShort : Tbl Nat := []
  floors : Tbl Floor := []
  /-- Seen cache, newest first: key and tick (R425). -/
  seen : List ((Nat × Nat × Nat × Nat) × Nat) := []
  rxq : List RxFrame := []
  rxLost : Nat := 0
  rawDrops : Nat := 0
  /-- Radio statistics: PPDUs of an unsupported option, and frames of no Campion network (R408, R417). -/
  badPhy : Nat := 0
  foreign : Nat := 0
deriving DecidableEq, Repr

/-! ### Annunciator (17_annunciator.md) -/

/-- Channel states (Table ANN.1). -/
inductive AnnState where
  | off | starting | run | stopping | muted | retry | latched | thermal | uvlo | linkLost
deriving DecidableEq, Repr

/-- Who holds a play (R446, R447): 0 ANN_PLAY, 1 a cue, 2 + m the warning of MP m; its tag, and whether it loops. -/
structure PlayOwner where
  src : Nat
  tag : Nat
  loop : Bool
deriving DecidableEq, Repr

/-- A clip that a channel plays or holds stacked: its rank, its length in samples, its owners, the tick its running pass
began at, and the ticks played when it was pre-empted (R445, R446). -/
structure Sounding where
  clip : Nat
  alarm : Bool
  len : Nat
  owners : List PlayOwner
  since : Nat
  held : Option Nat := none
  started : Bool := true
deriving DecidableEq, Repr

/-- A tone generator: frequency, attenuation, and the tick it ends at; keypad tones carry their kind as frequency. -/
structure Tone where
  freq : Nat
  att : Nat
  till : Option Nat
deriving DecidableEq, Repr

/-- One channel. -/
structure AnnChan where
  state : AnnState := .off
  /-- Tick the state was entered at, and since when the channel has had no source. -/
  since : Nat := 0
  idle : Nat := 0
  stack : List Sounding := []
  /-- Generators 0 to 3. -/
  tones : Tbl Tone := []
  retries : Nat := 8
  /-- Tick of the last shutdown or of entry into RUN (R442). -/
  clean : Nat := 0
  /-- STOPPING leads to MUTED. -/
  toMuted : Bool := false
deriving DecidableEq, Repr

/-- The annunciator with what the power die last reported. -/
structure Ann where
  ch0 : AnnChan := {}
  ch1 : AnnChan := {}
  mute : Bool := false
  vspkGood : Bool := true
  linkGood : Bool := true
  /-- Temperature band: 0 below 140 °C, 1 to 150, 2 to 165, 3 above; and the 6 dB reduction (R443). -/
  band : Nat := 0
  reduced : Bool := false
  /-- PCM sounds, the tick of its last samples, and an underrun episode runs (R449). -/
  pcm : Bool := false
  pcmAt : Nat := 0
  underrun : Bool := false
deriving DecidableEq, Repr

/-! ### Host link and tenants (18_host_tenants.md) -/

/-- What the hub sends to the host, in order: memory writes, MSI-X messages (R503) and the answers of register reads. -/
inductive HostOut where
  | write (func addr : Nat) (bytes : Bytes)
  | msi (func vec : Nat)
  | read (func value : Nat)
deriving DecidableEq, Repr

/-- Host context states of a tenant (Table HIF.5). -/
inductive CtxState where
  | undefined | detached | attached | active | resetting
deriving DecidableEq, Repr

/-- One PCIe function's configuration state that the hub acts on (R455–R462). -/
structure Func where
  d3 : Bool := false
  mse : Bool := false
  bme : Bool := false
  msixEnable : Bool := false
  funcMask : Bool := false
  /-- Per-vector mask bits and pending bits (the PBA). -/
  vmask : Nat := 0
  pending : Nat := 0
  aerCorr : Nat := 0
  aerUncorr : Nat := 0
deriving DecidableEq, Repr

/-- A teardown in progress (R466, Table HIF.7). -/
structure Teardown where
  kind : Nat
  cause : Nat
  ticks : Nat
  applied : List Nat
  dropped : Nat
  undefine : Bool
deriving DecidableEq, Repr

/-- The host context of one tenant. -/
structure Ctx where
  state : CtxState := .undefined
  /-- Admin mailbox: state, refusal status and the two proposed definitions (R480, Table RNG.14). -/
  mbxState : Nat := 0
  mbxCode : Nat := 0
  mbxDef0 : Bytes := List.replicate 40 0
  mbxDef1 : Bytes := List.replicate 40 0
  teardown : Option Teardown := none
  /-- The last EV_HIF_CONTEXT_RESET data, on the tenant status page (R468). -/
  report : Bytes := List.replicate 24 0 ++ List.replicate 8 0xFF
  /-- Records the tenant's next first EVT ring receives before any other (R395, R468). -/
  first : List EventRec := []
  /-- Ranges of undelivered records of torn-down EVT rings (chapter 15, When things coincide). -/
  lost : Option (Nat × Nat × Nat) := none
deriving DecidableEq, Repr

/-- The host link. -/
structure Hif where
  perst : Bool := false
  linkUp : Bool := false
  rate : Nat := 0
  width : Nat := 0
  /-- Tick by which link training starts (R457). -/
  trainBy : Option Nat := none
  vfEnable : Bool := false
  numVfs : Nat := 0
  ari : Bool := false
  funcs : Tbl Func := []
  ctxs : Tbl Ctx := []
  out : List HostOut := []
  /-- Host watchdog (R473): tick of the last PF0 doorbell, and silence reported. -/
  lastDoorbell : Nat := 0
  silent : Bool := false
  badCount : Nat := 0
  badLast : Nat := 0
deriving DecidableEq, Repr

/-! ### Rings, doorbells and descriptors (19_rings.md) -/

/-- Ring types (Table RNG.1). -/
inductive RingType where
  | adm | sub | cpl | evt | str | buf | aud | raw
deriving DecidableEq, Repr

/-- Ring states (Table RNG.2). -/
inductive RingState where
  | absent | active | error | deleting
deriving DecidableEq, Repr

/-- One stream record as staged or placed in a page (Table RNG.11). -/
structure StreamRec where
  rkind : Nat
  sfl : Nat
  aseq : Nat
  tenant : Nat
  session : Nat
  body : Bytes
deriving DecidableEq, Repr

/-- The page a page ring is filling (R494, R495). -/
structure OpenPage where
  addr : Nat
  tag : Nat
  bufr : Nat
  recs : List StreamRec
  fill : Nat
  gap : Bool
  since : Nat
  /-- The page is complete and waits for an entry, with its PFL bits. -/
  closing : Option Nat
deriving DecidableEq, Repr

/-- What a DROPPING page ring, or a torn-down one, has not yet reported (Table RNG.12). -/
structure GapNote where
  first : Nat
  last : Nat
  dropped : Nat
  unarch : Nat
  fromTicks : Nat
deriving DecidableEq, Repr

/-- A ring (Table RNG.4) with its indices, staging and waiting records. -/
structure Ring where
  typ : RingType := .adm
  state : RingState := .absent
  rseq : Nat := 0
  log2n : Nat := 4
  irq : Bool := false
  vec : Nat := 0
  pair : Nat := 0xFF
  modCnt : Nat := 0
  base : Nat := 0
  shadow : Nat := 0
  modUs : Nat := 0
  flushMs : Nat := 0
  kinds : Nat := 0
  head : Nat := 0
  tail : Nat := 0
  /-- CPL: slots reserved for commands in processing (R487). -/
  reserved : Nat := 0
  phase : Bool := true
  total : Nat := 0
  drops : Nat := 0
  /-- Entries produced since the last message (R492), and the tick of the first of them. -/
  unsig : Nat := 0
  unsigSince : Nat := 0
  /-- BUF and AUD: what the hub has read of the posted entries, oldest first. -/
  posts : List HostPost := []
  page : Option OpenPage := none
  staged : List StreamRec := []
  dropping : Option GapNote := none
  /-- EV_RNG_BUF_EMPTY has been raised for the page now wanted (R494). -/
  bufEmpty : Bool := false
  /-- EVT: records waiting behind a RETRACT or a report of drops (R391). -/
  held : List EventRec := []
  lost : Option (Nat × Nat × Nat) := none
  /-- RING_DELETE waiting to complete: the command's identifier. -/
  deleting : Option Nat := none
deriving DecidableEq, Repr

/-- All rings: 64 × tenant + index, with each index's RSEQ and the context-gap notes of torn-down rings. -/
structure Rng where
  rings : Tbl Ring := []
  /-- RSEQ that the next creation of an index takes (R482). -/
  rseq : Tbl Nat := []
  /-- Context gap that the tenant's next first STR ring reports (R500). -/
  ctxGap : Tbl GapNote := []
  /-- RNG_BOOT_DEF0/1 and RNG_BOOT_STAT (R479, R588). -/
  def0 : Bytes := List.replicate 40 0
  def1 : Bytes := List.replicate 40 0
  /-- RNG_BOOT_STAT.STATE (0 IDLE, 1 BUSY, 2 DONE, 3 REFUSED), CODE and RNG_BOOT_RSEQ. -/
  bootState : Nat := 0
  bootCode : Nat := 0
  bootRseq : Nat := 0
deriving DecidableEq, Repr

/-! ### Commands in processing and firmware images (20_commands.md) -/

/-- A command that has been taken and not yet completed (R487, R466). -/
structure OpenCmd where
  desc : Desc
  opc : Nat
  sqhd : Nat
  committed : Bool
  /-- What the later completion reports: RESULT bytes and output bytes prepared so far. -/
  result : Bytes
  output : Bytes
  /-- What the command waits for: an identifier its completing command looks up. -/
  token : Nat
  arg : List Nat
deriving DecidableEq, Repr

/-- Command processing state. -/
structure CmdBlk where
  opens : List OpenCmd := []
  /-- Firmware images A and B, as bytes that differ from erased flash (R513). -/
  imageA : List (Nat × BitVec 8) := []
  imageB : List (Nat × BitVec 8) := []
  running : Nat := 0
  /-- A firmware image to start at the next SERVICE reset. -/
  nextImage : Option Nat := none
deriving DecidableEq, Repr

/-! ### Sluice (21_sluice.md) -/

/-- A staging set (R529–R531): the keys of the objects it holds, their bytes that differ from the defaults, SGEN, and the stamped
generation with its commit digest. -/
structure Stage where
  objs : List Nat := []
  mem : List (Nat × BitVec 8) := []
  clipLen : Nat := 0
  sgen : Nat := 1
  stamped : Option Nat := none
  digest : Bytes := []
deriving DecidableEq, Repr

/-- A frozen image that a commit cue carries (R533); `agreed` says that it is a cascade change. -/
structure Image where
  objs : List Nat
  mem : List (Nat × BitVec 8)
  clipLen : Nat
  stamp : Stamp
  cue : Nat
  durable : Bool
  agreed : Bool
deriving DecidableEq, Repr

/-- A cascade agreement that the master is collecting (R538): the image frozen at acceptance with its SGEN and commit digest, and
the members that have yet to answer, with the cycle of PREPARE. -/
structure Agreement where
  image : Image
  gen : Nat
  digest : Bytes
  awaiting : List Nat
  since : Nat
deriving DecidableEq, Repr

/-- The Sluice. In-force objects are one byte memory: address 2^20 × key + offset. -/
structure Slu where
  force : List (Nat × BitVec 8) := []
  /-- Length of the clip object in force. -/
  clipLen : Nat := 0
  /-- Objects in force before the latest commits, oldest first: the cycle from which each was replaced (R26). -/
  past : List (Nat × List (Nat × BitVec 8)) := []
  stages : Tbl Stage := []
  /-- Pending images by tenant. -/
  images : Tbl Image := []
  /-- HELD (R539), and the cause it was entered with (Table SLU.4). -/
  held : Bool := false
  heldCause : Nat := 0
  /-- Master: the agreement in progress, and the change whose confirmations are awaited, with those members. -/
  agreement : Option Agreement := none
  confirming : Option (Stamp × List Nat) := none
  /-- Member: the change it has agreed to and not yet had decided, with its digest's image; the change it has applied and not yet
  compared with the master's agreed digest; and a change whose confirmation it could not send. -/
  prepared : Option Stamp := none
  verify : Option Stamp := none
  unconfirmed : Option Stamp := none
deriving DecidableEq, Repr

/-! ### Rill cascade (22_rill_cascade.md) -/

/-- Member states (Table RIL.4). -/
inductive MemState where
  | detached | joining | joined | isolated
deriving DecidableEq, Repr

/-- A hub of the cascade as the master knows it (Table RIL.7). -/
structure RilEntry where
  /-- 0 DETACHED, 1 JOINING, 2 JOINED, 3 ISOLATED, 4 LOST, 5 ABSENT. -/
  state : Nat := 5
  flags : Nat := 0
  cause : Nat := 0
  deviceId : Nat := 0
  lfwVer : Nat := 0
  agreed : Bytes := List.replicate 8 0
  delay : Nat := 0
  phase : Nat := 0
  skew : Nat := 0
  /-- Cycle of the last STATUS, and START of an ADMIT not yet reached. -/
  heard : Nat := 0
  start : Option Nat := none
  /-- KS with the last CTR sent and accepted under it (R545). -/
  key : Nat := 0
  tx : Nat := 0
  rx : Nat := 0
deriving DecidableEq, Repr

/-- What a BOUNDARY packet says of a master boundary (Table RIL.2). -/
structure MasterBnd where
  cycle : Nat
  /-- 2^-16 µs. -/
  period : Nat
  /-- Master UTC ticks, and STAT. -/
  utc : Nat
  stat : Nat
  agreed : Bytes
deriving DecidableEq, Repr

/-- An aggregate request at the master: the request, B, the members asked that have not answered, the answers, the members
that answered while HELD and those missing (R559). -/
structure AggReq where
  reqId : Nat
  b : Nat
  req : Bytes
  awaiting : List Nat
  answers : List Bytes
  ok : Nat
  held : Nat
  miss : Nat
  since : Nat
  /-- Command it belongs to and its place among the command's requests. -/
  token : Nat
  place : Nat
deriving DecidableEq, Repr

/-- Rill. -/
structure Ril where
  /-- Strap pins, and what was read at the last CHIP start (R541). -/
  pinEn : Bool := false
  pinId : Nat := 0
  cascEn : Bool := false
  cascId : Nat := 0
  /-- Links of RILU and RILD; traffic on a master's RILU has been reported (R543). -/
  linkU : Bool := false
  linkD : Bool := false
  topoSaid : Bool := false
  /-- Packets sent, in order: port (0 RILU, 1 RILD) and bytes. -/
  out : List (Nat × Bytes) := []
  /-- Packets that wait while the service cores are down (R560): port, packet, cycle of arrival. -/
  waiting : List (Nat × Bytes × Nat) := []
  /-- Member (R546–R550): state, last JOIN (cycle and nonce), tick of a retry, START admitted, START of the membership. -/
  state : MemState := .detached
  lastJoin : Option Nat := none
  nonce : Bytes := []
  retryAt : Option Nat := none
  retryNow : Bool := false
  start : Option Nat := none
  since : Nat := 0
  /-- KS and KG with their last CTRs: sent under KS, accepted under KS and KG. -/
  ks : Nat := 0
  kg : Nat := 0
  txKs : Nat := 0
  rxKs : Nat := 0
  rxKg : Nat := 0
  /-- Incoming hop delay h in 2^-16 µs, and the cycle it was last asked for. -/
  hop : Nat := 0
  echoAt : Nat := 0
  /-- Delay from the master of the last BOUNDARY. -/
  delay : Nat := 0
  /-- The last BOUNDARY accepted; the boundary to be placed from it next; boundaries placed without one in a row. -/
  last : Option MasterBnd := none
  next : Option MasterBnd := none
  selfPlaced : Nat := 0
  /-- The own placing of the next boundary is due. -/
  placeOwn : Bool := false
  /-- Shadow phase offsets, newest first, at most 16, and PHASE_MISMATCH. -/
  phases : List Int := []
  mismatch : Bool := false
  /-- Row of Table RIL.5 in force (0 none yet, 1 to 5), the last skew, SKEWED, a time set due at the next boundary. -/
  row : Nat := 0
  skew : Int := 0
  skewed : Bool := false
  setDue : Bool := false
  /-- Master UTC less own ticks at the last placed boundary (R556). -/
  utcLess : Int := 0
  statusAt : Nat := 0
  /-- CAUSE of the last refusal (Table RIL.3). -/
  refusal : Nat := 0
  /-- Aggregate requests a member has yet to answer: REQ_ID, B, request and the cycle it came in. -/
  asked : List (Nat × Nat × Bytes × Nat) := []
  /-- Master: BOOT_NONCE, the last CTR under KG, the hubs' entries, forward steps due (boundary in its own numbering and the number
  it takes), aggregate requests. -/
  bootNonce : Bytes := []
  txKg : Nat := 0
  entries : Tbl RilEntry := []
  steps : List (Nat × Nat) := []
  aggs : List AggReq := []
  nextReq : Nat := 1
deriving DecidableEq, Repr

/-- The straps make this hub a member (Terms). -/
def Ril.member (r : Ril) : Bool := r.cascEn && r.cascId != 0

/-- The straps make this hub the master. -/
def Ril.master (r : Ril) : Bool := r.cascEn && r.cascId == 0

/-- A JOINED member. -/
def Ril.joined (r : Ril) : Bool := r.member && r.state == .joined

/-! ### Supplies, resets and start-up (23_power_startup.md) -/

/-- What the reset controller keeps in the backup domain about the last CHIP reset (R567, R570, R575). -/
structure LastReset where
  scope : Nat := 0
  cause : Nat := 2
  tick : Nat := 0
  domain : Nat := 0xFF
  /-- 16-bit saturating counters per cause code (R570). -/
  counts : Tbl Nat := []
  /-- The last power-fail commit's step 4 was due (R575). -/
  step4Due : Bool := false
  /-- The last power-fail commit (Table PWR.8): steps completed as bits, µs, tick of the trip; µs without the reference clock. -/
  commit : Option (Nat × Nat × Nat) := none
  refUs : Nat := 0
deriving DecidableEq, Repr

/-- Supplies, resets and watchdogs. -/
structure Pwr where
  /-- The hub is in CHIP reset (R564). -/
  inReset : Bool := false
  /-- CHIP_START has run since the last CHIP reset (R568). -/
  started : Bool := false
  /-- PF_HOLD is in force (R575). -/
  pfHold : Bool := false
  /-- Levels of RESET_N low and of the rails: reset is held while one of these stands. -/
  resetNLow : Bool := false
  railBad : Bool := false
  refStopped : Bool := false
  /-- A power-fail commit is running or done in this reset (R572). -/
  committing : Bool := false
  last : LastReset := { counts := [(2, 1)] }
  /-- Tick of t0, and whether metering resumed in this run. -/
  t0 : Nat := 0
  resumed : Bool := false
  /-- The service cores are down (R581), with the cause and the domain of an escalation. -/
  serviceDown : Bool := false
  serviceCause : Nat := 0
  serviceDomain : Nat := 0xFF
  /-- Maintenance UART lines sent: step number, milliseconds and OK; step 0 is SU READY with the run (R582). -/
  uart : List (Nat × Nat × Bool) := []
deriving DecidableEq, Repr

/-! ### Set-up registers and pins (24_setup_registers.md, 25_electrical_package.md) -/

/-- Registers with no block of their own: GPIO, capture groups, the JTAG watch. -/
structure Regs where
  gpioDir : Nat := 0
  gpioOut : Nat := 0
  gpioIn : Nat := 0
  gpioPull : Nat := 0xFFFF
  /-- Running captures by 256 × function + group: tick of the capture and the captured words (R585). -/
  caps : Tbl (Nat × List Nat) := []
  /-- EVT_OVERRUN bits: device domains 0 to 15, bit 16 for any tenant domain (R596). -/
  overrun : Nat := 0
  /-- Tick of the last TCK edge of the running JTAG burst (R609). -/
  jtagBurst : Option Nat := none
deriving DecidableEq, Repr

/-! ### The whole machine -/

/-- The hub. -/
structure State where
  /-- Commands waiting, first in first out. -/
  pending : List Instr := []
  /-- The model's own counter of free values taken (log entry 2). -/
  free : Nat := 0
  clk : Clk := {}
  bkd : Bkd := {}
  ply : Ply := {}
  flt : Flt := {}
  met : Met := {}
  pqe : Pqe := {}
  lgl : Seal := {}
  tar : Tar := {}
  crd : Crd := {}
  cus : Cus := {}
  key : Keys := {}
  cmp : Cmp := {}
  ann : Ann := {}
  cis : Cis := {}
  ev : EvBlk := {}
  hif : Hif := {}
  rng : Rng := {}
  cmd : CmdBlk := {}
  slu : Slu := {}
  ril : Ril := {}
  pwr : Pwr := {}
  reg : Regs := {}
deriving DecidableEq, Repr

/-- Why the machine stops with a fault.  No command of the spec stops the block, so no meaning answers with one. -/
inductive Fault where
  /-- Raised by no meaning of this model; safe. -/
  | none
deriving DecidableEq, Repr

/-- Why the machine refuses a command. -/
inductive Refusal where
  /-- Raised by a dispatch arm whose meaning is not written; safe. -/
  | notModelled (mnemonic : String)
deriving DecidableEq, Repr

/-- The machine right after reset: a power-up of every rail with the backup domain just reset (R60), with factory flash, still held in
CHIP reset until CHIP_START runs the start-up steps (R564, R568).  Every other field has its reset value as its default. -/
def State.reset : State := { pwr := { inReset := true } }

end Sys2Proof.Machine
end

