-- ==== Sys2Proof/Machine/Operands.lean ====
section
/-!
DEFINITION. Where the machine reads its operands from: the in-force configuration objects, field by field as their
tables lay them out, the current tick and the current stamp.
-/
namespace Sys2Proof.Machine

/-! ### Time -/

/-- The tick count (R64). -/
def nowTick (s : State) : Nat := s.bkd.tick

/-- The running cycle; 0 before the first numbered boundary (R617). -/
def nowCycle (s : State) : Nat := s.clk.cycle.getD 0

/-- The angle of the running cycle at the current tick, projected with the tracked frequency (R47, R48). -/
def nowAngle (s : State) : Nat :=
  min 65535 (((s.bkd.tick - s.clk.tick) * 65536 - s.clk.tickFrac) * s.clk.freq / (32768 * 65536))

/-- The current stamp (R10). -/
def nowStamp (s : State) : Stamp := mkStamp (nowCycle s) (nowAngle s)

/-- The first boundary at least `k` cycles after now (R508, R514). -/
def boundaryAfter (s : State) (k : Nat) : Stamp :=
  mkStamp ((nowStamp s + k * angleBits + (angleBits - 1)) / angleBits) 0

/-- Ticks from a number of seconds. -/
def secs (n : Nat) : Nat := n * ticksPerSecond

/-- UTC ticks (R70). -/
def utcTicks (s : State) : Int := (s.bkd.tick : Int) + s.bkd.epoch

/-- One tick duration of a cycle at the tracked frequency: the tick count of a future stamp (R48). -/
def stampTicks (s : State) (st : Stamp) : Nat :=
  s.clk.tick + (st - mkStamp (nowCycle s) 0) * 32768 / max 1 s.clk.freq

/-- The slot frame of a future stamp with a fraction of 1/65,536, projected from the latest boundary (R48). -/
def stampFrames (s : State) (st : Stamp) : Nat :=
  s.clk.frame * 65536 + s.clk.frameFrac + (st - mkStamp (nowCycle s) 0) * 10240 * 65536 / max 1 s.clk.freq

/-! ### Configuration objects in force -/

/-- `n` bytes of an object in force, by key. -/
def cfgBytes (s : State) (key off n : Nat) : Bytes := Mem.readAll cfgDefault s.slu.force (cfgAddr key off) n

/-- A little-endian field of an object in force. -/
def cfg (s : State) (key off n : Nat) : Nat := leVal (cfgBytes s key off n)

/-- A signed field of an object in force. -/
def cfgInt (s : State) (key off n : Nat) : Int := signed (8 * n) (cfg s key off n)

/-- Read an object in force by offset and size. -/
def cfgRd (s : State) (key : Nat) : Rd := fun off n => cfg s key off n

/-- The length of an object: its table's size, or the committed length of the clip object. -/
def objLen (s : State) (obj : Nat) : Nat := if obj / 256 = objClip then max 512 s.slu.clipLen else objSize obj

/-- Tenant object (Table HIF.6). -/
def tenantDefined (s : State) (t : Nat) : Bool := decide (t < 256) && bit (cfg s (objCode objTenant 0) (16 + 16 * t) 1) 0
def cmdMax (s : State) (t : Nat) : Nat := cfg s (objCode objTenant 0) (16 + 16 * t + 1) 1
def signMax (s : State) (t : Nat) : Nat := cfg s (objCode objTenant 0) (16 + 16 * t + 2) 1
def hostWdS (s : State) : Nat := cfg s (objCode objTenant 0) 0 2

/-- Subscription object (Table EVT.7). -/
def subscribed (s : State) (t id : Nat) : Bool := bit (cfg s (objKey t (objCode objSubscription 0)) (id / 8) 1) (id % 8)
def evtRing (s : State) (t cls : Nat) : Nat := cfg s (objKey t (objCode objSubscription 0)) (256 + cls) 1

/-- Archive mask (Table EVT.8). -/
def archived (s : State) (id : Nat) : Bool := bit (cfg s (objCode objArchMask 0) (id / 8) 1) (id % 8)

/-- Stream staging quota in bytes (Table RNG.15, R498). -/
def quota (s : State) (t : Nat) : Nat := 65536 * cfg s (objCode objStaging 0) (2 * t) 1

/-- MP object (Table MET.3). -/
def mpField (s : State) (m off n : Nat) : Nat := cfg s (objCode objMp 0) (64 * m + off) n
def mpType (s : State) (m : Nat) : Nat := mpField s m 0 1
def mpAbsent (s : State) (m : Nat) : Bool := mpType s m == 0
def mpSection (s : State) (m : Nat) : Nat := mpField s m 2 1
def mpRole (s : State) (m : Nat) : Nat := mpField s m 3 1

/-- Section object (Table MET.5). -/
def sectionField (s : State) (k off n : Nat) : Nat := cfg s (objCode objSection 0) (16 * k + off) n

/-- Cycle clock object (Table SLU.5). -/
def refList (s : State) : List Nat := ((span 0 4).map fun i => cfg s (objCode objClock 0) i 1).filter (· ≤ 2)
def refFloor (s : State) : Nat := cfg s (objCode objClock 0) 4 1
def unom (s : State) : Nat := cfg s (objCode objClock 0) 8 4

/-- Ring configuration (Table PLY.12). -/
def expectSerial (s : State) (p : Nat) : Nat := cfg s (objCode objRing 0) (8 * p) 8
def holdoffS (s : State) : Nat := cfg s (objCode objRing 0) 512 2
def armLead (s : State) : Nat := cfg s (objCode objRing 0) 514 2

/-- MP binding (Table TAR.4). -/
def bindField (s : State) (m off n : Nat) : Nat := cfg s (objCode objBinding 0) (8 * m + off) n

/-- Tenant billing (Table TAR.3). -/
def tenantCal (s : State) (t : Nat) : Nat := cfg s (objCode objBilling 0) (4 * t) 1
def selfEnd (s : State) (t : Nat) : Bool := bit (cfg s (objCode objBilling 0) (4 * t + 1) 1) 0

/-- Credit object (Table CRD.5). -/
def creditField (s : State) (t off n : Nat) : Nat := cfg s (objCode objCredit 0) (8 + 24 * t + off) n
def prepaid (s : State) (t : Nat) : Bool := creditField s t 0 1 == 1
def lockS (s : State) : Nat := 2 * cfg s (objCode objCredit 0) 0 2
def warnClip (s : State) : Nat := cfg s (objCode objCredit 0) 2 1
def toneCh (s : State) : Nat := cfg s (objCode objCredit 0) 3 1 % 2

/-- Relay object (Table CRD.6). -/
def relayField (s : State) (m off n : Nat) : Nat := cfg s (objCode objRelay 0) (16 * m + off) n

/-- Custody object (Table CUS.7). -/
def custodyField (s : State) (m off n : Nat) : Nat := cfg s (objCode objCustody 0) (16 * m + off) n
def ruleField (s : State) (set rule off n : Nat) : Nat := cfg s (objCode objCustody 0) (4096 + 32 * set + 8 * rule + off) n

/-- Radio object (Tables CMP.6, CMP.7). -/
def radioField (s : State) (off n : Nat) : Nat := cfg s (objCode objRadio 0) off n
def bandField (s : State) (b off n : Nat) : Nat := cfg s (objCode objRadio 0) (16 + 32 * b + off) n

/-- Annunciator object (Table ANN.3). -/
def annField (s : State) (off n : Nat) : Nat := cfg s (objCode objAnn 0) off n

/-- Quality and health object (Table PQE.6). -/
def qualityField (s : State) (off n : Nat) : Nat := cfg s (objCode objQuality 0) off n

/-- Capture set object (Table PQE.8). -/
def captureField (s : State) (k off n : Nat) : Nat := cfg s (objCode objCapture 0) (80 * k + off) n

/-- Cascade object (Table RIL.8). -/
def cascadeField (s : State) (off n : Nat) : Nat := cfg s (objCode objCascade 0) off n

/-- A calendar slot: calendar `c`, active or passive (Table TAR.1). -/
def slotKey (c : Nat) (passive : Bool) : Nat := objCode objSlot (2 * c + if passive then 1 else 0)

end Sys2Proof.Machine
end

