-- ==== Sys2Proof/Machine/Flags.lean ====
section
/-!
DEFINITION. The status bytes the hub computes: clock state, time trust, stamp status, and the severity and domain of
each event ID (Tables CYC.4, BKD.3, EVT.1, EVT.2, EVT.6).
-/
namespace Sys2Proof.Machine

/-- CLK code of a clock state (Table CYC.1). -/
def clkCode : ClkState → Nat
  | .locked => 0
  | .slave => 1
  | .acquire => 2
  | .relock => 3
  | .coastLast => 4
  | .coastNom => 5

/-- The CLK code in force (R42). -/
def clk (s : State) : Nat := clkCode s.clk.state

/-- Whether the clock coasts (R40). -/
def coasting (s : State) : Bool := s.clk.state == .coastLast || s.clk.state == .coastNom

/-- The COAST flag of the cycle-clock status: set until LOCKED or SLAVE (R40). -/
def coastFlag (s : State) : Bool := !(s.clk.state == .locked || s.clk.state == .slave)

/-- Time trust (Table BKD.3). -/
def tt (s : State) : Nat := if s.bkd.osf then 1 else if s.ril.skewed then 2 else 0

/-- A strapped member that is not joined stamps with its own boundaries (DETACHED). -/
def detachedFlag (s : State) : Bool := s.ril.member && !s.ril.joined

/-- STAT of Table EVT.6: CLK, TT and DETACHED. -/
def statByte (s : State) : Nat := clk s + 8 * tt s + flag (detachedFlag s) 5

/-- CLK and TT alone, as records without a DETACHED bit carry them. -/
def clkTt (s : State) : Nat := clk s + 8 * tt s

/-- OSF byte 7 of Table BKD.11. -/
def osfByte (s : State) (calRange : Bool) : Nat := flag s.bkd.osf 0 + 2 * (s.bkd.causes % 8) + flag calRange 4

/-! ### Events: severity and domain -/

/-- An event ID from its class and index (R384). -/
def evId (cls idx : Nat) : Nat := cls * 128 + idx

/-- IDs that are always a fault of severity 1 (F1 of Tables EVT.2, HIF.8, RNG.16, SLU.4, PWR.8 and the others). -/
def minorIds : List Nat :=
  [0x105, 0x106, 0x184, 0x186, 0x187, 0x18C, 0x200, 0x202, 0x281, 0x284, 0x306, 0x403, 0x48A, 0x584, 0x680, 0x682,
   0x704, 0x705, 0x707, 0x709, 0x70A, 0x781, 0x786, 0x788, 0x78D, 0x7A1, 0x7A3, 0x7A5, 0x7C4, 0x7D9, 0x7F7, 0x7F8]

/-- IDs that are always a fault of severity 2. -/
def majorIds : List Nat :=
  [0x044, 0x005, 0x101, 0x107, 0x181, 0x185, 0x188, 0x189, 0x18A, 0x18B, 0x201, 0x304, 0x386, 0x582, 0x602,
   0x681, 0x683, 0x684, 0x685, 0x68A, 0x70B, 0x787, 0x789, 0x7A2,
   0x7D2, 0x7D3, 0x7D4, 0x7D7, 0x7DA, 0x7F2, 0x7F5, 0x7F6]

/-- IDs that are always a fault of severity 3. -/
def criticalIds : List Nat := [0x003, 0x004, 0x402, 0x603, 0x604, 0x688, 0x689, 0x7F3]

/-- IDs marked F1*: a minor fault in the outcomes their chapter names. -/
def minorStarIds : List Nat := [0x203, 0x385, 0x702, 0x7C1, 0x7C2, 0x7D6]

/-- IDs marked F2*: a major fault in the outcomes their chapter names. -/
def majorStarIds : List Nat := [0x500, 0x7C3, 0x7D5, 0x7F4]

/-- Severity of an event (R385): `star` says that this is an outcome its chapter calls a fault. -/
def severity (id : Nat) (star : Bool) : Nat :=
  if minorIds.contains id then 1
  else if majorIds.contains id then 2
  else if criticalIds.contains id then 3
  else if star && minorStarIds.contains id then 1
  else if star && majorStarIds.contains id then 2
  else 0

/-- Whether an ID can be a fault at all (R389's archive-mask check). -/
def mayBeFault (id : Nat) : Bool := severity id true != 0

/-- Default domain of an event ID (Table EVT.1, Table EVT.3). -/
def defaultDomain (id : Nat) : Nat :=
  match id / 128 with
  | 0 => if id < 64 then 8 else 15
  | 1 => 3
  | 2 => 4
  | 3 => 2
  | 4 => 2
  | 5 => 1
  | 6 => 1
  | 7 => 1
  | 8 => 0
  | 9 => 14
  | 10 => 14
  | 11 => 13
  | 12 => 5
  | 13 => 6
  | 14 => 7
  | _ => if id % 128 < 64 then 9 else if id % 128 < 80 then 12 else if id % 128 < 112 then 10 else 11

/-- Events that the suppression and the loss rules never touch: faults, classes 8, 11 and 12, and EV_RETRACT (R392, R393). -/
def exemptEvent (id sev : Nat) : Bool := sev != 0 || [8, 11, 12].contains (id / 128) || id == 64

end Sys2Proof.Machine
end

