-- ==== Sys2Proof/Machine/Ops.lean ====
section
/-!
DEFINITION. The shared operations of the hub: what it writes to the host, event records and fault domains, the custody
tail and streams, cues, command completions, teardowns and resets.  Every meaning is written over these.
-/
namespace Sys2Proof.Machine

/-- The outcome of a command. -/
abbrev Out := Host.Outcome State Fault Refusal

/-! ### Free values -/

/-- The next free value and the state that has taken it. -/
def takeFree (s : State) : Nat × State := (Config.freeValue s.free, { s with free := s.free + 1 })

/-! ### Status codes (Table CMD.15) -/

def stOk : Nat := 0
def stBadOpcode : Nat := 1
def stWrongRing : Nat := 2
def stDescFormat : Nat := 3
def stBadArg : Nat := 4
def stDataShort : Nat := 5
def stNotPermitted : Nat := 6
def stTenantUnknown : Nat := 7
def stNotFound : Nat := 8
def stBadState : Nat := 9
def stServiceReset : Nat := 0xA
def stAborted : Nat := 0xB
def stArchive : Nat := 0xC
def stQueueFull : Nat := 0xD
def stRingExists : Nat := 0x101
def stRingParam : Nat := 0x102
def stRingBusy : Nat := 0x103
def stNoRequest : Nat := 0x104
def stCuePast : Nat := 0x201
def stCueRange : Nat := 0x202
def stCueAngle : Nat := 0x203
def stCueFull : Nat := 0x204
def stCueConflict : Nat := 0x205
def stNotChecked : Nat := 0x206
def stGenChanged : Nat := 0x207
def stCheckFail : Nat := 0x208
def stSealed : Nat := 0x209
def stObjUnknown : Nat := 0x20A
def stObjSize : Nat := 0x20B
def stCascadeRole : Nat := 0x20C
def stFwBad : Nat := 0x20D
def stCascadeDisagree : Nat := 0x20E
def stCueLimit : Nat := 0x20F
def stTimeAuth : Nat := 0x301
def stTimeNonce : Nat := 0x302
def stTimeRange : Nat := 0x303
def stTimeStep : Nat := 0x304
def stSealNoLock : Nat := 0x401
def stSealBrkOpen : Nat := 0x402
def stSealState : Nat := 0x403
def stSealPending : Nat := 0x404
def stSealDigest : Nat := 0x405
def stSealAbort : Nat := 0x406
def stLogFull : Nat := 0x407
def stSpareParked : Nat := 0x501
def stMpBound : Nat := 0x601
def stMpAbsent : Nat := 0x602
def stSessionExhausted : Nat := 0x603
def stTokenFormat : Nat := 0x701
def stNoTokenKey : Nat := 0x702
def stTokenMac : Nat := 0x703
def stTokenTenant : Nat := 0x704
def stTokenClass : Nat := 0x705
def stTokenOld : Nat := 0x706
def stTokenUsed : Nat := 0x707
def stTokenLocked : Nat := 0x708
def stEcUsed : Nat := 0x709
def stEcNone : Nat := 0x70A
def stNotPrepaid : Nat := 0x70B
def stCusBindFull : Nat := 0x801
def stCusRate : Nat := 0x802
def stBlobSize : Nat := 0x803
def stKeyKind : Nat := 0x901
def stKeyWrap : Nat := 0x902
def stKeyExhausted : Nat := 0x903
def stKeyAborted : Nat := 0x904
def stKeyEmpty : Nat := 0x905
def stNoSignKey : Nat := 0x906
def stRngFail : Nat := 0x907
def stArchiveGone : Nat := 0xA01
def stRadioMode : Nat := 0xB01
def stRadioBudget : Nat := 0xB02
def stRadioBusy : Nat := 0xB03
def stAnnClip : Nat := 0xC01
def stAnnUnavailable : Nat := 0xC02

/-! ### Host memory writes and MSI-X (R458, R462, R503) -/

/-- The configuration state of a function: PF0 serves tenant 0, VF n tenant n (R459). -/
def func (s : State) (t : Nat) : Func := tget {} s.hif.funcs t

/-- Whether a function exists (R459). -/
def funcExists (s : State) (t : Nat) : Bool := t == 0 || (s.hif.vfEnable && decide (t ≤ s.hif.numVfs))

/-- A live function: enabled, in D0, with Memory Space Enable and Bus Master Enable set (R458). -/
def live (s : State) (t : Nat) : Bool :=
  funcExists s t && !(func s t).d3 && (func s t).mse && (func s t).bme && s.hif.linkUp

/-- A memory write to the host of tenant `t`'s function, issued only while that function is live (R458). -/
def dma (s : State) (t addr : Nat) (b : Bytes) : State :=
  if live s t then { s with hif := { s.hif with out := s.hif.out ++ [.write t addr b] } } else s

/-- A message on a vector: sent, or pending while masked; none while MSI-X or Bus Master Enable is clear (R462). -/
def sendMsi (s : State) (t v : Nat) : State :=
  let f := func s t
  if f.msixEnable && f.bme then
    if f.funcMask || bit f.vmask v then
      { s with hif := { s.hif with funcs := tput s.hif.funcs t { f with pending := setBit f.pending v } } }
    else { s with hif := { s.hif with out := s.hif.out ++ [.msi t v] } }
  else s

/-! ### Ring access -/

/-- Key of a tenant's ring (R475). -/
def ringKey (t i : Nat) : Nat := 64 * t + i

/-- A ring by tenant and index. -/
def ring (s : State) (t i : Nat) : Ring := tget {} s.rng.rings (ringKey t i)

/-- Replace a ring. -/
def setRing (s : State) (t i : Nat) (r : Ring) : State :=
  { s with rng := { s.rng with rings := tput s.rng.rings (ringKey t i) r } }

/-- Entries of a ring (R475). -/
def ringSize (r : Ring) : Nat := 2 ^ r.log2n

/-- Entries in use (R476). -/
def ringUsed (r : Ring) : Nat := (r.tail + ringSize r - r.head) % ringSize r

/-- Free entries: a ring holds at most 2^LOG2N − 1 (R476). -/
def ringFree (r : Ring) : Nat := ringSize r - 1 - ringUsed r

/-- Entry size in bytes (Table RNG.1). -/
def entrySize : RingType → Nat
  | .adm => 64
  | .sub => 64
  | .cpl => 32
  | .evt => 64
  | .str => 32
  | .buf => 16
  | .aud => 16
  | .raw => 32

/-- Code of a ring type (Table RNG.1). -/
def ringTypeOf : Nat → Option RingType
  | 0 => some .adm
  | 1 => some .sub
  | 2 => some .cpl
  | 3 => some .evt
  | 4 => some .str
  | 5 => some .buf
  | 6 => some .aud
  | 7 => some .raw
  | _ => none

/-- Rings whose producer is the host (Table RNG.1). -/
def hostProduces : RingType → Bool
  | .adm => true
  | .sub => true
  | .buf => true
  | .aud => true
  | _ => false

/-- State codes of the shadow (Table RNG.7). -/
def ringStateCode : RingState → Nat
  | .absent => 0
  | .active => 1
  | .error => 2
  | .deleting => 3

/-- The shadow block (Table RNG.7). -/
def shadowBytes (r : Ring) : Bytes :=
  le 2 (if hostProduces r.typ then r.head else r.tail) ++ le 1 (ringStateCode r.state) ++ le 1 (r.rseq % 256) ++
    le 4 r.total ++ le 4 r.drops ++ zeros 4

/-- Write a ring's shadow (R477). -/
def writeShadow (s : State) (t i : Nat) : State := dma s t (ring s t i).shadow (shadowBytes (ring s t i))

/-- The point at which a ring's interrupt falls due: the shadow, then the message when IRQ is set (R477, R492). -/
def signalRing (s : State) (t i : Nat) : State :=
  let s1 := writeShadow (setRing s t i { ring s t i with unsig := 0 }) t i
  if (ring s t i).irq then sendMsi s1 t (ring s t i).vec else s1

/-- Produce one entry in a hub-producer ring: the entry, then shadow and interrupt when they fall due (R476, R492). -/
def produce (s : State) (t i : Nat) (b : Bytes) : State :=
  let r := ring s t i
  let s1 := dma s t (r.base + r.tail * entrySize r.typ) b
  let tail := (r.tail + 1) % ringSize r
  let r1 := { r with tail := tail, phase := if tail = 0 then !r.phase else r.phase, total := (r.total + 1) % 2 ^ 32,
                     unsig := r.unsig + 1, unsigSince := if r.unsig = 0 then nowTick s else r.unsigSince }
  let s2 := setRing s1 t i r1
  if max 1 r.modCnt ≤ r1.unsig ∨ r.modUs = 0 then signalRing s2 t i else s2

/-! ### Host contexts -/

/-- A tenant's host context. -/
def ctx (s : State) (t : Nat) : Ctx := tget {} s.hif.ctxs t

/-- Replace a tenant's host context. -/
def setCtx (s : State) (t : Nat) (c : Ctx) : State := { s with hif := { s.hif with ctxs := tput s.hif.ctxs t c } }

/-- Codes of EV_HIF_TENANT_STATE. -/
def ctxCode : CtxState → Nat
  | .undefined => 0
  | .detached => 1
  | .attached => 2
  | .active => 3
  | .resetting => 4

/-! ### Fault domains -/

/-- A fault domain by code: 0 to 15 device, 16 + t tenant t (Table EVT.3). -/
def dom (s : State) (k : Nat) : Dom := tget {} s.ev.doms k

/-- Replace a fault domain. -/
def setDom (s : State) (k : Nat) (d : Dom) : State := { s with ev := { s.ev with doms := tput s.ev.doms k d } }

/-- What a fault does to its domain (Table EVT.4). -/
inductive Place where
  | ignored | start | push | queue
  | escalate (cause : Nat)
deriving DecidableEq, Repr

/-- Where a fault of a severity goes: `nested` when the top handler's actions raised it (Table EVT.4). -/
def placeFault (d : Dom) (sev : Nat) (nested : Bool) : Place :=
  match d.state with
  | .escalating => .ignored
  | .idle => .start
  | .handling =>
    match d.stack with
    | [] => .start
    | top :: _ =>
      if nested || decide (top.sev < sev) then (if 4 ≤ d.stack.length then .escalate 0 else .push)
      else if 16 ≤ d.queue.length then .escalate 1 else .queue

/-- Depth at which handling of a fault starts: 0 while pending (Table EVT.6). -/
def placeDepth (d : Dom) : Place → Nat
  | .start => 1
  | .push => d.stack.length + 1
  | _ => 0

/-- Count a fault of a severity, saturating with SAT bits (R401, Table CMD.16). -/
def countFault (d : Dom) (sev : Nat) : Dom :=
  let inc := fun v => satInc 32 v
  let full := fun (v : Nat) (b : Nat) (sat : Nat) => if v = 2 ^ 32 - 1 then setBit sat b else sat
  let d1 := { d with total := inc d.total, sat := full d.total 0 d.sat }
  if sev = 1 then { d1 with minor := inc d1.minor, sat := full d1.minor 1 d1.sat }
  else if sev = 2 then { d1 with major := inc d1.major, sat := full d1.major 2 d1.sat }
  else { d1 with critical := inc d1.critical, sat := full d1.critical 3 d1.sat }

/-- Put a fault on the stack or in the pending queue. -/
def applyPlace (d : Dom) (p : Place) (id sev now : Nat) (nested : Bool) : Dom :=
  match p with
  | .start => { d with state := .handling, stack := [⟨id, sev, now, nested⟩] }
  | .push => { d with state := .handling, stack := ⟨id, sev, now, nested⟩ :: d.stack }
  | .queue => { d with queue := d.queue ++ [(id, sev)] }
  | .ignored => d
  | .escalate _ => { d with state := .escalating, stack := [], queue := [], esc := satInc 32 d.esc,
                            sat := (if d.esc = 2 ^ 32 - 1 then setBit d.sat 4 else d.sat), overrun := true }

/-! ### Event records and delivery -/

/-- What a block raises. -/
structure EvReq where
  id : Nat
  src : Nat := 0xFFFF
  tenant : Nat := 0
  data : Bytes := []
  /-- Fn*: this outcome is a fault (R385). -/
  star : Bool := false
  /-- The tenant whose domain handles the fault (R385, R470). -/
  dom : Option Nat := none
  /-- Derived from early outputs: the windows it rests on (R394). -/
  range : List (Nat × Nat × Nat) := []
  early : Bool := false
  /-- Raised by the handler at the top of the same domain's stack. -/
  nested : Bool := false
deriving DecidableEq, Repr

/-- The 64 bytes of an event record (Table EVT.6). -/
def eventBytes (r : EventRec) : Bytes :=
  le 6 r.eseq ++ le 2 r.id ++ le 7 r.stamp ++ le 1 r.stat ++ le 6 r.ticks ++ le 1 r.sev ++ le 1 r.domain ++ le 1 r.tenant ++
    le 1 r.rflags ++ le 2 r.src ++ le 1 r.depth ++ zeros 3 ++ pad 32 r.data

/-- Whether a record is an EV_RETRACT, which is never dropped (R391). -/
def isRetract (r : EventRec) : Bool := r.id == 64

/-- Add an item that finds room to the custody tail: it takes the next ASEQ (R377, R378). -/
def tailPush (s : State) (it : Item) : State :=
  { s with cis := { s.cis with tail := s.cis.tail ++ [{ it with aseq := s.cis.nextAseq }], nextAseq := s.cis.nextAseq + 1 } }

/-- Units held in the custody tail (R378). -/
def tailUnits (s : State) : Nat := nsum (s.cis.tail.map (·.units))

/-- Whether an item of `u` units enters the tail at once: nothing waits before it and the tail has room (R378). -/
def tailRoom (s : State) (u : Nat) : Bool := s.cis.waiting.isEmpty && decide (tailUnits s + u ≤ 16384)

/-- An event record as an archived item of KIND 0x05 and one unit (R389). -/
def eventItem (r : EventRec) : Item := ⟨5, r.tenant, 0xFFFFFFFF, 0, 1, eventBytes r, false⟩

/-- Place one record in an EVT ring: produced, held behind a RETRACT, or dropped and noted (R391). -/
def evtPush (s : State) (t i : Nat) (r : EventRec) : State :=
  let q := ring s t i
  if q.state != .active then s
  else if q.held.isEmpty && q.lost.isNone && decide (0 < ringFree q) then produce s t i (eventBytes r)
  else if isRetract r || !q.held.isEmpty then setRing s t i { q with held := q.held ++ [r] }
  else
    let l := match q.lost with
      | none => (r.eseq, r.eseq, 1)
      | some (a, _, n) => (a, r.eseq, n + 1)
    setRing s t i { q with lost := some l, drops := satInc 32 q.drops }

/-- The EVT ring of a tenant for a class, when it exists (R390). -/
def evtTarget (s : State) (t cls : Nat) : Option Nat :=
  let i := evtRing s t cls
  if i < 64 ∧ (ring s t i).typ = .evt ∧ (ring s t i).state = .active then some i else none

/-- Tenants that may see a record: tenant 0 and the record's own (R390). -/
def viewers (r : EventRec) : List Nat := if r.tenant = 0 then [0] else [0, r.tenant]

/-- Deliver a record to the tenants whose subscription selects it (R390). -/
def deliver (s : State) (r : EventRec) : State :=
  (viewers r).foldl (fun a t =>
    if subscribed a t r.id then
      match evtTarget a t (r.id / 128) with
      | some i => evtPush a t i r
      | none => a
    else a) s

/-- The rings a record goes to, as it is delivered now (R395). -/
def sentTo (s : State) (r : EventRec) : List Nat :=
  (viewers r).filterMap fun t =>
    if subscribed s t r.id then (evtTarget s t (r.id / 128)).map (ringKey t) else none

/-- Whether the archive mask can exclude an ID at all (R389). -/
def unmaskable (id sev : Nat) : Bool := exemptEvent id sev || (id / 128 == 0 && decide (64 ≤ id))

/-- Records of the event block that wait for the tail (R393). -/
def waitingEvents (s : State) : Nat := (s.cis.waiting.filter (fun w => w.ev.isSome)).length

/-- Archive and deliver a record: into the tail and then to rings, or into the event block, or lost and counted
(R389, R393). -/
def admitRecord (s : State) (r : EventRec) : State :=
  if !(archived s r.id || unmaskable r.id r.sev) then deliver s r
  else if tailRoom s 1 then deliver (tailPush s (eventItem r)) r
  else if waitingEvents s < (if exemptEvent r.id r.sev then 8192 else 7168) then
    { s with cis := { s.cis with waiting := s.cis.waiting ++ [⟨eventItem r, some r⟩], tailFull := true } }
  else { s with ev := { s.ev with lost := tput s.ev.lost (r.id / 128) (satInc 16 (tget 0 s.ev.lost (r.id / 128))),
                                   lostAll := satInc 32 s.ev.lostAll } }

/-- Give a record the next ESEQ and record it (R387). -/
def issueRecord (s : State) (r : EventRec) : State :=
  let r1 := { r with eseq := s.ev.next }
  let s1 := { s with ev := { s.ev with next := s.ev.next + 1, log := s.ev.log ++ [r1] } }
  admitRecord s1 r1

/-- Whether a record comes before another in ESEQ order: by stamp, then by event ID (R387). -/
def precedes (a b : Raised) : Bool :=
  decide (a.entry.stamp < b.entry.stamp) || (a.entry.stamp == b.entry.stamp && decide (a.entry.id < b.entry.id))

/-- Insert a record in ESEQ order, after those of the same stamp and ID (R387). -/
def insertRaised (x : Raised) : List Raised → List Raised
  | [] => [x]
  | y :: r => if precedes x y then x :: y :: r else y :: insertRaised x r

/-- Issue one raised record; an early one is kept for the RETRACTs that may name it (R394, R395). -/
def issueRaised (s : State) (x : Raised) : State :=
  issueRecord (if x.early then
    { s with ev := { s.ev with early := s.ev.early ++ [⟨s.ev.next, x.entry.id, x.entry.tenant, x.range, sentTo s x.entry⟩] } } else s) x.entry

/-- The records raised in the step take their ESEQs, in order (R387). -/
def issueBatch (s : State) : State :=
  (s.ev.batch.foldl (fun l x => insertRaised x l) []).foldl issueRaised { s with ev := { s.ev with batch := [] } }

/-- The record of a request, before its ESEQ (Table EVT.6, R386). -/
def recordOf (s : State) (e : EvReq) (sev domain depth rflags : Nat) : EventRec :=
  { eseq := 0, id := e.id, stamp := nowStamp s, stat := statByte s, ticks := nowTick s, sev := sev,
    domain := if sev = 0 then 0xFF else min domain 16, tenant := e.tenant,
    rflags := (if sev = 0 then 0 else 1) + flag e.early 1 + flag e.nested 2 + rflags,
    src := e.src, depth := depth, data := pad 32 e.data }

/-- The suppression span brought up to the current tick (R392). -/
def spanNow (s : State) : State :=
  if s.ev.span = nowTick s / 32768 then s else { s with ev := { s.ev with span := nowTick s / 32768, counts := [] } }

/-- Record an event without handling it: suppression (R392), and the stamp of R617; its ESEQ follows at the end of the step. -/
def record (s0 : State) (e : EvReq) (sev domain depth rflags : Nat) : State :=
  let s := spanNow s0
  let n := tget 0 s.ev.counts e.id
  if !exemptEvent e.id sev && decide (64 ≤ n) then
    { s with ev := { s.ev with suppressed := tput s.ev.suppressed e.id (tget 0 s.ev.suppressed e.id + 1) } }
  else
    let s1 := { s with ev := { s.ev with counts := tput s.ev.counts e.id (n + 1) } }
    let r := recordOf s1 e sev domain depth rflags
    if s1.clk.cycle.isNone then { s1 with ev := { s1.ev with prestamp := s1.ev.prestamp ++ [r] } }
    else { s1 with ev := { s1.ev with batch := s1.ev.batch ++ [⟨r, e.range, e.early⟩] } }

/-- Raise an INFO event. -/
def inform (s : State) (e : EvReq) : State := record s e 0 0xFF 0 0

/-- Change a tenant's host context state, with EV_HIF_TENANT_STATE and the notice vector (R464). -/
def setCtxState (s : State) (t : Nat) (c : CtxState) : State :=
  let old := (ctx s t).state
  if old = c then s
  else
    let s1 := setCtx s t { ctx s t with state := c }
    let s2 := inform s1 { id := 0x785, data := le 1 t ++ le 1 (ctxCode old) ++ le 1 (ctxCode c) }
    sendMsi s2 t 0

/-- Change a ring's state, with EV_RNG_STATE and the shadow (R477, R478). -/
def setRingState (s : State) (t i : Nat) (st : RingState) (cause : Nat) : State :=
  let old := (ring s t i).state
  let s1 := setRing s t i { ring s t i with state := st }
  let s2 := inform s1 { id := 0x7A0, tenant := 0, data := le 1 t ++ le 1 i ++ le 1 (ringStateCode old) ++ le 1 (ringStateCode st) ++ le 1 (Config.ringStateCause cause) }
  writeShadow s2 t i

/-! ### Teardowns and resets that a fault may start -/

/-- Start a teardown of a tenant's host context (R465, R466 steps 1 and 2): fetching stops, committed commands are
applied-unreported, the others are dropped. -/
def beginTeardown (s : State) (t kind cause : Nat) (undefine : Bool) : State :=
  let c := ctx s t
  if c.state = .attached ∨ c.state = .active ∨ (undefine ∧ c.state = .detached) then
    let mine := s.cmd.opens.filter (fun o => o.desc.tenant == t)
    let td : Teardown := ⟨kind, cause, nowTick s, (mine.filter (·.committed)).map (·.desc.cid),
      (mine.filter (fun o => !o.committed)).length, undefine⟩
    let s1 := { s with cmd := { s.cmd with opens := s.cmd.opens.filter (fun o => o.desc.tenant != t) } }
    let s2 := setCtx s1 t { ctx s1 t with teardown := some td }
    setCtxState s2 t .resetting
  else if c.state = .resetting then
    setCtx s t { c with teardown := c.teardown.map (fun d =>
      if d.kind < kind then { d with kind := kind, cause := cause, undefine := d.undefine || undefine }
      else { d with undefine := d.undefine || undefine }) }
  else s

/-- A host context exists: rings or commands of the tenant may be torn down. -/
def ctxStands (s : State) (t : Nat) : Bool :=
  (ctx s t).state == .attached || (ctx s t).state == .active || (ctx s t).state == .resetting

/-- HOST_CONTEXT_RESET for the open chains of tenants without a host context, when every chain is named (Table HIF.4); the others
get theirs when their teardown completes. -/
def noteChains (s : State) (kind : Nat) : State :=
  { s with cus := { s.cus with chains := tmap (fun _ c =>
      if c.closed || ctxStands s c.tenant then c
      else { c with due := c.due ++ [(0x0E, 0, 0, le 2 0 ++ le 1 kind ++ zeros 1 ++ le 4 0)] }) s.cus.chains } }

/-- Tear down every host context (KIND 1 and 2 of Table HIF.4). -/
def beginTeardownAll (s : State) (kind cause : Nat) : State :=
  (span 0 256).foldl (fun a t => beginTeardown a t kind cause false) (noteChains s kind)

/-- Ticks within which link training starts: 20 ms (R457). -/
def trainTicks : Nat := 656

/-- An HIF-scope reset (R472): every host context is torn down, and the link, the functions and the HIF registers take their reset
values. -/
def hifReset (s : State) : State :=
  let s1 := beginTeardownAll s 2 7
  let s2 := { s1 with
    hif := { s1.hif with linkUp := false, rate := 0, width := 0, vfEnable := false, numVfs := 0, ari := false, funcs := [], badCount := 0,
                         badLast := 0, trainBy := if s1.hif.perst then some (nowTick s + trainTicks) else none }
    reg := { s1.reg with caps := [] } }
  if s.hif.linkUp then inform s2 { id := 0x780, data := le 1 0 ++ le 1 0 ++ le 1 0 } else s2

/-- What the reset controller keeps in the backup domain of a reset (R567, R570). -/
def noteReset (s : State) (scope cause domain : Nat) : State :=
  { s with pwr := { s.pwr with last := { s.pwr.last with
      scope := scope, cause := cause, tick := nowTick s, domain := domain,
      counts := tput s.pwr.last.counts cause (satInc 16 (tget 0 s.pwr.last.counts cause)) } } }

/-- Start a SERVICE reset (R581), counted by its cause (R570): the service cores go down; commands wait in their rings (R491). -/
def beginServiceReset (s : State) (cause domain : Nat) : State :=
  if s.pwr.serviceDown then s
  else { s with pwr := { s.pwr with
    serviceDown := true, serviceCause := cause, serviceDomain := domain
    last := { s.pwr.last with counts := tput s.pwr.last.counts cause (satInc 16 (tget 0 s.pwr.last.counts cause)) } } }

/-- The page program under way completes before a CHIP reset (R383): an item whose last unit it is stands in the log. -/
def finishUnit (s : State) : State :=
  match s.cis.tail, s.cis.segs.getLast? with
  | it :: rest, some g =>
    if s.cis.prog + 1 = it.units ∧ g.2.2 + it.units ≤ 765 ∧ !s.cis.readOnly.contains 3 then
      { s with cis := { s.cis with
        tail := rest, prog := 0, log := s.cis.log ++ [it]
        segs := s.cis.segs.dropLast ++ [(g.1, g.2.1, g.2.2 + it.units)] } }
    else s
  | _, _ => s

/-- The legal partition through a CHIP reset (R45, R233, R236, R247, R248, Table SEAL.2), with the levels of its pins. -/
def keepSeal (x : Seal) : Seal :=
  { state := x.state, mark := x.mark, halt := x.halt, unwatched := x.unwatched, lockStrapped := x.lockStrapped, brkOpen := x.brkOpen,
    perm := x.perm, roll := x.roll, seq := x.seq, link := x.link, copy1 := x.copy1, copy2 := x.copy2, records := x.records,
    cycleAnchor := x.cycleAnchor, fwDigest := x.fwDigest }

/-- What a CHIP reset leaves: the backup domain, the flash die, the pins and the traces; every other block takes its
reset value (R564, Table PWR.3). -/
def clearVolatile (s : State) : State :=
  { pending := s.pending, free := s.free, bkd := { s.bkd with freeze := none }, pwr := s.pwr, lgl := keepSeal s.lgl,
    cis := { s.cis with tail := [], waiting := [], tailFull := false, tailSaid := false, erases := [], incs := [], prog := 0 },
    ev := { tampersFlash := s.ev.tampersFlash, tampers := s.ev.tampersFlash, tamperUnsure := s.ev.tamperUnsure },
    met := { siteId := s.met.siteId },
    tar := { saved := s.tar.saved },
    crd := { accounts := s.crd.accounts },
    key := { slots := s.key.slots, writes := s.key.writes.filter (·.started) },
    cmp := { leases := s.cmp.leases, lastShort := s.cmp.lastShort, floors := s.cmp.floors },
    ann := { mute := s.ann.mute, vspkGood := s.ann.vspkGood, linkGood := s.ann.linkGood, band := s.ann.band },
    ply := { lastCount := s.ply.lastCount, autonSeqs := s.ply.autonSeqs, eventSeqs := s.ply.eventSeqs,
             configGens := s.ply.configGens },
    hif := { perst := s.hif.perst, out := s.hif.out },
    cmd := { imageA := s.cmd.imageA, imageB := s.cmd.imageB, running := s.cmd.running },
    slu := { force := s.slu.force, clipLen := s.slu.clipLen, images := s.slu.images },
    ril := { pinEn := s.ril.pinEn, pinId := s.ril.pinId, linkU := s.ril.linkU, linkD := s.ril.linkD, out := s.ril.out },
    reg := { gpioIn := s.reg.gpioIn } }

/-- Assert a CHIP reset (R564, R565): the first cause to occur stands, and the outputs take their reset behaviour.  A BOR (cause 3)
waits for nothing (R563). -/
def enterChipReset (s : State) (scope cause domain : Nat) : State :=
  if s.pwr.inReset then s
  else
    let s1 := clearVolatile (noteReset (if cause = 3 then issueBatch s else finishUnit (issueBatch s)) scope cause domain)
    { s1 with pwr := { s1.pwr with inReset := true, started := false, serviceDown := false, resumed := false, committing := false } }

/-- Start the escalation of a domain (Table EVT.3, R398). -/
def beginEscalation (s : State) (k : Nat) : State :=
  if 16 ≤ k then beginTeardown s (k - 16) 0 4 false
  else if [0, 1, 3, 4, 5, 6, 15].contains k then enterChipReset s 1 0x0C k
  else if [8, 12, 13, 14].contains k then beginServiceReset s 0x0C k
  else if k = 9 then hifReset s
  else s

/-- Send a domain to ESCALATING: FAULT_OVERRUN, EV_FAULT_OVERRUN, then the escalation (R400). -/
def escalate (s : State) (k cause id : Nat) : State :=
  let d := dom s k
  let s0 := setDom s k (applyPlace d (.escalate cause) id 0 (nowTick s) false)
  let s1 := { s0 with reg := { s0.reg with overrun := setBit s0.reg.overrun (min k 16) } }
  let s2 := record s1 { id := 65, data := le 1 (min k 16) ++ le 1 d.stack.length ++ le 1 d.queue.length ++ le 1 cause ++ le 2 id } 0 0xFF 0 8
  beginEscalation s2 k

/-- Raise an event: recorded, counted and archived first, then placed in its domain (R385, R399, R400). -/
def raise (s : State) (e : EvReq) : State :=
  let sev := severity e.id e.star
  if sev = 0 then inform s e
  else
    let k := match e.dom with
      | some t => 16 + t
      | none => defaultDomain e.id
    let p := placeFault (dom s k) sev e.nested
    let e1 := match e.dom with
      | some t => { e with tenant := t }
      | none => e
    let s1 := record s e1 sev k (placeDepth (dom s k) p) 0
    let s2 := setDom s1 k (countFault (dom s1 k) sev)
    let s3 := { s2 with ev := { s2.ev with perId := tput s2.ev.perId e.id (satInc 32 (tget 0 s2.ev.perId e.id)) } }
    match p with
    | .escalate c => escalate s3 k c e.id
    | _ => setDom s3 k (applyPlace (dom s3 k) p e.id sev (nowTick s) e.nested)

/-- EV_CIS_TAIL_FULL at the first item of an episode that waits for the tail (R378). -/
def noteTail (s : State) : State :=
  if s.cis.tailFull && !s.cis.tailSaid then raise { s with cis := { s.cis with tailSaid := true } } { id := 0x68A } else s

/-- The end of a step: its records take their ESEQs, and a full tail is reported (R378, R387).  A step that ended in CHIP reset
leaves the reset state, whatever it did after the reset was asserted (R564). -/
def settle (s : State) : State := if s.pwr.inReset then clearVolatile s else issueBatch (noteTail (issueBatch s))

/-! ### The custody tail and the streams -/

/-- Units an item of a kind fills (Table CIS.4). -/
def itemUnits (kind : Nat) : Nat := if kind = 2 then 2 else if kind = 3 ∨ kind = 4 then 6 else 1

/-- Bytes a stream record takes in a page or in staging (R495). -/
def recSize (r : StreamRec) : Nat := 16 + (r.body.length + 15) / 16 * 16

/-- The bytes of a stream record (Table RNG.11). -/
def recBytes (r : StreamRec) : Bytes :=
  le 1 r.rkind ++ le 1 r.sfl ++ le 2 r.body.length ++ le 6 r.aseq ++ le 1 r.tenant ++ zeros 1 ++ le 4 r.session ++
    pad ((r.body.length + 15) / 16 * 16) r.body

/-- Bytes staged for a ring. -/
def ringStaged (r : Ring) : Nat := nsum (r.staged.map recSize)

/-- Bytes staged for a tenant (R498). -/
def tenantStaged (s : State) (t : Nat) : Nat :=
  nsum ((s.rng.rings.filter (fun p => p.1 / 64 == t)).map (fun p => ringStaged p.2))

/-- Bytes staged for the tenants other than 0. -/
def sharedStaged (s : State) : Nat :=
  nsum ((s.rng.rings.filter (fun p => p.1 / 64 != 0)).map (fun p => ringStaged p.2))

/-- Whether a record of a size may be staged for a tenant: its QUOTA, and 1 MiB of the 8 MiB kept for tenant 0 (R498). -/
def mayStage (s : State) (t size : Nat) : Bool :=
  decide (tenantStaged s t + size ≤ quota s t) &&
  (if t = 0 then decide (tenantStaged s 0 + size ≤ 1048576 + (7340032 - sharedStaged s))
   else decide (sharedStaged s + size + (tenantStaged s 0 - 1048576) ≤ 7340032))

/-- Page entry of a completed page (Table RNG.8). -/
def pageEntry (p : OpenPage) (pfl : Nat) : Bytes :=
  let as := (p.recs.map (·.aseq)).filter (· != 0)
  let lo := as.foldl min (as.headD 0)
  let hi := as.foldl max 0
  le 8 p.addr ++ le 4 p.tag ++ le 2 p.fill ++ le 2 p.recs.length ++ le 6 lo ++ le 6 hi ++
    le 1 (pfl + flag p.gap 2) ++ le 1 p.bufr ++ zeros 2

/-- Complete the open page of a page ring when an entry is free; otherwise the page waits for one (R497). -/
def closePage (s : State) (t i pfl : Nat) : State :=
  match (ring s t i).page with
  | none => s
  | some p =>
    if 0 < ringFree (ring s t i) then
      let s1 := dma s t p.addr (p.recs.map recBytes).flatten
      let s2 := setRing s1 t i { ring s1 t i with page := none }
      produce s2 t i (pageEntry p pfl)
    else setRing s t i { ring s t i with page := some { p with closing := some pfl } }

/-- A ring enters ERROR (R478); ring 0 or 1 escalates the tenant's domain at once. -/
def ringError (s : State) (t i cause : Nat) : State :=
  let s1 := setRingState s t i .error cause
  if i ≤ 1 then (if (dom s1 (16 + t)).state = .escalating then s1 else escalate s1 (16 + t) 1 0x7A0) else s1

/-- Advance the head of a host-producer ring by one entry, with its low-mark interrupt (R477, R492). -/
def consumeEntry (s : State) (t i : Nat) : State :=
  let r := ring s t i
  let before := ringUsed r
  let r1 := { r with head := (r.head + 1) % ringSize r, total := (r.total + 1) % 2 ^ 32, posts := r.posts.tail }
  let s1 := setRing s t i r1
  match r.typ with
  | .adm => writeShadow s1 t i
  | .sub => writeShadow s1 t i
  | _ => if r.modCnt ≤ before ∧ before - 1 < r.modCnt then signalRing s1 t i else s1

/-- Give a page ring the page at its BUF ring's head (R494), or report that there is none. -/
def openPage (s : State) (t i : Nat) : State :=
  let r := ring s t i
  let b := ring s t r.pair
  if b.state != .active then s
  else if ringUsed b = 0 then
    if r.bufEmpty then s
    else raise (setRing s t i { r with bufEmpty := true }) { id := 0x7A7, data := le 1 t ++ le 1 i ++ le 1 r.pair }
  else
    match b.posts with
    | [] => s
    | p :: _ =>
      if p.addr % 4096 ≠ 0 ∨ p.len ≠ 0 then ringError s t r.pair 2
      else
        let s1 := consumeEntry s t r.pair
        setRing s1 t i { ring s1 t i with page := some ⟨p.addr, p.tag, r.pair, [], 0, false, nowTick s, none⟩, bufEmpty := false }

/-- Place one record in the open page, or complete the page when it does not fit (R495). -/
def placeRec (s : State) (t i : Nat) (p : OpenPage) (rec : StreamRec) (rest : List StreamRec) : State :=
  if p.fill + recSize rec ≤ 4096 then
    setRing s t i { ring s t i with staged := rest, page := some { p with
      recs := p.recs ++ [rec], fill := p.fill + recSize rec,
      gap := p.gap || rec.rkind == 0x40, since := if p.recs.isEmpty then nowTick s else p.since } }
  else closePage s t i 0

/-- Move staged records into pages while there are pages (R494, R495); each round places a record, completes a page or
takes one. -/
def drainRing : Nat → State → Nat → Nat → State
  | 0, s, _, _ => s
  | n + 1, s, t, i =>
    match (ring s t i).staged with
    | [] => s
    | rec :: rest =>
      match (ring s t i).page with
      | none =>
        let s1 := openPage s t i
        if (ring s1 t i).page.isSome then drainRing n s1 t i else s1
      | some p => if p.closing.isSome && decide (4096 < p.fill + recSize rec) then s else drainRing n (placeRec s t i p rec rest) t i

/-- Rounds that empty a ring's staging queue: a record, a page to complete and a page to take for each. -/
def drain (s : State) (t i : Nat) : State := drainRing (3 * (ring s t i).staged.length + 3) s t i

/-- Count a dropped record in a gap note (R499, Table RNG.12). -/
def gapAdd (g : Option GapNote) (aseq now : Nat) : GapNote :=
  match g with
  | none => if aseq = 0 then ⟨0, 0, 0, 1, now⟩ else ⟨aseq, aseq, 1, 0, now⟩
  | some n =>
    if aseq = 0 then { n with unarch := n.unarch + 1 }
    else { n with first := if n.first = 0 then aseq else min n.first aseq, last := max n.last aseq, dropped := n.dropped + 1 }

/-- Bring a record to a page ring: staged and placed, or dropped with the ring DROPPING (R498, R499). -/
def stageRec (s : State) (t i : Nat) (rec : StreamRec) : State :=
  let r := ring s t i
  if r.dropping.isSome then setRing s t i { r with dropping := some (gapAdd r.dropping rec.aseq (nowTick s)), drops := satInc 32 r.drops }
  else if mayStage s t (recSize rec) then drain (setRing s t i { r with staged := r.staged ++ [rec] }) t i
  else
    let s1 := setRing s t i { r with dropping := some (gapAdd none rec.aseq (nowTick s)), drops := satInc 32 r.drops }
    raise s1 { id := 0x7A5, data := le 1 t ++ le 1 i ++ le 4 (tenantStaged s t) ++ le 4 (tenantStaged s 0 + sharedStaged s) }

/-- The STR rings that take a record of a kind about a tenant (R496). -/
def streamTargets (s : State) (rkind tenant : Nat) (only0 : Bool) : List Nat :=
  (s.rng.rings.filter (fun p => p.2.typ == .str && p.2.state == .active && bit p.2.kinds rkind &&
    (p.1 / 64 == 0 || (!only0 && p.1 / 64 == tenant)))).map (·.1)

/-- Stream a record to every ring that takes it (R496). -/
def streamOut (s : State) (rec : StreamRec) (only0 : Bool) : State :=
  (streamTargets s rec.rkind rec.tenant only0).foldl (fun a k => stageRec a (k / 64) (k % 64) rec) s

/-- Stream a record that is not archived, to tenant 0 (kinds 0x20 to 0x25 of Table RNG.10). -/
def streamOnly (s : State) (rkind : Nat) (body : Bytes) : State :=
  streamOut s ⟨rkind, 0, 0, 0, 0xFFFFFFFF, body⟩ true

/-- Put an archived item into the tail, or in its producer's queue while the tail is full (R377, R378, R496). -/
def archive (s : State) (kind tenant session : Nat) (body : Bytes) : State :=
  let it : Item := ⟨kind, tenant, session, 0, itemUnits kind, body, false⟩
  if tailRoom s it.units then
    let s1 := tailPush s it
    streamOut s1 ⟨kind, 0, s.cis.nextAseq, tenant, session, body⟩ false
  else
    { s with cis := { s.cis with waiting := s.cis.waiting ++ [⟨it, none⟩], tailFull := true } }

/-- Let the first waiting item enter the tail when there is room (R378). -/
def admitWaiting (s : State) : State :=
  match s.cis.waiting with
  | [] => s
  | w :: rest =>
    if tailUnits s + w.item.units ≤ 16384 then
      let s1 := tailPush { s with cis := { s.cis with waiting := rest, tailFull := !rest.isEmpty, tailSaid := s.cis.tailSaid && !rest.isEmpty } } w.item
      match w.ev with
      | some r => deliver s1 r
      | none => streamOut s1 ⟨w.item.kind, 0, s.cis.nextAseq, w.item.tenant, w.item.session, w.item.body⟩ false
    else s

/-! ### Cues (R49–R53, R618) -/

/-- Cue kinds (Table CYC.3). -/
def cueCommit : Nat := 1
def cueCascade : Nat := 2
def cueSync : Nat := 3
def cueTariff : Nat := 4
def cueReport : Nat := 5
def cueRelay : Nat := 6
def cueCapture : Nat := 7
def cueAnn : Nat := 8

/-- Minimum lead of a kind, in stamp units (Table CYC.3). -/
def cueLead (s : State) (kind : Nat) : Nat :=
  if kind = 1 ∨ kind = 2 then 8 * angleBits
  else if kind = 3 then 4 * angleBits
  else if kind = 6 then angleBits + (armLead s * s.clk.freq + 10239) / 10240
  else angleBits

/-- Kinds whose angle must be 0 (Table CYC.3). -/
def cueAngle0 (kind : Nat) : Bool := [1, 2, 4, 5].contains kind

/-- A pending cue (R618). -/
def cuePending (c : Cue) : Bool := c.state == .pending || c.state == .armed

/-- A cue by ID. -/
def cue (s : State) (i : Nat) : Cue := tget {} s.clk.cues i

/-- Replace a cue. -/
def setCue (s : State) (i : Nat) (c : Cue) : State := { s with clk := { s.clk with cues := tput s.clk.cues i c } }

/-- The pending cues of a tenant. -/
def tenantCues (s : State) (t : Nat) : Nat := (s.clk.cues.filter (fun p => cuePending p.2 && p.2.owner == t)).length

/-- The lowest free ID of a range. -/
def freeCue (s : State) (a n : Nat) : Option Nat := (span a n).find? (fun i => (cue s i).state == .free)

/-- The ID a new cue of a tenant takes (R50). -/
def pickCue (s : State) (owner : Nat) : Option Nat :=
  if owner = 0 then (match freeCue s 0 64 with
    | some i => some i
    | none => freeCue s 64 960)
  else freeCue s 64 960

/-- Check a stamp for a cue kind (R49): the status of the refusal, if any. -/
def cueCheck (s : State) (kind : Nat) (stamp : Stamp) : Option Nat :=
  if stamp < nowStamp s + cueLead s kind then some stCuePast
  else if nowStamp s + 2147483648 * angleBits < stamp then some stCueRange
  else if cueAngle0 kind && decide (stamp.angle ≠ 0) then some stCueAngle
  else none

/-- The status a full table or a tenant at its limit gives (R50). -/
def cueRoom (s : State) (owner : Nat) : Option Nat :=
  if owner ≠ 0 ∧ 16 ≤ tenantCues s owner then some stCueLimit
  else if (pickCue s owner).isNone then some stCueFull
  else none

/-- Create a cue that the hub itself or a command has checked: the new state and its ID. -/
def createCue (s : State) (kind : Nat) (stamp : Stamp) (owner arg : Nat) : State × Nat :=
  match pickCue s owner with
  | some i => (setCue s i ⟨stamp, kind, owner, .pending, arg⟩, i)
  | none => (s, 0xFFFF)

/-- Create a cue for a block, when the table has room. -/
def ownCue (s : State) (kind : Nat) (stamp : Stamp) (owner arg : Nat) : State :=
  if (cueRoom s owner).isSome then s else (createCue s kind stamp owner arg).1

/-- The sample instant at which a cue takes effect: the first sample at or after its stamp (R51). -/
def cueInstant (stamp : Stamp) : Stamp :=
  if stamp.angle ≤ 65024 then mkStamp stamp.cycle ((stamp.angle + 511) / 512 * 512) else mkStamp (stamp.cycle + 1) 0

/-- Action frame and offset of an instant given in 1/65,536 frame: whole modulator clocks, 0 to 399 (R48, R114; R615). -/
def framePlace (pos : Nat) : Nat × Nat :=
  let off := (2 * (pos % 65536) * 400 + 65536) / 131072
  if 400 ≤ off then (pos / 65536 + 1, 0) else (pos / 65536, off)

/-- A cue is due: it is pending and its stamp has come (R51); while the service cores are down it waits, but for
an armed DECIM_SYNC, RELAY_SWITCH or CAPTURE (R53). -/
def cueDue (s : State) (i kind : Nat) : Bool :=
  cuePending (cue s i) && (!s.pwr.serviceDown || ((cue s i).state == .armed && [3, 6, 7].contains kind)) && (cue s i).kind == kind && decide ((cue s i).stamp ≤ nowStamp s) && s.clk.cycle.isSome

/-- Execute a due cue's entry: DONE, or LATE with EV_CUE_LATE when its sample had passed before the cycle now running
began or the hub was down when it fell due (R52). -/
def finishCue (s : State) (i : Nat) (late : Bool) : State :=
  let s1 := setCue s i { cue s i with state := if late then .late else .done }
  if late then raise s1 { id := 0x087, src := i } else s1

/-! ### Tamper records (R402, R403) -/

/-- The tamper device scope's MP number in this table. -/
def tamperDevice : Nat := 256

/-- Key of a tamper record: MP 0 to 255 or the device, and a type. -/
def tamperKey (m typ : Nat) : Nat := 32 * m + typ

/-- Count `k` occurrences of a tamper type, with EV_SEAL_TAMPER and the write of R403. -/
def tamperAt (s : State) (m typ k : Nat) (stamp : Stamp) (ticks : Nat) (estimated : Bool) : State :=
  let key := tamperKey m typ
  let r := tget {} s.ev.tampers key
  let f0 := if 2 ^ 32 - 1 < r.count + k then setBit r.flags 0 else r.flags
  let f1 := if estimated then setBit f0 1 else f0
  let f2 := if r.count = 0 then f1 % 8 + 8 * tt s + f1 / 32 * 32 else f1
  let f3 := f2 % 32 + 32 * tt s
  let f4 := if s.ev.tamperUnsure.contains key then setBit f3 2 else f3
  let r1 : Tamper := { r with
    count := satAdd 32 r.count k, flags := f4,
    firstStamp := if r.count = 0 then stamp else r.firstStamp, firstClk := if r.count = 0 then clk s else r.firstClk,
    firstTicks := if r.count = 0 then ticks else r.firstTicks,
    lastStamp := if r.count = 0 then stamp else max r.lastStamp stamp, lastClk := clk s,
    lastTicks := if r.count = 0 then ticks else max r.lastTicks ticks }
  let fresh := match tfind s.ev.tamperWrite key with
    | none => true
    | some w => decide (w + 32768 ≤ nowTick s)
  let s1 := if fresh then
      { s with ev := { s.ev with tampers := tput s.ev.tampers key r1, tampersFlash := tput s.ev.tampersFlash key r1,
                                 tamperWrite := tput s.ev.tamperWrite key (nowTick s),
                                 tamperUnsure := s.ev.tamperUnsure.filter (· != key) } }
    else { s with ev := { s.ev with tampers := tput s.ev.tampers key r1,
                                    tamperDirty := if s.ev.tamperDirty.contains key then s.ev.tamperDirty else s.ev.tamperDirty ++ [key] } }
  raise s1 { id := 0x404, src := if m = tamperDevice then 0xFFFF else m,
             data := le 1 (if m = tamperDevice then 1 else 0) ++ le 1 typ ++ le 2 (if m = tamperDevice then 0xFFFF else m) ++ le 4 r1.count ++ le 1 r1.flags }

/-- Count one occurrence now. -/
def tamper (s : State) (m typ : Nat) : State := tamperAt s m typ 1 (nowStamp s) (nowTick s) false

/-! ### Taking and completing host commands (R487–R491, R506, R507) -/

/-- The CPL ring that serves a submission ring. -/
def cplOf (s : State) (d : Desc) : Nat := if d.ring = 0 then 1 else (ring s d.tenant d.ring).pair

/-- The hub runs: it is not in CHIP reset. -/
def running (s : State) : Bool := !s.pwr.inReset

/-- A descriptor can be taken now (R487, R488, R491). -/
def ready (s : State) (d : Desc) : Bool :=
  let q := ring s d.tenant d.ring
  let c := ring s d.tenant (cplOf s d)
  running s && !s.pwr.serviceDown && !s.pwr.committing && (ctx s d.tenant).state == .active &&
  q.state == .active && (q.typ == .adm || q.typ == .sub) && decide (0 < ringUsed q) &&
  c.state == .active && c.typ == .cpl && decide (c.reserved < ringFree c) &&
  decide ((s.cmd.opens.filter (fun o => o.desc.tenant == d.tenant)).length < cmdMax s d.tenant) &&
  (s.cmd.opens.all fun o => o.desc.tenant != d.tenant || o.desc.ring != d.ring || (!d.fence && !o.desc.fence))

/-- Take a descriptor: the head moves, and a slot of the CPL ring is reserved (R487). -/
def take (s : State) (d : Desc) : State :=
  let s1 := consumeEntry s d.tenant d.ring
  let c := cplOf s1 d
  setRing s1 d.tenant c { ring s1 d.tenant c with reserved := (ring s1 d.tenant c).reserved + 1 }

/-- The completion entry (Table RNG.6). -/
def cplBytes (cid status sqhd sqid : Nat) (phase : Bool) (xlen : Nat) (result : Bytes) : Bytes :=
  le 2 cid ++ le 2 status ++ le 2 sqhd ++ le 1 sqid ++ le 1 (flag phase 0) ++ le 4 xlen ++ zeros 4 ++ pad 16 result

/-- Write a completion into the CPL ring and give back its reservation (R490). -/
def completeOne (s : State) (d : Desc) (sqhd status xlen : Nat) (result : Bytes) : State :=
  let c := cplOf s d
  let r := ring s d.tenant c
  if (ctx s d.tenant).state = .active ∧ r.state = .active then
    let s1 := setRing s d.tenant c { r with reserved := r.reserved - 1 }
    produce s1 d.tenant c (cplBytes d.cid status sqhd d.ring r.phase xlen result)
  else s

/-- A SUB ring in DELETING becomes ABSENT, and its RING_DELETE completes, once no command of it is in processing (R483). -/
def settleDelete (s : State) (d : Desc) : State :=
  if (ring s d.tenant d.ring).state = .deleting ∧ !(s.cmd.opens.any fun o => o.desc.tenant == d.tenant && o.desc.ring == d.ring) then
    match s.cmd.opens.find? (fun o => o.opc == 0x0003 && o.desc.tenant == d.tenant && o.token == d.ring) with
    | some o => completeOne (setRingState { s with cmd := { s.cmd with opens := s.cmd.opens.filter (fun x => x != o) } }
        d.tenant d.ring .absent 4) o.desc o.sqhd stOk 0 []
    | none => s
  else s

/-- Complete a command: its entry is written, and a deletion that waited for it goes on (R483, R490). -/
def complete (s : State) (d : Desc) (sqhd status xlen : Nat) (result : Bytes) : State :=
  settleDelete (completeOne s d sqhd status xlen result) d

/-- Complete a command just taken. -/
def reply (s : State) (d : Desc) (status : Nat) (result : Bytes) : State :=
  complete s d (ring s d.tenant d.ring).head status 0 result

/-- Complete with output bytes: written at DPTR when DLEN holds them, else ST_DATA_SHORT with the length needed (R507). -/
def replyOut (s : State) (d : Desc) (out result : Bytes) : State :=
  if d.dlen < out.length then complete s d (ring s d.tenant d.ring).head stDataShort out.length []
  else complete (dma s d.tenant d.dptr out) d (ring s d.tenant d.ring).head stOk out.length result

/-- Leave a taken command in processing until another command completes it. -/
def defer (s : State) (d : Desc) (opc token : Nat) (arg : List Nat) (committed : Bool) (result output : Bytes) : State :=
  { s with cmd := { s.cmd with opens := s.cmd.opens ++ [⟨d, opc, (ring s d.tenant d.ring).head, committed, result, output, token, arg⟩] } }

/-- The commands in processing that wait for a token of an opcode. -/
def waitingCmds (s : State) (opc token : Nat) : List OpenCmd :=
  s.cmd.opens.filter (fun o => o.opc == opc && o.token == token)

/-- Complete every command that waits for a token of an opcode. -/
def completeWaiting (s : State) (opc token status : Nat) (result : Bytes) : State :=
  (waitingCmds s opc token).foldl
    (fun a o => complete { a with cmd := { a.cmd with opens := a.cmd.opens.filter (fun x => x != o) } } o.desc o.sqhd status 0 result) s

/-- The first failing check's status (R506). -/
def firstFail : List (Bool × Nat) → Option Nat
  | [] => none
  | (ok, st) :: r => if ok then firstFail r else some st

/-- A descriptor fault: EV_RNG_DESC_BAD in the tenant's domain, and the error completion (R489). -/
def descBad (s : State) (d : Desc) (opc status : Nat) : State :=
  reply (raise s {
    id := 0x7A3, dom := some d.tenant, tenant := d.tenant,
    data := le 1 d.tenant ++ le 1 d.ring ++ le 2 d.cid ++ le 2 opc ++ le 2 status }) d status []

/-- DPTR and DLEN are well formed for an opcode (R489, R507): `data` says whether it has a data buffer. -/
def descOk (d : Desc) (data : Bool) : Bool :=
  decide (d.dptr % 4 = 0 ∧ d.dlen ≤ 1048576) && (data || d.dlen == 0)

/-- Run a host command: take it, check the descriptor, then act (R487, R489, R506). -/
def hostCmd (s : State) (d : Desc) (opc : Nat) (data : Bool) (act : State → State) : State :=
  if ready s d then
    let s1 := take s d
    settle (if (opc / 256 == 0) != (d.ring == 0) then descBad s1 d opc stWrongRing
      else if !descOk d data then descBad s1 d opc stDescFormat
      else act s1)
  else s

/-- Act when every check passes, else complete with the first failing status (R506). -/
def checked (s : State) (d : Desc) (checks : List (Bool × Nat)) (act : State → State) : State :=
  match firstFail checks with
  | some st => reply s d st []
  | none => act s

/-- Issuer codes: tenant 0 only, or a tenant in its own scope. -/
def by0 (d : Desc) : Bool × Nat := (d.tenant == 0, stNotPermitted)

/-- Tenant 0, or the tenant that owns what is named. -/
def ownOr0 (d : Desc) (owner : Nat) : Bool × Nat := (d.tenant == 0 || d.tenant == owner, stNotPermitted)

/-- Another signing command of the tenant may be taken (R469): SIGN_MAX operations may be open at once. -/
def signRoom (s : State) (t : Nat) : Bool :=
  decide ((s.cmd.opens.filter fun o => o.desc.tenant == t && [0x0401, 0x0A02, 0x0904].contains o.opc).length < signMax s t)

/-! ### Clock states (R39) -/

/-- Event of the entry into a clock state (Table CYC.2). -/
def clockEvent : ClkState → Nat
  | .coastLast => 0x080
  | .coastNom => 0x080
  | .acquire => 0x081
  | .relock => 0x082
  | .locked => 0x083
  | .slave => 0x084

/-- Enter a clock state, with its event (Table CYC.2). -/
def enterClock (s : State) (st : ClkState) : State :=
  if s.clk.state = st then s
  else
    raise { s with clk := { s.clk with state := st, everLocked := s.clk.everLocked || st == .locked, lockRun := 0 } } { id := clockEvent st }

/-- A reference of the list is valid (R34). -/
def refValid (s : State) : Bool := (refList s).any fun c => decide (0 < nth 0 s.clk.refRun c)

/-- The clock of a detached member leaves SLAVE (Table CYC.2). -/
def leaveSlave (s : State) : State :=
  if s.clk.state = .slave then
    enterClock { s with clk := { s.clk with lockedFreq := s.clk.freq } } (if refValid s then .relock else .coastLast)
  else s

/-- An event that a command or a block raises while the hub runs. -/
def whenRunning (s : State) (f : State → State) : State := if running s then settle (f s) else s

end Sys2Proof.Machine
end

