-- ==== Sys2Proof/Machine/Calendar.lean ====
section
/-!
DEFINITION. Calendar time: local time under the calendar object (R70–R72), the rate a tariff calendar gives at an instant
(R257, R260), and the period ends its rule names (R262).
-/
namespace Sys2Proof.Machine

/-! ### Local time -/

/-- A field of the backup domain's copy of the calendar object (Table BKD.9). -/
def calField (s : State) (o n : Nat) : Nat := fld s.bkd.calendar o n

/-- UTC offset and DST shift in ticks. -/
def utcOffset (s : State) : Int := signed 8 (calField s 0 1) * (15 * minuteTicks : Nat)
def dstShift (s : State) : Nat := calField s 1 1 * 15 * minuteTicks

/-- Start and end points of DST. -/
def dstStart (s : State) : DstPoint := ⟨calField s 2 1, calField s 3 1, calField s 4 2⟩
def dstEnd (s : State) : DstPoint := ⟨calField s 6 1, calField s 7 1, calField s 8 2⟩

/-- Whether DST is in force at an instant of standard local time (R72). -/
def dstOn (s : State) (std : Int) : Bool := decide (0 < dstShift s) && dstInForce (dstStart s) (dstEnd s) std

/-- Local time of a UTC instant, and whether DST is in force (R72). -/
def localAt (s : State) (utc : Int) : Int × Bool :=
  let std := utc + utcOffset s
  let on := dstOn s std
  (std + (if on then dstShift s else 0 : Nat), on)

/-- Local time now. -/
def localTicks (s : State) : Int := (localAt s (utcTicks s)).1

/-- Clamp an instant to the calendar's range (R71). -/
def clampTime (t : Int) : Nat := min calendarEnd (max 0 t).toNat

/-- CAL_RANGE: UTC or local time is clamped (R71). -/
def calRange (s : State) : Bool :=
  let out := fun (t : Int) => decide (t < 0 ∨ (calendarEnd : Int) < t)
  out (utcTicks s) || out (localTicks s)

/-- Seconds, minutes and hours of the day of an instant. -/
def secondOf (t : Nat) : Nat := t / ticksPerSecond % 60
def minuteOf (t : Nat) : Nat := t / minuteTicks % 60
def hourOf (t : Nat) : Nat := t / (60 * minuteTicks) % 24

/-- The UTC instant that a local day and minute name under R260: the first pass of a repeated hour, and the first
instant after a skipped one. -/
def resolveLocal (s : State) (day minute : Nat) : Int :=
  let l : Int := (day * dayTicks + minute * minuteTicks : Nat)
  let first := l - (dstShift s : Int)
  if dstOn s first then first - utcOffset s
  else if !dstOn s l then l - utcOffset s
  else ((dstStart s).instant (yearOf (l.toNat / dayTicks)) : Int) - utcOffset s

/-- The local instant a tariff rule sees: in the second pass of a repeated hour, the last instant of the first pass, so
that a switch point there takes effect once (R260). -/
def tariffLocal (s : State) (utc : Int) : Nat :=
  let std := utc + utcOffset s
  if !dstOn s std && dstOn s (std - (dstShift s : Int)) then
    clampTime (((dstEnd s).instant (yearOf (clampTime std / dayTicks)) : Int) - 1 + (dstShift s : Int))
  else clampTime (localAt s utc).1

/-! ### Rates (R257) -/

/-- The special day of a date: a specific year first, then the lowest index (R257). -/
def specialDay (r : Rd) (y m d : Nat) : Option Nat :=
  let hit := fun (yy k : Nat) => r (2512 + 8 * k) 2 == yy && r (2512 + 8 * k + 2) 1 == m && r (2512 + 8 * k + 3) 1 == d
  let n := r 20 1
  match (span 0 n).find? (hit y) with
  | some k => some (r (2512 + 8 * k + 4) 1)
  | none => ((span 0 n).find? (hit 0)).map fun k => r (2512 + 8 * k + 4) 1

/-- Start of a season in year y, as month × 32 + day: 29 February starts on 1 March in other years (R257). -/
def seasonStart (r : Rd) (y i : Nat) : Nat :=
  let mo := r (288 + 4 * i) 1
  let da := r (288 + 4 * i + 1) 1
  if mo = 2 ∧ da = 29 ∧ !leap y then 3 * 32 + 1 else mo * 32 + da

/-- The season in force on a date: the latest start at or before it, the last of the list before the first (R257). -/
def seasonOf (r : Rd) (y m d : Nat) : Nat :=
  let n := r 17 1
  let best := (span 0 n).foldl (fun (b : Option Nat) i =>
    if m * 32 + d < seasonStart r y i then b
    else match b with
      | none => some i
      | some j => if seasonStart r y j ≤ seasonStart r y i then some i else some j) none
  best.getD (n - 1)

/-- The day profile of a date (R257). -/
def profileOf (r : Rd) (day : Nat) : Nat :=
  let y := yearOf day
  let m := monthOf day
  let d := dayOf day
  match specialDay r y m d with
  | some p => p
  | none => r (336 + 8 * r (288 + 4 * seasonOf r y m d + 2) 1 + (weekday day - 1)) 1

/-- The rate of a day profile at a local minute (R257). -/
def profileRate (r : Rd) (p minute : Nat) : Nat :=
  (span 0 16).foldl (fun a i =>
    let m := r (464 + 64 * p + 4 * i) 2
    if m ≠ 0xFFFF ∧ m ≤ minute then r (464 + 64 * p + 4 * i + 2) 1 else a) (r 21 1)

/-- The rate a calendar slot gives at a local instant (R257). -/
def rateAt (r : Rd) (t : Nat) : Nat := profileRate r (profileOf r (t / dayTicks)) (t / minuteTicks % 1440)

/-! ### Period ends by rule (R262) -/

/-- Whether the period-end rule names a day (Table TAR.1). -/
def billDay (r : Rd) (day : Nat) : Bool :=
  match r 22 1 with
  | 1 => true
  | 2 => weekday day == r 23 1
  | 3 => if r 23 1 = 0xFF then dayOf day == monthDays (yearOf day) (monthOf day) else dayOf day == r 23 1
  | _ => false

/-- The latest instant of the period-end rule at or before a UTC instant, looking back 40 days. -/
def lastEndBefore (s : State) (r : Rd) (utc : Int) : Option Nat :=
  let day := clampTime (localAt s utc).1 / dayTicks
  ((span 0 42).filterMap fun i =>
    if i ≤ day + 1 ∧ billDay r (day + 1 - i) ∧ resolveLocal s (day + 1 - i) (r 24 2) ≤ utc then
      some (resolveLocal s (day + 1 - i) (r 24 2)).toNat else none).head?

end Sys2Proof.Machine
end

