-- ==== Sys2Proof/Machine/Rill.lean ====
section
/-!
DEFINITION. Rill packets: their layout, tags, sending, checking and repeating, and a member's detachment (22_rill_cascade.md,
R540–R545, R552).
-/
namespace Sys2Proof.Machine

/-- Change the cascade block. -/
def setRil (s : State) (f : Ril → Ril) : State := { s with ril := f s.ril }

/-! ### Packets (R544, Table RIL.1) -/

/-- Fields of a packet. -/
def rilType (p : Bytes) : Nat := fld p 0 1
def rilSrc (p : Bytes) : Nat := fld p 1 1
def rilDst (p : Bytes) : Nat := fld p 2 1
def rilCtr (p : Bytes) : Nat := fld p 4 6
def rilLen (p : Bytes) : Nat := fld p 10 2
def rilHopd (p : Bytes) : Nat := fld p 12 4
def rilPayload (p : Bytes) : Bytes := slice p 16 (rilLen p)

/-- Types of Table RIL.2. -/
def rilTypes : List Nat := [1, 2, 3, 4, 5, 6, 7, 8, 9, 10, 0x10, 0x11, 0x12, 0x13, 0x14, 0x20, 0x21]

/-- Hop-local types carry no tag (Table RIL.1). -/
def rilHop (typ : Nat) : Bool := typ == 0x20 || typ == 0x21

/-- The tag: 8 bytes of AES-256-CMAC over bytes 0 to 11 and the payload (Table RIL.1, R545). -/
def rilTag (key : Nat) (p : Bytes) : Bytes := (be 32 (Config.cmac256 key (p.take 12 ++ rilPayload p))).take 8

/-- A packet's bytes. -/
def rilPacket (typ src dst up ctr hopd key : Nat) (payload : Bytes) : Bytes :=
  let head := le 1 typ ++ le 1 src ++ le 1 dst ++ le 1 up ++ le 6 ctr ++ le 2 payload.length ++ le 4 hopd ++ payload
  let all := head ++ (if rilHop typ then zeros 8 else rilTag key head)
  all ++ le 4 (crc32 all)

/-- The packet came whole: its CRC is good. -/
def rilWhole (p : Bytes) : Bool := decide (28 ≤ p.length) && fld p (p.length - 4) 4 == crc32 (p.take (p.length - 4))

/-- The packet keeps R544's form: a listed TYPE, a hop-local type addressed to 0xFE, LEN as long as the packet says. -/
def rilForm (p : Bytes) : Bool :=
  rilTypes.contains (rilType p) && (!rilHop (rilType p) || rilDst p == 0xFE) && decide (rilLen p ≤ 1024 ∧ p.length = 28 + rilLen p)

/-- Its tag is good under a key. -/
def rilTagOk (key : Nat) (p : Bytes) : Bool := slice p (16 + rilLen p) 8 == rilTag key p

/-- Put a packet on a port: 0 RILU, 1 RILD. -/
def rilPut (s : State) (port : Nat) (p : Bytes) : State := setRil s fun r => { r with out := r.out ++ [(port, p)] }

/-- EV_RIL_AUTH (R544, R545): cause 0 TAG, 1 CTR, 2 FORMAT. -/
def rilAuth (s : State) (port typ cause : Nat) : State :=
  raise s { id := 0x7D7, data := le 1 port ++ le 1 typ ++ le 1 cause }

/-! ### Sending -/

/-- The master's entry for a hub. -/
def rilEntry (s : State) (i : Nat) : RilEntry := tget {} s.ril.entries i

/-- Replace an entry. -/
def setEntry (s : State) (i : Nat) (e : RilEntry) : State := setRil s fun r => { r with entries := tput r.entries i e }

/-- Master to one member, under its KS. -/
def toMember (s : State) (i typ : Nat) (payload : Bytes) : State :=
  let e := rilEntry s i
  let s1 := setEntry s i { e with tx := e.tx + 1 }
  rilPut s1 1 (rilPacket typ 0 i 0 (e.tx + 1) 0 e.key payload)

/-- Master to all members, under KG. -/
def toAll (s : State) (typ : Nat) (payload : Bytes) : State :=
  let s1 := setRil s fun r => { r with txKg := r.txKg + 1 }
  rilPut s1 1 (rilPacket typ 0 0xFF 0 s1.ril.txKg 0 s1.ril.kg payload)

/-- Member to master, under KS. -/
def toMaster (s : State) (typ : Nat) (payload : Bytes) : State :=
  let s1 := setRil s fun r => { r with txKs := r.txKs + 1 }
  rilPut s1 0 (rilPacket typ s1.ril.cascId 0 1 s1.ril.txKs 0 s1.ril.ks payload)

/-- IDs of the members that the master counts as JOINED (R538). -/
def joinedMembers (s : State) : List Nat := (s.ril.entries.filter (fun p => p.2.state == 2)).map (·.1)

/-- SYNC to every member for a sync that the master accepted (R551). -/
def sendSync (s : State) (stamp : Stamp) : State := if s.ril.master then toAll s 0x02 (le 7 stamp) else s

/-- LEAVE to every JOINED member, which detaches (R545, R560): reason 0 re-key, 1 cascade restart. -/
def leaveAll (s : State) (reason : Nat) : State :=
  (joinedMembers s).foldl (fun a i =>
    let b := toMember a i 0x14 (le 1 reason)
    setEntry b i { rilEntry b i with state := 0 }) s

/-! ### Routing (R543) -/

/-- Run a received packet: a whole packet of a bad form is rejected with EV_RIL_AUTH, cause FORMAT (R544); the master ignores
RILU and says so once per CHIP start, and takes what is addressed to it or is hop-local; a member consumes what is addressed to it or
to all or is hop-local, and repeats the rest and the packets to all, a BOUNDARY with its delays added. -/
def rilReceive (s : State) (port : Nat) (p : Bytes) (act : State → State) : State :=
  if !s.ril.cascEn || !rilWhole p then s
  else if s.ril.master then
    if port = 0 then
      (if s.ril.topoSaid then s
       else raise (setRil s fun r => { r with topoSaid := true }) { id := 0x7DA, data := le 1 0 })
    else if !rilForm p then rilAuth s port (rilType p) 2
    else if rilDst p = 0 ∨ rilDst p = 0xFE then act s else s
  else if !rilForm p then rilAuth s port (rilType p) 2
  else
    let forward := fun (a : State) =>
      if rilType p = 0x01 then
        let q := p.take 12 ++ le 4 ((rilHopd p + a.ril.hop + Config.repeatLatency) % 2 ^ 32) ++ (p.drop 16).take (rilLen p + 8)
        rilPut a 1 (q ++ le 4 (crc32 q))
      else rilPut a (1 - port) p
    if rilDst p = 0xFE then act s
    else if port = 1 then forward s
    else if rilDst p = s.ril.cascId then act s
    else if rilDst p = 0xFF then act (forward s)
    else forward s

/-- The same, for a type whose handling needs the service cores: while they are down the packet waits (R560). -/
def rilService (s : State) (port : Nat) (p : Bytes) (act : State → State) : State :=
  rilReceive s port p fun s =>
    if s.pwr.serviceDown then setRil s fun r => { r with waiting := r.waiting ++ [(port, p, nowCycle s)] } else act s

/-- A packet of a type under KS at a member: tag, then CTR (R545). -/
def underKs (s : State) (port : Nat) (p : Bytes) (act : State → State) : State :=
  if s.ril.state ≠ .joined then s
  else if !rilTagOk s.ril.ks p then rilAuth s port (rilType p) 0
  else if rilCtr p ≤ s.ril.rxKs then rilAuth s port (rilType p) 1
  else act (setRil s fun r => { r with rxKs := rilCtr p })

/-- A packet of a type under KG at a member. -/
def underKg (s : State) (port : Nat) (p : Bytes) (act : State → State) : State :=
  if !rilTagOk s.ril.kg p then rilAuth s port (rilType p) 0
  else if rilCtr p ≤ s.ril.rxKg then rilAuth s port (rilType p) 1
  else act (setRil s fun r => { r with rxKg := rilCtr p })

/-- A packet of a member's KS at the master. -/
def fromMember (s : State) (port : Nat) (p : Bytes) (act : State → Nat → State) : State :=
  let i := rilSrc p
  let e := rilEntry s i
  if e.state ≠ 2 ∧ e.state ≠ 4 then s
  else if !rilTagOk e.key p then rilAuth s port (rilType p) 0
  else if rilCtr p ≤ e.rx then rilAuth s port (rilType p) 1
  else act (setEntry s i { e with rx := rilCtr p }) i

/-! ### Detachment -/

/-- The shadow's phase offset averaged over the cycles since it was last cleared, at most 16 (R550). -/
def phaseAvg (r : Ril) : Int := roundDiv (isum r.phases) r.phases.length

/-- PHASE_MISMATCH is cleared with its EXIT. -/
def clearMismatch (s : State) : State :=
  let s1 := setRil s fun r => { r with phases := [] }
  if s.ril.mismatch then
    raise (setRil s1 fun r => { r with mismatch := false }) { id := 0x7D5, data := le 1 1 ++ leInt 2 (phaseAvg s.ril) }
  else s1

/-- A member detaches (R552, Table RIL.4), with EV_RIL_DETACH: cause 0 MASTER_SILENT, 1 LEAVE, 2 RE-KEY. -/
def detach (s : State) (cause : Nat) : State :=
  let s1 := leaveSlave (clearMismatch s)
  let s2 := setRil s1 fun r => { r with
    state := .detached, start := none, next := none, selfPlaced := 0, placeOwn := false, row := 0, skewed := false, setDue := false,
    asked := [] }
  raise s2 { id := 0x7D3, data := le 1 cause ++ le 5 (s.ril.last.elim 0 (·.cycle)) }

/-- A new generation of K4 is current (R545, R547): the master sends LEAVE to every member; a member detaches, or, when it is
ISOLATED, sends JOIN again. -/
def linkRekeyed (s : State) : State :=
  if s.ril.master then leaveAll s 0
  else if !s.ril.member then s
  else if s.ril.state = .isolated then setRil s fun r => { r with retryNow := true }
  else if s.ril.state = .joined then detach s 2
  else s

end Sys2Proof.Machine
end

