-- ==== Sys2Proof/Machine/Rings.lean ====
section
/-!
DEFINITION. Rings: their creation and deletion, doorbells, moderation, page flushes and staging (19_rings.md, and the
administration commands of 20_commands.md).
-/
namespace Sys2Proof.Machine

/-! ### Definitions (Table RNG.4, R481) -/

/-- A ring as a definition describes it. -/
def defRing (b : Bytes) : Ring :=
  { typ := (ringTypeOf (fld b 1 1)).getD .adm, log2n := fld b 2 1, irq := bit (fld b 3 1) 0, vec := fld b 4 1, pair := fld b 5 1,
    modCnt := fld b 6 2, base := fld b 8 8, shadow := fld b 16 8, modUs := fld b 24 2,
    flushMs := if fld b 26 2 = 0 then 1000 else fld b 26 2, kinds := fld b 28 8 }

/-- Index a definition names. -/
def defIndex (b : Bytes) : Nat := fld b 0 1

/-- Vectors of a function (R462). -/
def vectorsOf (t : Nat) : Nat := if t = 0 then 64 else 8

/-- The PAIR of a definition names a ring of the right type that is neither absent nor in ERROR (Table RNG.1). -/
def pairOk (s : State) (t : Nat) (b : Bytes) (together : Bool) : Bool :=
  let p := fld b 5 1
  let q := ring s t p
  match ringTypeOf (fld b 1 1) with
  | some .adm => p == 1 && together
  | some .sub => decide (2 ≤ p ∧ p < 64) && q.typ == .cpl && q.state != .absent && q.state != .error
  | some .str => decide (p < 64) && q.typ == .buf && q.state != .absent && q.state != .error
  | some .raw => decide (p < 64) && q.typ == .buf && q.state != .absent && q.state != .error
  | some _ => p == 0xFF
  | none => false

/-- The fields of a definition keep Table RNG.4 (ST_RING_PARAM). -/
def defFieldsOk (s : State) (t : Nat) (b : Bytes) (together : Bool) : Bool :=
  let typ := ringTypeOf (fld b 1 1)
  let pageRing := typ == some .str || typ == some .raw
  decide (fld b 0 1 < 64) && typ.isSome && decide (4 ≤ fld b 2 1 ∧ fld b 2 1 ≤ 16) &&
  !(bit (fld b 3 1) 0 && (typ == some .adm || typ == some .sub)) && decide (fld b 4 1 < vectorsOf t) &&
  pairOk s t b together && decide (fld b 8 8 % 4096 = 0 ∧ fld b 8 8 ≠ 0 ∧ fld b 16 8 % 64 = 0 ∧ fld b 16 8 ≠ 0) &&
  (if pageRing then fld b 26 2 == 0 || within 10 (fld b 26 2) 10000 else fld b 26 2 == 0) &&
  (typ == some .str || fld b 28 8 == 0)

/-- The status of a refused definition (R481); `idx` is set for the pair made by bootstrap or ADMIN_ATTACH. -/
def defCheck (s : State) (t : Nat) (b : Bytes) (idx : Option Nat) : Option Nat :=
  let typ := ringTypeOf (fld b 1 1)
  firstFail [
    (!((typ == some .aud || typ == some .raw) && t != 0), stNotPermitted),
    (idx.isSome || decide (1 < fld b 0 1), stNotPermitted),
    (!(typ == some .adm && fld b 0 1 != 0), stNotPermitted),
    (idx != some 1 || typ == some .cpl, stNotPermitted),
    (decide ((ring s t (fld b 0 1)).state = .absent), stRingExists),
    ((match idx with
      | none => true
      | some i => fld b 0 1 == i && (i != 0 || typ == some .adm)) && defFieldsOk s t b idx.isSome, stRingParam)]

/-- RSEQ that the next creation of an index takes: 1 after a CHIP start, wrapping from 0xFFFF to 1 (R482). -/
def nextRseq (s : State) (t i : Nat) : Nat := tget 1 s.rng.rseq (ringKey t i)

/-- EV_EVT_LOST for a ring's dropped range: its record takes the next ESEQ, is archived, and goes to that ring alone
(R391). -/
def reportLost (s : State) (t i : Nat) (l : Nat × Nat × Nat) : State :=
  let r := { recordOf s { id := 66, data := le 6 l.1 ++ le 6 l.2.1 ++ le 4 l.2.2 } 0 0xFF 0 0 with eseq := s.ev.next }
  let s1 := { s with ev := { s.ev with next := s.ev.next + 1, log := s.ev.log ++ [r] } }
  let s2 := if tailRoom s1 1 then tailPush s1 (eventItem r)
    else { s1 with cis := { s1.cis with waiting := s1.cis.waiting ++ [⟨eventItem r, none⟩], tailFull := true } }
  let s3 := setRing s2 t i { ring s2 t i with lost := none }
  produce s3 t i (eventBytes r)

/-- Create a ring from a checked definition (R482), with the reports that its first records carry (R391, R468, R500). -/
def createRing (s : State) (t : Nat) (b : Bytes) : State :=
  let i := defIndex b
  let q := nextRseq s t i
  let s1 := { s with rng := { s.rng with rseq := tput s.rng.rseq (ringKey t i) (if q = 0xFFFF then 1 else q + 1) } }
  let s2 := setRing s1 t i { defRing b with rseq := q }
  let s3 := setRingState s2 t i .active 0
  match (defRing b).typ with
  | .evt =>
    let c := ctx s3 t
    let s4 := setCtx s3 t { c with first := [], lost := none }
    let s5 := setRing s4 t i { ring s4 t i with lost := c.lost }
    let s6 := c.first.foldl (fun a r => produce a t i (eventBytes r)) s5
    match c.lost with
    | some l => if 0 < ringFree (ring s6 t i) then reportLost s6 t i l else s6
    | none => s6
  | .str =>
    match tfind s3.rng.ctxGap t with
    | none => s3
    | some g =>
      let s4 := { s3 with rng := { s3.rng with ctxGap := tdel s3.rng.ctxGap t } }
      stageRec s4 t i ⟨0x40, 0, 0, t, 0xFFFFFFFF,
        le 6 g.first ++ le 6 g.last ++ le 4 g.dropped ++ le 4 g.unarch ++ le 1 1 ++ zeros 3 ++ le 6 g.fromTicks ++ zeros 2⟩
  | _ => s3

/-- Create rings 0 and 1 of a tenant from two proposed definitions, or neither (R479, R480): the status or the state. -/
def attachRings (s : State) (t : Nat) (b0 b1 : Bytes) : Option Nat × State :=
  match defCheck s t b0 (some 0) with
  | some e => (some e, s)
  | none =>
    match defCheck s t b1 (some 1) with
    | some e => (some e, s)
    | none => (none, setCtxState (createRing (createRing s t b0) t b1) t .active)

/-! ### Deliveries that wait for a free entry -/

/-- Deliver an EVT ring's held records while entries are free (R391). -/
def evtFlush : Nat → State → Nat → Nat → State
  | 0, s, _, _ => s
  | n + 1, s, t, i =>
    let q := ring s t i
    if q.state != .active || ringFree q == 0 then s
    else match q.lost with
      | some l => evtFlush n (reportLost s t i l) t i
      | none =>
        match q.held with
        | [] => s
        | r :: rest => evtFlush n (produce (setRing s t i { q with held := rest }) t i (eventBytes r)) t i

/-- The page rings that take pages from a BUF ring (R494). -/
def fedBy (s : State) (t b : Nat) : List Nat :=
  (s.rng.rings.filter (fun p => p.1 / 64 == t && (p.2.typ == .str || p.2.typ == .raw) && p.2.pair == b && p.2.state == .active)).map (fun p => p.1 % 64)

/-! ### Reading the archive into a ring (R381, R501) -/

/-- The lowest retained ASEQ: the lowest in the custody log, or the next to be issued (R381). -/
def lowestAseq (s : State) : Nat := (s.cis.log.head?).elim s.cis.nextAseq (·.aseq)

/-- The highest archived ASEQ, 0 when the log is empty. -/
def highestAseq (s : State) : Nat := (s.cis.log.getLast?).elim 0 (·.aseq)

/-- An item that an ARCHIVE_READ returns: arguments are the next ASEQ to examine, COUNT, KINDS, RING, FLAGS, SESSION_ID, items
returned, whether part of the request was gone, and the last ASEQ examined (R381). -/
def readMatch (o : OpenCmd) (it : Item) : Bool :=
  decide (nth 0 o.arg 0 ≤ it.aseq) && (nth 0 o.arg 2 == 0 || bit (nth 0 o.arg 2) it.kind) &&
  (nth 0 o.arg 4 == 0 || it.session == nth 0 o.arg 5) && (o.desc.tenant == 0 || it.tenant == o.desc.tenant)

/-- RESULT of an ARCHIVE_READ: LAST, ITEMS and LOW. -/
def readResult (s : State) (arg : List Nat) : Bytes := le 6 (nth 0 arg 8) ++ le 4 (nth 0 arg 6) ++ le 6 (lowestAseq s)

/-- Replace a command in processing. -/
def setOpen (s : State) (o o1 : OpenCmd) : State :=
  { s with cmd := { s.cmd with opens := s.cmd.opens.map fun x => if x = o then o1 else x } }

/-- The output of an ARCHIVE_READ has ended: the page that holds its end is completed with CMD_END, then the command (R501). -/
def endRead (s : State) (o : OpenCmd) : State :=
  let t := o.desc.tenant
  let i := nth 0 o.arg 3
  let mine := match (ring s t i).page with
    | some p => p.recs.any fun r => r.sfl % 2 == 1
    | none => false
  let s1 := if mine then closePage s t i 2 else s
  if (ring s1 t i).page.isSome && mine then s1
  else
    let last := if nth 0 o.arg 6 = nth 0 o.arg 1 then nth 0 o.arg 8 else max (nth 0 o.arg 8) (highestAseq s)
    complete { s1 with cmd := { s1.cmd with opens := s1.cmd.opens.filter (fun x => x != o) } } o.desc o.sqhd
      (if nth 0 o.arg 7 = 1 then stArchiveGone else stOk) 0 (readResult s (setNth o.arg 8 last))

/-- Stream an ARCHIVE_READ as far as its ring has page space: items go straight into pages, never into staging (R501). -/
def pumpRead : Nat → State → OpenCmd → State
  | 0, s, _ => s
  | n + 1, s, o =>
    let t := o.desc.tenant
    let i := nth 0 o.arg 3
    let gone := if nth 0 o.arg 0 < lowestAseq s then 1 else nth 0 o.arg 7
    let o1 := { o with arg := setNth o.arg 7 gone }
    let s0 := setOpen s o o1
    match (ring s t i).page.bind (·.closing), s.cis.log.find? (readMatch o) with
    | some _, _ => s0
    | none, none => endRead s0 o1
    | none, some it =>
      if nth 0 o.arg 1 ≤ nth 0 o.arg 6 then endRead s0 o1
      else match (ring s t i).page with
        | none =>
          let s1 := openPage s0 t i
          if (ring s1 t i).page.isSome then pumpRead n s1 o1 else s1
        | some p =>
          let rec_ : StreamRec := ⟨it.kind, 1 + flag it.damaged 1, it.aseq, it.tenant, it.session, if it.damaged then [] else it.body⟩
          if p.fill + recSize rec_ ≤ 4096 then
            let arg := [it.aseq + 1, nth 0 o.arg 1, nth 0 o.arg 2, i, nth 0 o.arg 4, nth 0 o.arg 5, nth 0 o.arg 6 + 1, gone, it.aseq]
            let o2 := { o1 with arg := arg, result := readResult s arg }
            pumpRead n (placeRec (setOpen s0 o1 o2) t i p rec_ (ring s t i).staged) o2
          else pumpRead n (closePage s0 t i 0) o1

/-- Let every ARCHIVE_READ into a ring go on. -/
def pumpReads (s : State) (t i : Nat) : State :=
  (s.cmd.opens.filter fun o => o.opc == 0x0A01 && o.desc.tenant == t && nth 0 o.arg 3 == i).foldl
    (fun a o => pumpRead (3 * (nth 0 o.arg 1 - nth 0 o.arg 6) + 3) a o) s

/-- Place what is staged, then what ARCHIVE_READs bring. -/
def drainAll (s : State) (t i : Nat) : State := pumpReads (drain s t i) t i

/-- Space or pages have come back to a ring: what waited goes on (R391, R494, R497). -/
def ringResume (s : State) (t i : Nat) : State :=
  let q := ring s t i
  match q.typ with
  | .evt => evtFlush (q.held.length + 1) s t i
  | .str => drainAll (match q.page.bind (·.closing) with
      | some pfl => closePage s t i pfl
      | none => s) t i
  | .raw => drain (match q.page.bind (·.closing) with
      | some pfl => closePage s t i pfl
      | none => s) t i
  | .buf => (fedBy s t i).foldl (fun a j => drainAll a t j) s
  | _ => s

/-! ### Doorbells (R485) -/

/-- A doorbell index out of range: the ring goes to ERROR with EV_RNG_DB_BAD in the tenant's domain (R485, R486). -/
def doorbellBad (s : State) (t i word : Nat) : State :=
  let q := ring s t i
  ringError (raise s { id := 0x7A2, dom := some t, tenant := t,
                       data := le 1 t ++ le 1 i ++ le 4 word ++ le 2 q.head ++ le 2 q.tail }) t i 1

/-- The doorbell procedure of R485 for an ACTIVE tenant. -/
def doorbell (s : State) (t word : Nat) (posts : List HostPost) : State :=
  let i := word / 65536 % 64
  let idx := word % 65536
  let chk := word / 16777216 % 256
  let q := ring s t i
  let n := ringSize q
  if q.state = .absent ∨ chk ≠ q.rseq % 256 then raise s { id := 0x7A1, dom := some t, tenant := t, data := le 1 t ++ le 4 word }
  else if q.state ≠ .active then s
  else if n ≤ idx then doorbellBad s t i word
  else if hostProduces q.typ then
    let add := (idx + n - q.tail % n) % n
    if ringFree q < add then doorbellBad s t i word
    else
      let s1 := setRing s t i { q with tail := idx, posts := q.posts ++ posts.take add }
      ringResume s1 t i
  else
    let adv := (idx + n - q.head % n) % n
    if ringUsed q < adv then doorbellBad s t i word
    else ringResume (setRing s t i { q with head := idx }) t i

/-- The host watchdog sees a PF0 doorbell (R473). -/
def hostSeen (s : State) : State :=
  let s1 := { s with hif := { s.hif with lastDoorbell := nowTick s, silent := false } }
  if s.hif.silent then inform s1 { id := 0x78B, data := le 4 ((nowTick s - s.hif.lastDoorbell) / 32768) } else s1

/-- A function above an undefined tenant: its doorbells are ignored with EV_HIF_BAD_ACCESS (R464). -/
def badAccessEvent (s : State) (f bar offset : Nat) (write : Bool) : State :=
  let s1 := { s with hif := { s.hif with badCount := satInc 16 s.hif.badCount,
                                         badLast := offset % 65536 + 65536 * (f % 256) + 16777216 * (bar % 8) + flag write 27 } }
  raise s1 { id := 0x786, dom := if (ctx s f).state = .undefined then none else some f,
             tenant := if (ctx s f).state = .undefined then 0 else f,
             data := le 2 f ++ le 1 bar ++ le 4 offset ++ le 1 (flag write 0) }

/-- DOORBELL_WRITE (R484, R485): `posts` are the entries the host has put into a BUF or AUD ring, as the hub reads them. -/
def execDoorbellWrite (func word : Nat) (posts : List HostPost) (s : State) : Out :=
  .next (whenRunning s fun s =>
    let s1 := if func = 0 then hostSeen s else s
    match (ctx s1 func).state with
    | .active => doorbell s1 func word posts
    | .undefined => badAccessEvent s1 func (if func = 0 then 2 else 0) 0 true
    | _ => s1)

/-! ### Administration commands -/

/-- ADMIN_ATTACH (R480). -/
def execAdminAttach (d : Desc) (target : Nat) (s : State) : Out :=
  .next (hostCmd s d 0x0001 false fun s =>
    checked s d [by0 d, (within 1 target 255, stBadArg), (tenantDefined s target, stTenantUnknown),
      ((ctx s target).mbxState == 1, stNoRequest), (decide ((ctx s target).state = .attached), stBadState)] fun s =>
      let c := ctx s target
      match attachRings s target c.mbxDef0 c.mbxDef1 with
      | (some e, s1) => reply (setCtx s1 target { ctx s1 target with mbxState := 3, mbxCode := e }) d e []
      | (none, s1) =>
        let s2 := setCtx s1 target { ctx s1 target with mbxState := 2, mbxCode := 0 }
        reply s2 d stOk (le 2 (ring s2 target 0).rseq))

/-- RING_CREATE (R481, R482). -/
def execRingCreate (d : Desc) (defn : Bytes) (s : State) : Out :=
  .next (hostCmd s d 0x0002 false fun s =>
    match defCheck s d.tenant defn none with
    | some e => reply s d e []
    | none =>
      let s1 := createRing s d.tenant defn
      reply s1 d stOk (le 2 (ring s1 d.tenant (defIndex defn)).rseq))

/-- Records of a ring that a deletion discards: lowest ASEQ and count (R483). -/
def discarded (r : Ring) : Nat × Nat :=
  let as := (r.staged.map (·.aseq)).filter (· != 0)
  (as.foldl min (as.headD 0), r.staged.length)

/-- End a page ring: its open page is completed when it holds a record and an entry is free, staged records go (R483). -/
def endPageRing (s : State) (t i : Nat) : State :=
  let q := ring s t i
  let s1 := match q.page with
    | none => s
    | some p => if p.recs.isEmpty ∨ ringFree q = 0 then setRing s t i { q with page := none } else closePage s t i 8
  setRing s1 t i { ring s1 t i with staged := [], dropping := none }

/-- ARCHIVE_READ commands that stream into a deleted ring end with ST_ABORTED (20_commands.md, When things coincide). -/
def abortReads (s : State) (t i : Nat) : State :=
  ((s.cmd.opens.filter (fun o => o.opc == 0x0A01 && o.desc.tenant == t && nth 0 o.arg 3 == i))).foldl
    (fun a o => complete { a with cmd := { a.cmd with opens := a.cmd.opens.filter (fun x => x != o) } } o.desc o.sqhd stAborted 0 o.result) s

/-- RING_DELETE (R483): the ring enters DELETING, ends according to its type, and is ABSENT when the command completes.
A SUB ring whose commands are still in processing stays DELETING until the last of them completes. -/
def execRingDelete (d : Desc) (idx : Nat) (s : State) : Out :=
  .next (hostCmd s d 0x0003 false fun s =>
    let q := ring s d.tenant idx
    let named := s.rng.rings.any fun p => p.1 / 64 == d.tenant && p.2.state != .absent && p.2.pair == idx && p.1 % 64 != idx &&
      (p.2.typ == .adm || p.2.typ == .sub || p.2.typ == .str || p.2.typ == .raw)
    checked s d [(decide (idx < 64), stBadArg), (decide (1 < idx), stNotPermitted),
      (q.state == .active || q.state == .error, stNotFound), (!named, stRingBusy)] fun s =>
      let s1 := setRingState s d.tenant idx .deleting 3
      match q.typ with
      | .sub =>
        if s1.cmd.opens.any (fun o => o.desc.tenant == d.tenant && o.desc.ring == idx) then
          defer (setRing s1 d.tenant idx { ring s1 d.tenant idx with deleting := some d.cid }) d 0x0003 idx [] true [] []
        else reply (setRingState s1 d.tenant idx .absent 4) d stOk []
      | .str =>
        let g := discarded q
        reply (setRingState (abortReads (endPageRing s1 d.tenant idx) d.tenant idx) d.tenant idx .absent 4) d stOk (le 6 g.1 ++ le 4 g.2)
      | .raw =>
        let g := discarded q
        reply (setRingState (endPageRing s1 d.tenant idx) d.tenant idx .absent 4) d stOk (le 6 g.1 ++ le 4 g.2)
      | _ => reply (setRingState s1 d.tenant idx .absent 4) d stOk [])

/-- STREAM_FLUSH (R497). -/
def execStreamFlush (d : Desc) (idx : Nat) (s : State) : Out :=
  .next (hostCmd s d 0x0004 false fun s =>
    let q := ring s d.tenant idx
    checked s d [(decide (idx < 64), stBadArg), ((q.typ == .str || q.typ == .raw) && q.state == .active, stNotFound)] fun s =>
      let s1 := match q.page with
        | some p => if p.recs.isEmpty ∨ p.closing.isSome then s else closePage s d.tenant idx 1
        | none => s
      reply s1 d stOk [])

/-- BAD_DESCRIPTOR (R489): unknown opcode first, then the wrong ring, then a malformed DPTR or DLEN. -/
def execBadDescriptor (d : Desc) (opc : Nat) (s : State) : Out :=
  .next (settle (if ready s d then
    let known := [0x0001, 0x0002, 0x0003, 0x0004, 0x0005, 0x0006, 0x0007, 0x0008, 0x0101, 0x0102, 0x0103, 0x0104, 0x0105,
      0x0106, 0x0107, 0x0201, 0x0202, 0x0203, 0x0204, 0x0205, 0x0301, 0x0302, 0x0303, 0x0304, 0x0305, 0x0306, 0x0307, 0x0401,
      0x0501, 0x0502, 0x0503, 0x0504, 0x0505, 0x0601, 0x0602, 0x0603, 0x0604, 0x0605, 0x0606, 0x0701, 0x0702, 0x0801, 0x0802,
      0x0803, 0x0901, 0x0902, 0x0903, 0x0904, 0x0A01, 0x0A02, 0x0A03, 0x0B01, 0x0B02, 0x0B03, 0x0B04, 0x0C01, 0x0C02, 0x0C03,
      0x0C04, 0x0D01].contains opc
    let st := if !known then stBadOpcode else if (opc / 256 == 0) != (d.ring == 0) then stWrongRing else stDescFormat
    descBad (take s d) d opc st
  else s))

/-! ### Bootstrap, mailbox and timers -/

/-- RNG_BOOT_CTRL.GO (R479, R588). -/
def execRngBootCtrlGo (value : Nat) (s : State) : Out :=
  .next (whenRunning s fun s =>
    if value % 2 = 0 ∨ s.rng.bootState = 1 then s
    else if (ctx s 0).state ≠ .attached then
      { s with rng := { s.rng with bootState := 3, bootCode := stBadState } }
    else
      match attachRings s 0 s.rng.def0 s.rng.def1 with
      | (some e, s1) => { s1 with rng := { s1.rng with bootState := 3, bootCode := e } }
      | (none, s1) => { s1 with rng := { s1.rng with bootState := 2, bootCode := 0, bootRseq := (ring s1 0 0).rseq } })

/-- MBX_REQ (R480): another value than the request word is ignored (Table RNG.3). -/
def execMbxReq (func value : Nat) (s : State) : Out :=
  .next (whenRunning s fun s =>
    if value = 0x41444D31 ∧ func ≠ 0 then
      if (ctx s func).state = .undefined then badAccessEvent s func 0 0x1F0 true
      else if (ctx s func).state = .attached then
        inform (setCtx s func { ctx s func with mbxState := 1, mbxCode := 0 }) { id := 0x7A4, data := le 1 func }
      else s
    else s)

/-- RING_MODERATION_EXPIRE (R492): MOD_US after the first unsignalled entry. -/
def execRingModerationExpire (tenant idx : Nat) (s : State) : Out :=
  .next (whenRunning s fun s =>
    let q := ring s tenant idx
    if q.state = .active ∧ 0 < q.unsig ∧ !hostProduces q.typ then signalRing s tenant idx else s)

/-- PAGE_FLUSH_EXPIRE (R497): FLUSH_MS after the first record of the open page. -/
def execPageFlushExpire (tenant idx : Nat) (s : State) : Out :=
  .next (whenRunning s fun s =>
    let q := ring s tenant idx
    match q.page with
    | some p =>
      if q.state = .active ∧ !p.recs.isEmpty ∧ p.closing.isNone ∧ p.since + q.flushMs * 32768 / 1000 ≤ nowTick s then
        closePage s tenant idx 1 else s
    | none => s)

/-- The bytes of a STREAM_GAP (Table RNG.12). -/
def gapBytes (g : GapNote) (cause : Nat) : Bytes :=
  le 6 g.first ++ le 6 g.last ++ le 4 g.dropped ++ le 4 g.unarch ++ le 1 cause ++ zeros 3 ++ le 6 g.fromTicks ++ zeros 2

/-- STAGING_DRAINED (R499): a DROPPING page ring whose queue is empty places a STREAM_GAP and leaves DROPPING. -/
def execStagingDrained (tenant idx : Nat) (s : State) : Out :=
  .next (whenRunning s fun s =>
    let q := ring s tenant idx
    match q.dropping with
    | some g =>
      if q.state = .active ∧ q.staged.isEmpty then
        let s1 := setRing s tenant idx { q with dropping := none, staged := [⟨0x40, 0, 0, tenant, 0xFFFFFFFF, gapBytes g 0⟩] }
        inform (drain s1 tenant idx) { id := 0x7A6, data := le 1 tenant ++ le 1 idx ++ (gapBytes g 0).take 21 }
      else s
    | none => s)

end Sys2Proof.Machine
end

