-- ==== Sys2Proof/Machine/Events.lean ====
section
/-!
DEFINITION. The event block's own commands: suppression, losses, fault levels, tamper writes and reads, the fault
counters and the retraction of early events (15_events_faults.md).
-/
namespace Sys2Proof.Machine

/-! ### EV_RETRACT (R395, R396) -/

/-- Verdict cause codes of Table EVT.9. -/
def retractCause (cause : Nat) : Nat := cause % 4

/-- Whether an early event rests on a window of a head (R395). -/
def restsOn (e : EarlyRef) (head wstart : Nat) : Bool :=
  e.range.any fun r => r.1 == head && decide (r.2.1 ≤ wstart ∧ wstart ≤ r.2.2)

/-- Data of an EV_RETRACT (Table EVT.9). -/
def retractData (form cause head wstart eseq id : Nat) : Bytes :=
  le 1 form ++ le 1 cause ++ le 1 head ++ zeros 1 ++ le 4 wstart ++ le 6 eseq ++ le 2 id ++ zeros 16

/-- Issue an EVENT-form RETRACT: archived, then to every ring that was sent the original, and to tenant 0; when a ring
was torn down since, the tenant's next first EVT ring receives it (R395). -/
def retractEvent (s : State) (e : EarlyRef) (cause head wstart : Nat) : State :=
  let r := { recordOf s { id := 64, tenant := e.tenant, data := retractData 0 cause head wstart e.eseq e.id } 0 0xFF 0 0 with eseq := s.ev.next }
  let s1 := { s with ev := { s.ev with next := s.ev.next + 1, log := s.ev.log ++ [r] } }
  let s2 := if tailRoom s1 1 then tailPush s1 (eventItem r)
    else { s1 with cis := { s1.cis with waiting := s1.cis.waiting ++ [⟨eventItem r, none⟩], tailFull := true } }
  let extra := match evtTarget s2 0 (e.id / 128) with
    | some i => if e.rings.any (fun k => k / 64 == 0) then [] else [ringKey 0 i]
    | none => []
  (e.rings ++ extra).foldl (fun a k =>
    if (ring a (k / 64) (k % 64)).state = .active ∧ (ring a (k / 64) (k % 64)).typ = .evt then evtPush a (k / 64) (k % 64) r
    else setCtx a (k / 64) { ctx a (k / 64) with first := (ctx a (k / 64)).first ++ [r] }) s2

/-- Issue the WINDOW-form RETRACT of a FAIL window: tenant 0 always, others by their mask (R395). -/
def retractWindow (s : State) (cause head wstart : Nat) : State :=
  let r := { recordOf s { id := 64, src := head, data := retractData 1 cause head wstart 0 0 } 0 0xFF 0 0 with eseq := s.ev.next }
  let s1 := { s with ev := { s.ev with next := s.ev.next + 1, log := s.ev.log ++ [r] } }
  let s2 := if tailRoom s1 1 then tailPush s1 (eventItem r)
    else { s1 with cis := { s1.cis with waiting := s1.cis.waiting ++ [⟨eventItem r, none⟩], tailFull := true } }
  (span 0 256).foldl (fun a t =>
    if t = 0 ∨ subscribed a t 64 then
      match evtTarget a t 0 with
      | some i => evtPush a t i r
      | none => a
    else a) s2

/-- Withdraw what rests on a FAIL window: every EVENT form in rising ESEQ of its original, then the WINDOW form (R395). -/
def retract (s : State) (cause head wstart : Nat) : State :=
  let gone := s.ev.early.filter (fun e => restsOn e head wstart)
  let s1 := gone.foldl (fun a e => retractEvent a e cause head wstart) s
  let s2 := { s1 with ev := { s1.ev with early := s1.ev.early.filter (fun e => !restsOn e head wstart) } }
  retractWindow s2 cause head wstart

/-- Forget early events whose every window has passed its verdict deadline (R24): nothing can withdraw them. -/
def settleEarly (s : State) (front : Nat) : State :=
  { s with ev := { s.ev with early := s.ev.early.filter (fun e => e.range.any fun r => decide (front ≤ r.2.2)) } }

/-! ### Timers -/

/-- EVENT_SUPPRESSION_SPAN_END (R392). -/
def execEventSuppressionSpanEnd (s : State) : Out :=
  .next (whenRunning s fun s =>
    let due := s.ev.suppressed
    let s1 := { s with ev := { s.ev with suppressed := [], counts := [], span := nowTick s / 32768 } }
    due.foldl (fun a p => inform a { id := 67, data := le 2 p.1 ++ le 4 p.2 }) s1)

/-- EVENT_BLOCK_PLACE_FREE (R393): the losses are reported once a place is free. -/
def execEventBlockPlaceFree (s : State) : Out :=
  .next (whenRunning s fun s =>
    if s.ev.lost.isEmpty ∨ 8192 ≤ waitingEvents s then s
    else
      let data := ((span 0 16).map fun c => le 2 (min 65535 (tget 0 s.ev.lost c))).flatten
      raise { s with ev := { s.ev with lost := [] } } { id := 68, data := data })

/-! ### Fault levels (R399, R400) -/

/-- The pending fault a domain starts next: the highest severity, oldest first. -/
def bestPending : List (Nat × Nat) → Option (Nat × Nat)
  | [] => none
  | p :: r => match bestPending r with
    | some q => if p.2 < q.2 then some q else some p
    | none => some p

/-- Remove the first occurrence of a pending fault. -/
def dropPending (q : List (Nat × Nat)) (p : Nat × Nat) : List (Nat × Nat) := q.erase p

/-- The top level completes (Table EVT.4). -/
def levelComplete (d : Dom) (now : Nat) : Dom :=
  match d.stack with
  | [] => d
  | _ :: rest =>
    match bestPending d.queue, rest with
    | none, [] => { d with state := .idle, stack := [] }
    | none, _ => { d with stack := rest }
    | some p, [] => { d with stack := [⟨p.1, p.2, now, false⟩], queue := dropPending d.queue p }
    | some p, top :: _ =>
      if top.sev < p.2 then { d with stack := ⟨p.1, p.2, now, false⟩ :: rest, queue := dropPending d.queue p }
      else { d with stack := rest }

/-- FAULT_LEVEL_COMPLETE (R399). -/
def execFaultLevelComplete (domain : Nat) (s : State) : Out :=
  .next (whenRunning s fun s =>
    if (dom s domain).state = .handling then setDom s domain (levelComplete (dom s domain) (nowTick s)) else s)

/-- FAULT_LEVEL_TIMEOUT (R399): the top level has been active for 3,277 ticks. -/
def execFaultLevelTimeout (domain : Nat) (s : State) : Out :=
  .next (whenRunning s fun s =>
    match (dom s domain).state, (dom s domain).stack with
    | .handling, top :: _ => if top.since + 3277 ≤ nowTick s then escalate s domain 2 top.id else s
    | _, _ => s)

/-! ### Tamper records and fault counters -/

/-- TAMPER_WRITE_SPAN_END (R403): a record with unwritten occurrences is written 32,768 ticks after its last write. -/
def execTamperWriteSpanEnd (key : Nat) (s : State) : Out :=
  .next (whenRunning s fun s =>
    if s.ev.tamperDirty.contains key ∧ tget 0 s.ev.tamperWrite key + 32768 ≤ nowTick s then
      { s with ev := { s.ev with
          tampersFlash := tput s.ev.tampersFlash key (tget {} s.ev.tampers key)
          tamperWrite := tput s.ev.tamperWrite key (nowTick s)
          tamperDirty := s.ev.tamperDirty.filter (· != key) } }
    else s)

/-- The 40 bytes of a tamper record (Table EVT.10). -/
def tamperBytes (m typ : Nat) (r : Tamper) : Bytes :=
  le 4 r.count ++ le 1 r.flags ++ le 1 (typ + if m = tamperDevice then 128 else 0) ++
    le 2 (if m = tamperDevice then 0xFFFF else m) ++ le 7 r.firstStamp ++ le 1 r.firstClk ++ le 6 r.firstTicks ++ zeros 2 ++
    le 7 r.lastStamp ++ le 1 r.lastClk ++ le 6 r.lastTicks ++ zeros 2

/-- The 32 tamper records of an MP or of the device. -/
def tamperPage (s : State) (m : Nat) : Bytes :=
  ((span 0 32).map fun y => tamperBytes m y (tget {} s.ev.tampers (tamperKey m y))).flatten

/-- Domain state codes of Table CMD.16. -/
def domCode : DomState → Nat
  | .idle => 0
  | .handling => 1
  | .escalating => 2

/-- The fault counter block (Table CMD.16). -/
def faultBlock (s : State) (k : Nat) (ids : Bool) : Bytes :=
  let d := dom s k
  le 4 d.total ++ le 4 d.minor ++ le 4 d.major ++ le 4 d.critical ++ le 4 d.esc ++ le 1 d.sat ++ le 1 (domCode d.state) ++
    le 1 d.stack.length ++ le 1 d.queue.length ++ le 1 (flag d.overrun 0) ++ zeros 7 ++
    (if ids then ((span 0 2048).map fun i => le 4 (tget 0 s.ev.perId i)).flatten else [])

/-- FAULT_READ (R401, R511). -/
def execFaultRead (d : Desc) (domain tenant flags : Nat) (s : State) : Out :=
  .next (hostCmd s d 0x0005 true fun s =>
    checked s d [(d.tenant == 0 || (domain == 16 && tenant == d.tenant && !bit flags 0), stNotPermitted),
      (decide (domain ≤ 16), stBadArg), (domain != 16 || tenantDefined s tenant, stTenantUnknown)] fun s =>
      replyOut s d (faultBlock s (if domain = 16 then 16 + tenant else domain) (bit flags 0)) [])

/-- EVT_OVERRUN (R596): writing 1 clears a domain's bit. -/
def execEvtOverrunClear (value : Nat) (s : State) : Out :=
  .next (whenRunning s fun s =>
    { s with reg := { s.reg with overrun := (span 0 17).foldl (fun a i => if bit value i then clearBit a i else a) s.reg.overrun } })

end Sys2Proof.Machine
end

