-- ==== Sys2Proof/Machine/Ring.lean ====
section
/-!
DEFINITION. The Plynury ring and its heads: messages and containers, grants, head states, joins, window verdicts,
exclusion and breaks (04_plynury_ring.md, 05_head_partners.md).
-/
namespace Sys2Proof.Machine

/-! ### Heads -/

/-- The head at a position. -/
def head (s : State) (p : Nat) : Head := tget {} s.ply.heads p

/-- Replace a head. -/
def setHead (s : State) (p : Nat) (h : Head) : State := { s with ply := { s.ply with heads := tput s.ply.heads p h } }

/-- The 64 positions. -/
def positions : List Nat := span 0 64

/-- Codes of head states (PLY_HEAD0–7, Table PLY.7). -/
def headCode : HeadState → Nat
  | .absent => 0
  | .repeater => 1
  | .joining => 2
  | .active => 3
  | .excluded => 4
  | .isolated => 5

/-- An event about a head, whose chapter names what it carries but no layout. -/
def plyEvent (s : State) (id p : Nat) (fields : List Int) : State :=
  raise s { id := id, src := p, data := Config.eventData id ((p : Int) :: fields) }

/-- Move a head to a state, with EV_PLY_HEAD_STATE: head, old state, new state and cause (Table PLY.7). -/
def setHeadState (s : State) (p : Nat) (st : HeadState) (cause : Nat) : State :=
  let h := head s p
  if h.state = st then s
  else
    let h1 := { h with state := st, ended := if h.state = .active then some s.ply.frame else h.ended }
    plyEvent (setHead s p h1) 0x180 p [headCode h.state, headCode st, cause]

/-- The MPs of a head: local MP k of head p is MP 4p + k (R120). -/
def headMps (s : State) (p : Nat) : List Nat := (span (4 * p) (min 4 (head s p).mpCount))

/-- Count one occurrence of a tamper type in each MP of a head (Table EVT.5). -/
def headTamper (s : State) (p typ : Nat) : State := (span (4 * p) 4).foldl (fun a m => tamper a m typ) s

/-- EV_PLY_HEAD_MISMATCH with its tamper records (R98, Table EVT.5). -/
def headMismatch (s : State) (p : Nat) : State :=
  let s1 := plyEvent s 0x18B p []
  if p < 64 then headTamper s1 p 2 else s1

/-- The number a frame carries on the line: 32 bits, 0 for the first frame after training (R55, R118). -/
def wireFrame (s : State) (f : Nat) : Nat := (f - s.ply.base) % 2 ^ 32

/-- The slot frame that starts next (R88, R118). -/
def nextFrame (s : State) : Nat := if s.ply.started then s.ply.frame + 1 else s.ply.base

/-- A frame number taken from a message, as the frame nearest the running one (R55). -/
def frameOf (s : State) (w : Nat) : Nat :=
  let d := (w + 2 ^ 32 - wireFrame s s.ply.frame) % 2 ^ 32
  if d < 2 ^ 31 then s.ply.frame + d else s.ply.frame - (2 ^ 32 - d)

/-- The stamp and tick of a slot frame, from the last boundary at or before it (R45, R47). -/
def frameInstant (s : State) (f : Nat) : Stamp × Nat :=
  let e := (s.clk.log.filter (fun b => decide (b.frame ≤ f))).foldl (fun (a : Option BndEntry) b =>
    match a with
    | some x => if x.frame ≤ b.frame then some b else a
    | none => some b) none
  match e with
  | some b => (mkStamp b.cycle (min 65535 ((f - b.frame) * b.freq / 10240)), b.ticks + (f - b.frame) * 16 / 5)
  | none => (nowStamp s, nowTick s - (s.ply.frame - f) * 16 / 5)

/-! ### Control messages (R93–R97) -/

/-- Types of the join, which carry no tag (R97, Table PLY.5). -/
def joinType (typ : Nat) : Bool := [0x08, 0x41, 0x42, 0x43, 0x81, 0x82, 0x83, 0x84].contains typ

/-- Long downstream types (R93). -/
def longType (typ : Nat) : Bool := decide (0x40 ≤ typ ∧ typ ≤ 0x7F)

/-- The message tag (R97). -/
def msgTag (key sfc : Nat) (covered : Bytes) : Bytes := (be 16 (Config.cmac key (le 6 sfc ++ covered))).take 8

/-- Whether a downstream message to a head is tagged: the head is JOINED, or LEAVE ends its session (R97). -/
def taggedDown (s : State) (m : DownMsg) (f : Nat) : Bool :=
  let h := head s m.addr
  decide (m.addr < 64) && !joinType m.typ && (h.state == .active || m.typ == 7) &&
  (match h.session with
   | some st => decide (st ≤ f)
   | none => false)

/-- A container as it stands in a frame (Table PLY.5). -/
def containerBytes (s : State) (m : DownMsg) (f : Nat) : Bytes :=
  let h := head s m.addr
  let body := if longType m.typ then
      le 1 m.typ ++ le 1 m.addr ++ le 2 m.mseq ++ le 1 m.payload.length ++ le 1 (flag m.more 0) ++ le 2 m.frag ++ pad 92 m.payload
    else le 1 m.typ ++ le 1 m.addr ++ le 2 m.mseq ++ pad 14 m.payload
  let tag := if taggedDown s m f then msgTag (nth 0 h.keys 1) (f - h.session.getD 0) body else zeros 8
  let all := body ++ tag
  if longType m.typ then all ++ le 4 (crc32 all) else all ++ le 2 (crc16 all)

/-- Cut a message into payloads of `n` bytes. -/
def chunks (n : Nat) : Nat → Bytes → List Bytes
  | 0, _ => []
  | k + 1, b => if b.length ≤ n then [b] else b.take n :: chunks n k (b.drop n)

/-- Queue the fragments of one message to a head, each with its own MSEQ (R96). -/
def queueFrags (s : State) (p typ frag : Nat) (release : Option Nat) : List Bytes → State
  | [] => s
  | b :: r =>
    let h := head s p
    let m : DownMsg := ⟨p, typ, h.mseq, !r.isEmpty, frag, b, s.ply.frame, release, 0⟩
    let s1 := setHead s p { h with mseq := (h.mseq + 1) % 65536 }
    queueFrags { s1 with ply := { s1.ply with queue := s1.ply.queue ++ [m] } } p typ (frag + 1) release r

/-- Queue a short message to a head. -/
def sendShort (s : State) (p typ : Nat) (payload : Bytes) : State := queueFrags s p typ 0 none [payload]

/-- Queue a long message to a head, in fragments of at most 92 bytes. -/
def sendLong (s : State) (p typ : Nat) (payload : Bytes) (release : Option Nat) : State :=
  queueFrags s p typ 0 release (chunks 92 16 payload)

/-- Queue a broadcast message, which no head acknowledges. -/
def sendAll (s : State) (typ : Nat) (payload : Bytes) : State :=
  { s with ply := { s.ply with queue := s.ply.queue ++ [⟨0xFF, typ, 0, false, 0, payload, s.ply.frame, none, 0⟩] } }

/-- Forget what waits for a head whose session has ended. -/
def dropMessages (s : State) (p : Nat) : State :=
  let s1 := { s with ply := { s.ply with queue := s.ply.queue.filter (fun m => m.addr != p) } }
  setHead s1 p { head s1 p with unacked := [], fragTyp := 0, fragNext := 0, fragBytes := [], reports := [] }

/-- Messages that the sender repeats until an ACK comes (R96). -/
def repeated (m : DownMsg) : Bool := m.addr != 0xFF && m.typ != 0 && m.typ != 1 && m.typ != 2 && m.typ != 4

/-- Note that a message has gone out in a frame: it waits for its ACK, and a REPORT_REQ starts its limit (R96, R143). -/
def noteSent (s : State) (m : DownMsg) (f : Nat) : State :=
  if repeated m then
    let h := head s m.addr
    let m1 := { m with frame := f }
    let h1 := { h with unacked := h.unacked.filter (fun x => x.mseq != m.mseq) ++ [m1] }
    setHead s m.addr (if m.typ = 0x46 ∧ m.repeats = 0 then
      { h1 with reports := h1.reports ++ [(fld m.payload 0 1, f + 2048)] } else h1)
  else s

/-- The bytes of an ARM (Table PLY.9). -/
def armPayload (s : State) (a : Arm) : Bytes :=
  le 4 a.id ++ le 4 (wireFrame s a.act) ++ le 2 a.offset ++ le 1 (a.mp % 4) ++ le 1 a.cmd ++ zeros 2

/-- Replace the arms of an ID and head. -/
def setArm (s : State) (a : Arm) : State :=
  { s with ply := { s.ply with arms := s.ply.arms.map fun x => if x.id = a.id ∧ x.head = a.head then a else x } }

/-- The earliest CF release, else the first long message (R116). -/
def pickLong (q : List DownMsg) : Option DownMsg :=
  let rel := q.filter (fun m => m.release.isSome)
  match rel with
  | m :: r => some (r.foldl (fun a b => if b.release.getD 0 < a.release.getD 0 then b else a) m)
  | [] => q.head?

/-- Fill the downstream lanes of a frame: reserved ARMs, CANCELs, other short messages, or one long container (R116). -/
def fillLanes (s : State) (f : Nat) : List Bytes × State :=
  let due := s.ply.arms.filter (fun a => a.state == .reserved && a.send == f)
  let armMsg := fun (a : Arm) => (⟨a.head, 1, (head s a.head).mseq, false, 0, armPayload s a, f, none, 0⟩ : DownMsg)
  let s1 := due.foldl (fun st a =>
    let h := head st a.head
    setArm (setHead st a.head { h with mseq := (h.mseq + 1) % 65536 }) { a with state := .sent }) s
  let cancels := (s.ply.queue.filter (fun m => m.typ == 2)).take (4 - due.length)
  let shorts := (s.ply.queue.filter (fun m => !longType m.typ && m.typ != 2)).take (4 - due.length - cancels.length)
  let long := if due.isEmpty && cancels.isEmpty && shorts.isEmpty then
      (pickLong (s.ply.queue.filter (fun m => longType m.typ))).toList else []
  let gone := cancels ++ shorts ++ long
  let s2 := { s1 with ply := { s1.ply with queue := gone.foldl (fun q m => q.erase m) s1.ply.queue,
                                           arms := s1.ply.arms.map (fun a =>
      if cancels.any (fun m => m.addr == a.head && fld m.payload 0 4 == a.id) then { a with cancel := 2, cancelFrame := f } else a) } }
  let s3 := gone.foldl (fun st m => noteSent st m f) s2
  let filled := (due.map armMsg ++ gone).map (fun m => containerBytes s m f)
  (if long.isEmpty then filled ++ List.replicate (4 - filled.length) (zeros 28) else filled, s3)

/-- A head asks for a grant: CTRL_URGENT, or CTRL_PEND (R95). -/
def urgent (h : Head) : Bool := bit h.live.hst 1
def pends (h : Head) : Bool := bit h.live.hst 0 || bit h.live.hst 1

/-- The hub listens to a head's containers. -/
def heard (h : Head) : Bool := h.state == .repeater || h.state == .joining || h.state == .active

/-- The next position after the last grant, in round-robin order, that is in a list. -/
def roundRobin (last : Nat) (l : List Nat) : Option Nat := ((span (last + 1) 64).map (· % 64)).find? (fun p => l.contains p)

/-- The grant of a frame (R95): a head that would otherwise pass 64 frames first (DESIGN CHOICE, log entry 12), then
CTRL_URGENT heads, then CTRL_PEND heads, else heads without a position while the ring did not return whole (R99). -/
def pickGrant (s : State) (f : Nat) : Nat :=
  let want := positions.filter (fun p => heard (head s p) && pends (head s p))
  let pressed := want.filter (fun p => decide (64 ≤ f - (head s p).live.waitFrom.getD f + want.length))
  let urg := want.filter (fun p => urgent (head s p))
  match roundRobin s.ply.lastGrant pressed with
  | some p => p
  | none =>
    match roundRobin s.ply.lastGrant urg with
    | some p => p
    | none =>
      match roundRobin s.ply.lastGrant want with
      | some p => p
      | none => if s.ply.trained && !s.ply.whole then 0xFE else 0xFF

/-- A frame header (Table PLY.2). -/
def headerBytes (s : State) (f ringB grant : Nat) : Bytes :=
  let a := le 4 (wireFrame s f) ++ le 1 (ringB + 2 * clk s) ++ le 1 grant
  a ++ zeros 1 ++ zeros 3 ++ le 2 (crc16 (a ++ zeros 3))

/-! ### Upstream containers -/

/-- What an upstream container holds (Table PLY.5). -/
def boxType (b : Bytes) : Nat := fld b 0 1
def boxAddr (b : Bytes) : Nat := fld b 1 1
def boxMseq (b : Bytes) : Nat := fld b 2 2
def boxLen (b : Bytes) : Nat := fld b 4 1
def boxMore (b : Bytes) : Bool := bit (fld b 5 1) 0
def boxFrag (b : Bytes) : Nat := fld b 6 2
def boxPayload (b : Bytes) : Bytes := slice b 8 (min 92 (boxLen b))

/-- The container came whole: its length and its CRC-32 (Table PLY.5). -/
def boxGood (b : Bytes) : Bool := b.length == 112 && fld b 108 4 == crc32 (b.take 108)

/-- The running frame lies in a head's session, so its containers carry tags (R97). -/
def joined (s : State) (p : Nat) : Bool :=
  (head s p).state == .active && (match (head s p).session with
    | some st => decide (st ≤ s.ply.frame)
    | none => false)

/-- The tag of an upstream container is good (R97). -/
def boxTagOk (s : State) (p : Nat) (b : Bytes) : Bool :=
  let h := head s p
  slice b 100 8 == msgTag (nth 0 h.keys 2) (s.ply.frame - h.session.getD 0) (b.take 100)

/-- A fragment in its order (R94). -/
def fragOk (h : Head) (b : Bytes) : Bool :=
  if boxFrag b = 0 then true else h.fragTyp == boxType b && h.fragNext == boxFrag b

/-- Take an upstream container of a type: CRC, TYPE and fragment order (R90, R94), the tag (R97), one action per MSEQ and
an ACK for every copy (R96); `act` gets the whole message when its last fragment has come. -/
def upstream (s : State) (pos typ : Nat) (b : Bytes) (act : State → Bytes → State) : State :=
  if !boxGood b || !decide (pos < 64) || boxAddr b != pos || !heard (head s pos) then s
  else
    let h := head s pos
    if boxType b ≠ typ ∨ 92 < boxLen b then plyEvent s 0x186 pos [boxType b]
    else if !joinType typ && joined s pos && !boxTagOk s pos b then plyEvent s 0x188 pos [boxType b]
    else
      let ackIt := fun (st : State) => if typ = 0x87 then st else sendShort st pos 4 (le 2 (boxMseq b))
      if h.taken.contains (boxMseq b) then ackIt s
      else if !fragOk h b then plyEvent s 0x186 pos [boxType b]
      else
        let bytes := if boxFrag b = 0 then boxPayload b else h.fragBytes ++ boxPayload b
        let h1 := { h with taken := (boxMseq b :: h.taken).take 64, fragTyp := boxType b,
                           fragNext := if boxMore b then boxFrag b + 1 else 0,
                           fragBytes := if boxMore b then bytes else [] }
        let s1 := ackIt (setHead s pos h1)
        if boxMore b then s1 else act s1 bytes

/-! ### Exclusion, rejoin and training -/

/-- Exclude a head (R109, R110): LEAVE with reason 1 to an ACTIVE or JOINING head, the holdoff, and the hold when three
counted events lie within 3,600 s. -/
def exclude (s : State) (p cause : Nat) (counted : Bool) : State :=
  let h := head s p
  let s0 := if h.state = .active ∨ h.state = .joining then sendShort (dropMessages s p) p 7 [1] else s
  let recent := h.counted.filter (fun t => decide (nowTick s ≤ t + secs 3600))
  let list := if counted then recent ++ [nowTick s] else h.counted
  let s1 := setHeadState s0 p .excluded cause
  setHead s1 p { head s1 p with
    counted := list, held := counted && decide (3 ≤ list.length),
    exclUntil := nowTick s + secs (holdoffS s), join := {} }

/-- Force a re-join: LEAVE with reason 0, and the head goes to REPEATER (R106). -/
def forceRejoin (s : State) (p cause : Nat) : State :=
  let s1 := sendShort (dropMessages s p) p 7 [0]
  let s2 := setHeadState s1 p .repeater cause
  setHead s2 p { head s2 p with join := {} }

/-- An unreachable head becomes ISOLATED with EV_PLY_ISOLATED, unless it is excluded (R110, R112). -/
def isolate (s : State) (p : Nat) : State :=
  if heard (head s p) then plyEvent (setHeadState (dropMessages s p) p .isolated 6) 0x182 p [] else s

/-- Train the ring (R87, R98, R100, R118): positions are new, ENUM and SURVEY go out, and every head joins again. -/
def trainRing (s : State) (obs : TrainObs) : State :=
  let base := if s.ply.started then (s.ply.frame + 256) / 256 * 256 else s.ply.base
  let s0 := positions.foldl (fun a p => if (head a p).state = .absent then a else setHeadState a p .absent 7) s
  let s1 := { s0 with ply := { s0.ply with
    started := false, base := base, frame := base, trained := false, la := obs.la, hop := obs.hop, whole := obs.returned,
    lastA := none, lastB := none, wrapped := false, breakHop := 0x7F, heardA := none, heardB := none, gap := none,
    lastGrant := 63, queue := [], syncFrames := [], unwrapFrame := none, sent := none,
    heads := tmap (fun _ h => ({ verdicts := h.verdicts, win := h.win, counted := h.counted,
                                 configGen := h.configGen } : Head)) s0.ply.heads } }
  if obs.returned && decide (10240 < obs.la) then raise s1 { id := 0x189, data := Config.eventData 0x189 [obs.la] }
  else
    let s2 := if obs.returned && decide (64 < obs.hop) then raise s1 { id := 0x18A, data := Config.eventData 0x18A [obs.hop] } else s1
    let s3 := { s2 with ply := { s2.ply with trained := true,
                                             lastCount := if obs.returned then obs.hop else s2.ply.lastCount } }
    let s4 := sendAll s3 0x40 []
    (positions.filter (fun p => decide (p < obs.hop) || !obs.returned)).foldl
      (fun a p => sendShort (sendShort a p 7 [0]) p 6 []) s4

/-! ### MAC windows (R107–R109) -/

/-- A copy of a window: its own ring's section per frame, or the other ring's (R108). -/
def winCopy (own other : Tbl Bytes) : List (Option Bytes) :=
  (span 0 256).map fun i => match tfind own i with
    | some b => some b
    | none => tfind other i

/-- The message a window tag covers (R107), for a complete copy. -/
def tagMessage (sfc p : Nat) (copy : List (Option Bytes)) : Bytes :=
  le 6 sfc ++ le 1 p ++ (copy.map fun o => ((o.getD []).take 68)).flatten

/-- The tag a copy of the next window carries at index 36 or 164 (Table PLY.4). -/
def tagIn (copy : List (Option Bytes)) (i : Nat) : Option Bytes :=
  match nth none copy i, nth none copy (i + 1) with
  | some a, some b => some (slice a 62 6 ++ slice b 62 2)
  | _, _ => none

/-- The tags received for a window, from both copies of the window that follows. -/
def tagsOf (next : WinRx) : List Bytes :=
  [winCopy next.a next.b, winCopy next.b next.a].flatMap fun c => ([36, 164].filterMap (tagIn c))

/-- The SFC reported at i = 0 disagrees in every copy received (COUNTER). -/
def counterBad (w : WinRx) : Bool :=
  let got := [tfind w.a 0, tfind w.b 0].filterMap id
  !got.isEmpty && got.all (fun b => fld b 62 6 != w.sfc)

/-- Which copies a tag matches (R108). -/
def copyMatches (p : Nat) (w : WinRx) (tag : Bytes) : Bool × Bool :=
  ((be 16 (Config.cmac w.kd (tagMessage w.sfc p (winCopy w.a w.b)))).take 8 == tag,
   (be 16 (Config.cmac w.kd (tagMessage w.sfc p (winCopy w.b w.a)))).take 8 == tag)

/-- Whether every frame's section came on some ring. -/
def winComplete (w : WinRx) : Bool := (winCopy w.a w.b).all (·.isSome)

/-- The verdict of a window (R108): 0 PASS, 1 + cause of Table EVT.9; the causes in the order COUNTER, SECTION_LOST,
TAG_MISSING, TAG_BAD. -/
def verdictOf (p : Nat) (w : WinRx) (next : Option WinRx) : Nat :=
  let tags := match next with
    | some n => tagsOf n
    | none => []
  if winComplete w && tags.any (fun t => (copyMatches p w t).1 || (copyMatches p w t).2) && !counterBad w then 0
  else if counterBad w then 4
  else if !winComplete w then 3
  else if tags.isEmpty then 2
  else 1

/-- The ring whose copy failed although the other matched: 0 A, 1 B (EV_PLY_PATH_TAMPER). -/
def tamperedRing (p : Nat) (w : WinRx) (next : Option WinRx) : Option Nat :=
  let m := (match next with
    | some n => tagsOf n
    | none => []).map (copyMatches p w)
  let a := m.any (·.1)
  let b := m.any (·.2)
  if winCopy w.a w.b = winCopy w.b w.a then none
  else if a && !b then some 1 else if b && !a then some 0 else none

/-- Give a window its verdict: the CF release (R134), and on FAIL the event, the withdrawal of early outputs, the tamper
record and the exclusion (R25, R109). -/
def giveVerdict (s : State) (p w : Nat) : State :=
  let h := head s p
  match tfind h.win w with
  | none => s
  | some rx =>
    if thas h.verdicts w then s
    else
      let next := tfind h.win (w + 1)
      let v := verdictOf p rx next
      let h1 := { h with verdicts := (tput h.verdicts w v).filter (fun x => decide (w < x.1 + 64)),
                         win := tdel h.win w, fails := ((v != 0) :: h.fails).take 16,
                         lastPass := if v = 0 then some w else h.lastPass
                         pilot := if v = 0 then h.live.pilot else h.pilot
                         probe := if v = 0 then (nth none (winCopy rx.a rx.b) 64).map (fun b => (slice b 62 6, 256 * w)) else h.probe }
      let s1 := setHead s p h1
      let s2 := match (if v = 0 then tamperedRing p rx next else none) with
        | some r => headTamper (plyEvent s1 0x185 p [r, wireFrame s (256 * w)]) p 4
        | none => s1
      let s3 := if v = 0 then s2 else
        let e := plyEvent s2 0x184 p [v - 1, wireFrame s (256 * w)]
        let t := if v = 1 ∨ v = 4 then headTamper e p 3 else e
        retract t (v - 1) p (wireFrame s (256 * w))
      let out := decide (v = 1 ∨ v = 4) || decide (v ≠ 0 ∧ 4 ≤ (h1.fails.filter id).length)
      let s4 := if out && (head s3 p).state == .active then exclude s3 p (8 + v) (v == 1) else s3
      if (head s4 p).state = .active then
        sendLong s4 p 0x44 (le 1 2 ++ le 1 (if v = 0 then 1 else 0) ++ zeros 2 ++ le 4 (wireFrame s (256 * w))) (some w)
      else s4

/-- Windows without a verdict whose tag can no longer improve by the other ring's copy: the tag of window w is judged
after index 37 of window w + 1 (R108, DESIGN CHOICE in log entry 13). -/
def judgeTags (s : State) (p : Nat) : State :=
  let h := head s p
  let w := s.ply.frame / 256 - 1
  if s.ply.frame < 256 then s
  else
    match tfind h.win w, tfind h.win (w + 1) with
    | some rx, some next =>
      if thas h.verdicts w || (tagsOf next).isEmpty then s
      else if verdictOf p rx (some next) = 0 ∨ (37 < s.ply.frame % 256 ∧ winComplete rx) then giveVerdict s p w
      else s
    | _, _ => s

/-! ### Timers -/

/-- MESSAGE_REPEAT_EXPIRE (R96). -/
def execMessageRepeatExpire (p mseq : Nat) (s : State) : Out :=
  .next (whenRunning s fun s =>
    let h := head s p
    match h.unacked.find? (fun m => m.mseq == mseq) with
    | none => s
    | some m =>
      if s.ply.frame < m.frame + 64 then s
      else
        let s1 := setHead s p { h with unacked := h.unacked.filter (fun x => x.mseq != mseq) }
        if m.repeats < 8 then
          { s1 with ply := { s1.ply with queue := s1.ply.queue ++ [{ m with repeats := m.repeats + 1 }] } }
        else plyEvent s1 0x187 p [m.typ, m.mseq])

/-- JOIN_STEP_TIMEOUT (R103). -/
def execJoinStepTimeout (p : Nat) (s : State) : Out :=
  .next (whenRunning s fun s =>
    if (head s p).state = .joining ∧ (head s p).join.since + 256 < s.ply.frame then exclude s p 4 false else s)

/-- A head is out of reach on both rings: neither port has heard it in the last 4 frames (R111). -/
def unreachable (s : State) (p : Nat) : Bool :=
  let l := (head s p).live
  max (l.seenA.getD 0) (l.seenB.getD 0) + 4 < s.ply.frame || (l.seenA.isNone && l.seenB.isNone)

/-- EXCLUSION_HOLDOFF_END (R106, R110). -/
def execExclusionHoldoffEnd (p : Nat) (s : State) : Out :=
  .next (whenRunning s fun s =>
    let h := head s p
    if h.state = .excluded ∧ !h.held ∧ h.exclUntil ≤ nowTick s then
      if unreachable s p then plyEvent (setHeadState s p .isolated 6) 0x182 p []
      else forceRejoin s p 5
    else s)

/-- REPORT_TIMEOUT (R143, Table HED.2). -/
def execReportTimeout (p code : Nat) (s : State) : Out :=
  .next (whenRunning s fun s =>
    let h := head s p
    match h.reports.find? (fun r => r.1 == code) with
    | none => s
    | some r =>
      if s.ply.frame < r.2 then s
      else plyEvent (setHead s p { h with reports := h.reports.filter (fun x => x.1 != code) }) 0x202 p [code])

/-- PLY_READMIT (R110). -/
def execPlyReadmit (d : Desc) (p : Nat) (s : State) : Out :=
  .next (hostCmd s d 0x0307 false fun s =>
    checked s d [by0 d, (decide (p < 64), stBadArg), ((head s p).held, stBadState)] fun s =>
      let s1 := setHead s p { head s p with held := false }
      reply (setHeadState s1 p .repeater 5) d stOk [])

/-! ### Joining (R98–R105) -/

/-- The serial a position expects; 0 is ANY (Table PLY.12). -/
def serialFits (s : State) (p serial : Nat) : Bool := expectSerial s p == 0 || expectSerial s p == serial

/-- The position of a head that has none (R99). -/
def assignPosition (s : State) (serial bDist : Nat) : Option Nat :=
  match positions.find? (fun p => expectSerial s p == serial && serial != 0) with
  | some p => some p
  | none => if bDist + 1 ≤ s.ply.lastCount ∧ s.ply.lastCount - 1 - bDist < 64 then some (s.ply.lastCount - 1 - bDist) else none

/-- Record what an ANNOUNCE says (Table PLY.11) and start step 1 of a join. -/
def noteAnnounce (s : State) (p : Nat) (m : Bytes) : State :=
  setHead s p { head s p with
    serial := fld m 0 8, rLat := fld m 8 2, hver := fld m 12 4, mpCount := fld m 12 4 / 256 % 16,
    join := { step := 1, since := s.ply.frame, certLen := fld m 10 2 } }

/-- An ANNOUNCE from a head that holds a position (R98, R106, R119). -/
def announced (s : State) (p : Nat) (m : Bytes) : State :=
  let s0 := if (head s p).state = .active ∨ (head s p).state = .joining then forceRejoin s p 5 else s
  if fld m 12 1 ≠ 1 then plyEvent s0 0x200 p []
  else if (head s0 p).unsupported then s0
  else if !serialFits s0 p (fld m 0 8) then headMismatch (setHead s0 p { head s0 p with serial := fld m 0 8 }) p
  else noteAnnounce s0 p m

/-- ANNOUNCE (R98, R99): under grant 0xFE it comes from a head without a position. -/
def execAnnounce (pos : Nat) (box : Bytes) (s : State) : Out :=
  .next (whenRunning s fun s =>
    if pos = 0xFE then
      if !boxGood box then s
      else if boxType box ≠ 0x81 then raise s { id := 0x186, data := Config.eventData 0x186 [boxType box] }
      else
        let m := boxPayload box
        match assignPosition s (fld m 0 8) (fld m 16 1) with
        | none => headMismatch s 0xFFFF
        | some p =>
          if (head s p).state ≠ .absent then headMismatch s p
          else if !serialFits s p (fld m 0 8) then headMismatch s p
          else sendAll (noteAnnounce s p m) 0x08 (le 8 (fld m 0 8) ++ le 1 p)
    else upstream s pos 0x81 box fun s m => announced s pos m)

/-- The issuer anchors: Treten's, and those tenant 0 has configured (R102). -/
def anchors (s : State) : List Bytes :=
  Config.headAnchor :: (span 0 (min 3 (cfg s (objCode objRing 0) 516 1))).map (fun i => cfgBytes s (objCode objRing 0) (520 + 64 * i) 64)

/-- A head certificate passes R102: its size, its chain, its serial, and its dates while time trust is TRUSTED. -/
def certOk (s : State) (h : Head) (c : Bytes) : Bool :=
  decide (c.length ≤ 736) && c.length == h.join.certLen && Config.certChains c (anchors s) && Config.certSerial c == h.serial &&
  (tt s != 0 || Config.certDatesOk c (utcTicks s))

/-- Start the hub's side of a join: HUB_CERT and JOIN_HUB with a fresh ephemeral key and nonce (R103, Table PLY.10). -/
def startJoin (s : State) (p : Nat) (cert : Bytes) : State :=
  let (e, s1) := takeFree s
  let (n, s2) := takeFree s1
  let h := head s2 p
  let content := Config.ephemeralPublic e ++ be 16 n
  let sig := Config.ecdsaSign Config.deviceKey (Config.sha256 (content ++ le 8 h.serial)) s2.free
  let s3 := setHead s2 p { h with
    datesUnchecked := tt s != 0,
    join := { h.join with step := 2, since := s.ply.frame, cert := cert, ephemeral := e, hubContent := content } }
  sendLong (sendLong s3 p 0x41 Config.hubCert none) p 0x42 (content ++ pad 64 sig) none

/-- CERT (R102, R103): the last fragment starts the join or excludes the head; while the DRBG is not instantiated the join
waits (R330). -/
def execCert (pos : Nat) (box : Bytes) (s : State) : Out :=
  .next (whenRunning s fun s => upstream s pos 0x82 box fun s cert =>
    let h := head s pos
    if h.state ≠ .repeater ∨ h.join.step ≠ 1 ∨ h.unsupported then s
    else
      let s1 := setHeadState s pos .joining 1
      if !certOk s1 h cert then exclude s1 pos 2 true
      else if s.key.drbg then startJoin s1 pos cert
      else setHead s1 pos { head s1 pos with join := { h.join with cert := cert, since := s.ply.frame } })

/-- A JOINING head whose serial no longer fits its position goes back to REPEATER (Table PLY.7). -/
def mismatchBack (s : State) (p : Nat) : State :=
  headMismatch (setHeadState (sendShort (dropMessages s p) p 7 [2]) p .repeater 3) p

/-- JOIN_HEAD (R103–R105): the signature is checked, the session keys derived, JOIN_CONFIRM sent. -/
def execJoinHead (pos : Nat) (box : Bytes) (s : State) : Out :=
  .next (whenRunning s fun s => upstream s pos 0x83 box fun s m =>
    let h := head s pos
    if h.state ≠ .joining ∨ h.join.step ≠ 2 then s
    else if !serialFits s pos h.serial then mismatchBack s pos
    else
      let content := m.take 80
      if !Config.ecdsaVerify (Config.certKey h.join.cert) (Config.sha256 (h.join.hubContent ++ content)) (slice m 80 64) then
        exclude s pos 2 true
      else
        let salt := slice h.join.hubContent 64 16 ++ slice m 64 16
        let info := [0x50, 0x4C, 0x59, 0x31] ++ le 8 h.serial ++ le 8 Config.deviceId
        let key := fun i => Config.sessionKey h.join.ephemeral (m.take 64) salt info i
        let hash := sha256 (h.join.hubContent ++ content)
        let start := (s.ply.frame + 256 + 255) / 256 * 256
        let confirm := be 16 (Config.cmac (key 3) (0x48 :: hash))
        let s1 := setHead s pos { h with
          keys := [key 0, key 1, key 2, key 3],
          join := { h.join with step := 4, since := s.ply.frame, transcript := hash, start := start } }
        sendLong s1 pos 0x43 (confirm ++ le 4 (wireFrame s start)) none)

/-- JOIN_FINISH (R105, R143): the head is ACTIVE and its reports are asked for. -/
def execJoinFinish (pos : Nat) (box : Bytes) (s : State) : Out :=
  .next (whenRunning s fun s => upstream s pos 0x84 box fun s m =>
    let h := head s pos
    if h.state ≠ .joining ∨ h.join.step ≠ 4 then s
    else if !serialFits s pos h.serial then mismatchBack s pos
    else if m.take 16 ≠ be 16 (Config.cmac (nth 0 h.keys 3) (0x44 :: h.join.transcript)) then exclude s pos 2 false
    else
      let s1 := setHead s pos { h with session := some h.join.start, fails := [], join := { cert := h.join.cert }, taken := h.taken }
      let s2 := setHeadState s1 pos .active 1
      let s3 := setHead { s2 with key := { s2.key with ringGens := tput s2.key.ringGens pos (tget 0 s2.key.ringGens pos + 1) } } pos
        { head s2 pos with ended := none }
      sendLong (sendLong (sendLong s3 pos 0x46 [0] none) pos 0x46 [1] none) pos 0x46 [2] none)

/-! ### Replies -/

/-- ACK from a head (R96): the repetition of a message ends; the last CONFIG fragment's ACK is noted (R137, R535). -/
def execAck (pos : Nat) (box : Bytes) (s : State) : Out :=
  .next (whenRunning s fun s => upstream s pos 0x87 box fun s m =>
    let h := head s pos
    setHead s pos { h with
      unacked := h.unacked.filter (fun x => x.mseq != fld m 0 2),
      configAcked := h.configAcked || decide (h.configMseq = fld m 0 2) })

/-- A report reply is complete. -/
def reportDone (s : State) (p code : Nat) : State :=
  setHead s p { head s p with reports := (head s p).reports.filter (fun r => r.1 != code) }

/-- A VERSION declares what R119 needs: PROTO 1 and every capability bit of Table HED.4. -/
def versionOk (m : Bytes) : Bool := fld m 0 1 == 1 && fld m 20 2 % 32 == 31

/-- Tamper of a head event entry (R404): stamp and ticks of its instant, ESTIMATED when its frame is a local count. -/
def entryInstant (s : State) (p : Nat) (e : Bytes) : (Stamp × Nat) × Bool :=
  let local_ := bit (fld e 6 1) 0
  let f := fld e 8 4
  if local_ then
    match (head s p).span with
    | some (a, b, n) => (frameInstant s (a + f * (b - a) / max 1 n), true)
    | none => ((nowStamp s, nowTick s), true)
  else (frameInstant s (frameOf s f), false)

/-- One entry of a head's event buffer (R146, Table HED.6): EV_HED_EVENT, and the tamper counts of COVER and MAGNET. -/
def takeEntry (s : State) (p : Nat) (e : Bytes) : State :=
  let h := head s p
  let seq := fld e 0 4
  if seq ≤ tget 0 s.ply.eventSeqs h.serial then s
  else
    let s1 := { s with ply := { s.ply with eventSeqs := tput s.ply.eventSeqs h.serial seq } }
    let code := fld e 4 1
    let s2 := raise s1 { id := 0x203, src := p, star := [0x0A, 0x0B, 0x0C, 0x0E].contains code,
                         data := Config.eventData 0x203 [p, seq, code, fld e 5 1, fld e 6 1, fld e 8 4, fld e 12 4] }
    let at_ := entryInstant s p e
    let seen := if code = 5 then h.live.coverAt else h.live.magnetAt
    if (code = 5 ∨ code = 6) ∧ bit (fld e 12 4) 0 then
      (span (4 * p) 4).foldl (fun a m => tamperAt a m (code - 5) 1 (max at_.1.1 seen.1) (max at_.1.2 seen.2) at_.2) s2
    else s2

/-- EVENT (R146): entries once per SEQ, and OVF entries counted as COVER_OPEN (R404). -/
def execEvent (pos : Nat) (box : Bytes) (s : State) : Out :=
  .next (whenRunning s fun s => upstream s pos 0x8B box fun s m =>
    let s1 := (span 0 (min 5 (fld m 0 1))).foldl (fun a n => takeEntry a pos (slice m (4 + 16 * n) 16)) s
    let ovf := fld m 2 2
    let s2 := if ovf = 0 then s1 else
      (span (4 * pos) 4).foldl (fun a q => tamperAt a q 0 ovf (nowStamp a) (nowTick a) true) s1
    reportDone s2 pos 2)

end Sys2Proof.Machine
end

