-- ==== Sys2Proof/Machine/Trig.lean ====
section
/-!
DEFINITION. Integer arithmetic the metrology array's transforms need: cosines and sines of rational turns, angles, and
rounded square roots.  DESIGN CHOICE (log entry 14): 60 fraction bits, well inside the accuracy of R207.
-/
namespace Sys2Proof.Machine

/-- 2^60, one unit of the transforms' fixed point. -/
def fixOne : Int := 1152921504606846976

/-- 2π in 1/2^60. -/
def fixTau : Int := 7244019458077122842

/-- Terms of a Taylor series: `t` is the running term, `x2` the square of the angle, `n` the next denominator. -/
def taylor : Nat → Int → Int → Int → Int
  | 0, _, _, _ => 0
  | k + 1, t, x2, n => t + taylor k (-(t * x2 / fixOne) / (n * (n + 1))) x2 (n + 2)

/-- Cosine of `m/n` of a turn, folded to ± half a turn. -/
def cosTurn (m n : Nat) : Int :=
  let r : Int := if 2 * (m % n) ≤ n then (m % n : Nat) else (m % n : Nat) - (n : Int)
  let x := fixTau * r / n
  taylor 18 fixOne (x * x / fixOne) 1

/-- Sine of `m/n` of a turn. -/
def sinTurn (m n : Nat) : Int :=
  let r : Int := if 2 * (m % n) ≤ n then (m % n : Nat) else (m % n : Nat) - (n : Int)
  let x := fixTau * r / n
  taylor 18 x (x * x / fixOne) 2

/-- Halving search for the angle of (x, y) in 1/131,072 turn: the largest a, by steps from 2^k, that does not pass it. -/
def angleSearch : Nat → Int → Int → Nat → Nat
  | 0, _, _, a => a
  | k + 1, x, y, a =>
    if 0 ≤ y * cosTurn (a + 2 ^ k) 131072 - x * sinTurn (a + 2 ^ k) 131072 then angleSearch k x y (a + 2 ^ k)
    else angleSearch k x y a

/-- The angle of a vector, rounded to 1/65,536 turn, 0 to 65,535. -/
def angleOf (x y : Int) : Nat :=
  ((if y < 0 ∨ (y = 0 ∧ x < 0) then 65536 + angleSearch 16 (-x) (-y) 0 else angleSearch 16 x y 0) + 1) / 2 % 65536

/-- The square root of a/b rounded half up. -/
def rootDiv (a b : Nat) : Nat := (isqrt (4 * a / max 1 b) + 1) / 2

/-- The integer nearest to a rational, halves away from zero (R615). -/
def roundRat (q : Rat) : Int := roundDiv q.num q.den

end Sys2Proof.Machine
end

