-- ==== Sys2Proof/Machine/HeadConfig.lean ====
section
/-!
DEFINITION. The head calibration copy: its derivation from the calibration objects, its sending, and what follows when a head
has not acknowledged it in time (R137, R184, R535, Table HED.3).
-/
namespace Sys2Proof.Machine

/-- The frame of the first boundary whose frame is at least f: boundary and frame (R226, R48). -/
def boundaryFrom (s : State) (f : Nat) : Nat × Nat :=
  let j := (span 1 64).find? (fun j => decide (f ≤ stampFrames s (mkStamp (nowCycle s + j) 0) / 65536))
  let b := nowCycle s + j.getD 64
  (b, stampFrames s (mkStamp b 0) / 65536)

/-- The power of two 2^a / 2^b. -/
def powRatio (a b : Nat) : Rat := ((2 ^ a : Nat) : Rat) / ((2 ^ b : Nat) : Rat)

/-- GAIN of channel `i` of a head, 0 to 3 for V1 to V4 and 4 to 15 for I1 to I12 (R184). -/
def headGain (s : State) (p i : Nat) : Int :=
  let c := 17 * p + i
  let sh := cfg s (objCode objFilter 0) (16 * c + 2) 2
  let shift := sh % 16 + sh / 16 % 16 + sh / 256 % 16
  let base : Rat := ((cfg s (objCode objScale 0) (8 + 8 * c) 4 : Nat) : Rat) *
    powRatio 37 (cfg s (objCode objScale 0) (8 + 8 * c + 4) 1 + shift) / 1000
  if i < 4 then roundRat base
  else
    let m := 4 * p + (i - 4) / 3
    let ph := if mpType s m = 1 then mpField s m 1 1 else (i - 4) % 3
    let gp : Rat := ((signed 32 (mpField s m (4 + 4 * ph) 4) : Int) : Rat)
    roundRat (base * (1 + gp / ((1073741824 : Nat) : Rat)))

/-- The head configuration object up to its CRC, as the objects in force derive it (R184, Table HED.3). -/
def headCopyBody (s : State) (p gen apply : Nat) : Bytes :=
  le 2 1 ++ zeros 2 ++ le 4 gen ++ le 4 apply ++ pad 16 (Config.headPolicy p) ++
  ((span (4 * p) 4).flatMap fun m => le 4 (mpField s m 52 4) ++ le 1 (mpField s m 56 1) ++ le 1 (mpField s m 57 1) ++ zeros 2) ++
  ((span 0 16).flatMap fun i => leInt 4 (headGain s p i)) ++
  ((span 0 16).flatMap fun i => leInt 4 (cfgInt s (objCode objFilter 0) (16 * (17 * p + i) + 4) 4)) ++
  ((span (4 * p) 4).flatMap fun m => le 4 (mpField s m 40 4)) ++ le 4 (Config.headPilot p)

/-- The whole object (Table HED.3). -/
def headCopy (s : State) (p gen apply : Nat) : Bytes :=
  let b := headCopyBody s p gen apply
  b ++ le 4 (crc32 b)

/-- Send the copy that the objects of `src` derive, to apply at a frame, in CONFIG fragments (R137, Table HED.3). -/
def sendConfig (s src : State) (p f : Nat) : State :=
  let frags := (chunks 91 16 (headCopy src p (tget 0 s.ply.configGens p) (wireFrame s f))).map fun b => 1 :: b
  let s1 := queueFrags s p 0x44 0 none frags
  setHead s1 p { head s1 p with applyFrame := some f, configAcked := false, configMseq := ((head s1 p).mseq + 65535) % 65536 }

/-- After every join: send the configuration again when the head's generation is not the hub's (R137). -/
def compareConfig (s : State) (p : Nat) : State :=
  if (head s p).configGen = tget 0 s.ply.configGens p then s
  else sendConfig s s p (boundaryFrom s (s.ply.frame + 32)).2

/-- The copy of a position changes between two states of the objects (R184). -/
def copyChanges (old new : State) (p : Nat) : Bool := headCopyBody old p 0 0 != headCopyBody new p 0 0

/-- Send the changed copies of the objects in `src` to the ACTIVE heads, to apply at a frame; the generation of every changed
copy rises (R184). -/
def sendCopies (s src : State) (f : Nat) : State :=
  positions.foldl (fun a p =>
    if copyChanges s src p then
      let g := { a with ply := { a.ply with configGens := tput a.ply.configGens p (tget 0 a.ply.configGens p + 1) } }
      if (head g p).state = .active then sendConfig g src p f else g
    else a) s

/-- At a frame: a copy acknowledged by its APPLY_FRAME is in force at the head; one that is not goes out again for the next
boundary at least 32 frames ahead, with EV_SLU_HEAD_LATE (R535). -/
def configFrame (s : State) (p : Nat) : State :=
  let h := head s p
  match h.applyFrame with
  | none => s
  | some f =>
    if h.state ≠ .active then setHead s p { h with applyFrame := none, configAcked := true }
    else if s.ply.frame < f then s
    else if h.configAcked then setHead s p { h with applyFrame := none, configGen := tget 0 s.ply.configGens p }
    else
      let n := (boundaryFrom s (s.ply.frame + 32)).2
      let s1 := sendConfig s s p n
      raise s1 { id := 0x7C4, src := p, data := le 1 p ++ le 4 (tget 0 s1.ply.configGens p) ++ le 4 (wireFrame s1 n) }

end Sys2Proof.Machine
end

