-- ==== Sys2Proof/Machine/Filter.lean ====
section
/-!
DEFINITION. The sample path: raw histories, the filter chain and resampler, detectors and thresholds, and synchronising
resets (06_filter_chain.md).
-/
namespace Sys2Proof.Machine

/-! ### Channels -/

/-- A channel. -/
def chan (s : State) (c : Nat) : Chan := tget {} s.flt.chans c

/-- Replace a channel. -/
def setChan (s : State) (c : Nat) (x : Chan) : State := { s with flt := { s.flt with chans := tput s.flt.chans c x } }

/-- The head of a channel, or none for the local channels (Table FLT.1). -/
def chanHead (c : Nat) : Option Nat := if c < 1088 then some (c / 17) else none

/-- The 17 channels of a head, and the 8 local channels (Table FLT.1). -/
def headChans (p : Nat) : List Nat := span (17 * p) 17
def localChans : List Nat := span 1088 8

/-- The objects in force at a cycle (R26, R159): those replaced by a later commit are still read for earlier outputs. -/
def atCycle (s : State) (n : Nat) : State :=
  match s.slu.past.find? (fun p => decide (n < p.1)) with
  | some p => { s with slu := { s.slu with force := p.2 } }
  | none => s

/-- The boundary log entry of a cycle. -/
def logEntry (s : State) (n : Nat) : Option BndEntry := s.clk.log.find? (fun e => e.cycle == n)

/-- The cycle that follows n in the boundary log (a forward step skips numbers). -/
def nextCycle (s : State) (n : Nat) : Option Nat :=
  (s.clk.log.filter (fun e => decide (n < e.cycle))).foldl (fun (a : Option Nat) e => match a with
    | none => some e.cycle
    | some m => some (min m e.cycle)) none

/-- The tracked frequency of cycle n (R153): as logged at the boundary that ended it, or the clock's own for the running cycle. -/
def cycleFreq (s : State) (n : Nat) : Nat :=
  match (nextCycle s n).bind (logEntry s) with
  | some e => max 1 e.freq
  | none => max 1 s.clk.freq

/-- The frame position of boundary n in 1/65,536 frame (Table CYC.5). -/
def cycleFrame (e : BndEntry) : Nat := e.frame * 65536 + e.frameFrac

/-- The output after (n, k). -/
def nextOutput (s : State) (n k : Nat) : Option (Nat × Nat) :=
  if k < 127 then some (n, k + 1) else (nextCycle s n).map (fun m => (m, 0))

/-! ### Chain parameters -/

/-- The spare of a head or of the local set (64). -/
def spare (s : State) (p : Nat) : Spare := tget {} s.pqe.spares p

/-- The spare set a channel belongs to, and its SP channel. -/
def spareSet (c : Nat) : Nat := if c < 1088 then c / 17 else 64
def spChan (p : Nat) : Nat := if p < 64 then 17 * p + 16 else 1095

/-- The first channel of a spare set. -/
def setBase (p : Nat) : Nat := if p < 64 then 17 * p else 1088

/-- The filter object entry a channel runs under: SP takes that of the channel it is connected to (R225). -/
def filterEntry (s : State) (c : Nat) : Nat :=
  let p := spareSet c
  if c = spChan p ∧ (spare s p).phase ≠ .idle then setBase p + (spare s p).ch else c

/-- A field of the channel filter object (Table FLT.5). -/
def filterField (s : State) (c off n : Nat) : Nat := cfg s (objCode objFilter 0) (16 * filterEntry s c + off) n

/-- Median points M (R150). -/
def medianOf (s : State) (c : Nat) : Nat := 2 * (filterField s c 0 1) + 1

/-- Coefficient set of a channel. -/
def firSet (s : State) (c : Nat) : Nat := filterField s c 1 1

/-- Taps N of a channel: 63 for the ROM set (R152). -/
def tapsOf (s : State) (c : Nat) : Nat := if firSet s c = 0 then 63 else cfg s (objCode objCoef (firSet s c)) 0 1

/-- Whether cycle n runs the 0-LOW filter (R152). -/
def lowBandOf (s : State) (n : Nat) : Bool :=
  match logEntry s n with
  | some e => bit e.state 7
  | none => s.clk.lowBand

/-- Coefficient j of a channel's set in cycle n: ROM coefficients 0–62 are 0-LOW, 64–126 are 0-HIGH. -/
def coefOf (s : State) (c n j : Nat) : Int :=
  let k := firSet s c
  if k = 0 then Config.romCoefficient (if lowBandOf s n then j else 64 + j)
  else signed 24 (cfg s (objCode objCoef k) (8 + 3 * j) 3)

/-- GD_FIR of a channel's set, in 1/65,536 sample. -/
def gdFir (s : State) (c : Nat) : Nat := if firSet s c = 0 then 31 * 65536 else cfg s (objCode objCoef (firSet s c)) 4 4

/-- DELAY of a channel. -/
def delayOf (s : State) (c : Nat) : Int := signed 32 (filterField s c 4 4)

/-- GD_LOC, in 1/64 modulator clock (5,448 clocks). -/
def gdLoc : Nat := 348672

/-- Twice dA and GD of a head for the outputs of cycle n (R160). -/
def headDelay (s : State) (p n : Nat) : Int × Nat :=
  let h := head s p
  match h.oldDelay with
  | some (m, d, g) => if n < m then (d, g) else (h.dA2.getD 0, h.gd)
  | none => (h.dA2.getD 0, h.gd)

/-- The offset O of a channel in cycle n (R154, Table FLT.2). -/
def offsetOf (s : State) (c n : Nat) : Int :=
  let m := medianOf s c
  let dg := match chanHead c with
    | some p => headDelay s p n
    | none => (0, gdLoc)
  delayOf s c + roundDiv (64 * dg.2) 25 + ((m - 1) / 2 * 65536 : Nat) + (gdFir s c : Int) - roundDiv (dg.1 * 65536) 96000

/-- The label position p of output k of cycle n, in 1/65,536 label (R153, R154). -/
def labelPos (s : State) (e : BndEntry) (c k : Nat) : Int :=
  let f := cycleFreq s e.cycle
  roundDiv ((cycleFrame e * 128 * f + k * 10240 * 4294967296 : Nat) + offsetOf s c e.cycle * (128 * f : Nat)) (128 * f)

/-! ### The chain (R148–R158) -/

/-- Shift right by S + `extra` with rounding, and saturate to 32 bits: the value, and whether it saturated (R149). -/
def shiftSat (v : Int) (sh extra : Nat) : Int × Bool :=
  let q := if sh + extra = 0 then v else (v + 2 ^ (sh + extra - 1)) / 2 ^ (sh + extra)
  (satInt 32 q, satInt 32 q != q)

/-- The raw sample at a label; before the history it is 0 and SETTLE (R177). -/
def rawAt (x : Chan) (l : Int) : Raw := if x.label < l then ⟨0, 2⟩ else nth ⟨0, 2⟩ x.raw (x.label - l).toNat

/-- Internal mark of a spare-sourced sample: it takes the trim (R225). -/
def spareMark : Nat := 64

/-- The converted input at a label (R148, R171, R225). -/
def inputAt (s : State) (c : Nat) (x : Chan) (l : Int) : Int :=
  let r := rawAt x l
  let cleared := match x.reset with
    | some (r0, _) => decide (l < r0)
    | none => false
  if cleared then 0
  else if bit r.flags 6 then
    let e := 8 + 8 * spChan (spareSet c)
    satInt 32 (roundDiv (r.val * 128 * (cfg s (objCode objScale 0) e 4 : Nat)) (2 ^ cfg s (objCode objScale 0) (e + 4) 1))
  else r.val * 128

/-- Insert a value in a rising list. -/
def insertInt (v : Int) : List Int → List Int
  | [] => [v]
  | a :: r => if v ≤ a then v :: a :: r else a :: insertInt v r

/-- The median of the first M values of a list. -/
def medianAt (m : Nat) (l : List Int) : Int := nth 0 ((l.take m).foldl (fun a v => insertInt v a) []) ((m - 1) / 2)

/-- Sum of products of two lists. -/
def dot : List Int → List Int → Int
  | a :: r, b :: t => a * b + dot r t
  | _, _ => 0

/-- The suffixes of a list, `n` of them. -/
def tailsN {α : Type} : Nat → List α → List (List α)
  | 0, _ => []
  | n + 1, l => l :: tailsN n l.tail

/-- One output of a channel, and the first stage that saturated (1 median, 2 FIR, 3 resampler; 0 none). -/
def chainOutput (s : State) (c n k : Nat) (p : Int) : OutSample × Nat :=
  let x := chan s c
  let m := medianOf s c
  let taps := tapsOf s c
  let i := p / 65536
  let f := (p % 65536).toNat
  let lo := i - 7 - ((taps - 1 : Nat) : Int) - ((m - 1 : Nat) : Int)
  let hi := i + 8
  let count := 16 + (taps - 1) + (m - 1)
  let labels := (span 0 count).map (fun (d : Nat) => hi - (d : Int))
  let ins := labels.map (inputAt s c x)
  let sh := filterField s c 2 2
  let meds := (tailsN (16 + (taps - 1)) ins).map (fun l => shiftSat (medianAt m l) (sh % 16) 0)
  let cs := (span 0 taps).map (coefOf s c n)
  let firs := (tailsN 16 (meds.map (·.1))).map (fun l => shiftSat (dot cs l) (sh / 16 % 16) 22)
  let ys := firs.map (·.1)
  let phi := f / 256
  let a := dot ((span 0 16).map fun j => Config.romResampler (256 * j + phi)) ys
  let b := if phi < 255 then dot ((span 0 16).map fun j => Config.romResampler (256 * j + phi + 1)) ys
    else dot ((span 1 15).map fun j => Config.romResampler (256 * j)) ys
  let alpha : Int := (f % 256 : Nat)
  let res := shiftSat ((256 - alpha) * a + alpha * b) (sh / 256 % 16) 30
  let stage : Nat := if meds.any (·.2) then 1 else if firs.any (·.2) then 2 else if res.2 then 3 else 0
  let flags := labels.foldl (fun fl l => fl ||| (rawAt x l).flags) 0 % 32
  let settle := match x.reset with
    | some (r, full) => decide (lo < r ∧ r ≤ hi) || (full && decide (lo ≤ r + 31 ∧ r ≤ hi))
    | none => false
  let fl := (flags ||| (if settle then 2 else 0)) ||| (if stage = 0 then 0 else 8)
  (⟨n, k, res.1, fl, lo, hi⟩, stage)

/-! ### Derivation ranges and early events (R167, R394) -/

/-- The windows of a head that hold labels lo to hi, as (head, first frame of the first, first frame of the last). -/
def winRange (p : Nat) (lo hi : Int) : List (Nat × Nat × Nat) := [(p, lo.toNat / 256 * 256, hi.toNat / 256 * 256)]

/-- The derivation range of a channel's labels. -/
def chanRange (c : Nat) (lo hi : Int) : List (Nat × Nat × Nat) :=
  match chanHead c with
  | some p => winRange p lo hi
  | none => []

/-- WSTART and NWIN of a range, as records carry them. -/
def rangeStart (s : State) (r : List (Nat × Nat × Nat)) : Nat :=
  match r with
  | [] => 0
  | a :: t => wireFrame s (t.foldl (fun m x => min m x.2.1) a.2.1)
def rangeCount (r : List (Nat × Nat × Nat)) : Nat := nsum (r.map fun x => (x.2.2 - x.2.1) / 256 + 1)

/-- A window of a head has the verdict FAIL. -/
def failed (s : State) (p w : Nat) : Bool := tget 0 (head s p).verdicts w != 0

/-- The first FAIL window of a derivation range. -/
def firstFailed (s : State) (r : List (Nat × Nat × Nat)) : Option (Nat × Nat) :=
  r.findSome? fun x => ((span (x.2.1 / 256) ((x.2.2 - x.2.1) / 256 + 1)).find? (failed s x.1)).map (fun w => (x.1, w))

/-- Raise an early event; when a window of its range has failed already, it is withdrawn at once (R25, When things
coincide). -/
def raiseEarly (s : State) (e : EvReq) (range : List (Nat × Nat × Nat)) : State :=
  let e1 : EvReq := { e with range := range, early := !range.isEmpty }
  match firstFailed s range with
  | none => raise s e1
  | some (p, w) =>
    let s := issueBatch s
    let s1 := issueBatch (raise s e1)
    let refs := s1.ev.early.filter (fun r => decide (s.ev.next ≤ r.eseq) && r.id == e.id)
    let s2 := refs.foldl (fun a r => retractEvent a r (tget 0 (head s p).verdicts w - 1) p (wireFrame s (256 * w))) s1
    { s2 with ev := { s2.ev with early := s2.ev.early.filter (fun r => !refs.contains r) } }

/-! ### Detectors (R161–R164) -/

/-- Outputs excluded from detectors (R162). -/
def excludedOut (o : OutSample) : Bool := bit o.flags 0 || bit o.flags 1

/-- The RMS of a run of outputs. -/
def rmsOf (l : List OutSample) : Nat := rootDiv (nsum (l.map fun o => (o.val * o.val).toNat)) l.length

/-- PEAK and RMS_HALF of a half-cycle's 64 outputs; none when one is excluded (Table FLT.7a). -/
def halfOf (l : List OutSample) : Option Half :=
  if l.length < 64 ∨ l.any excludedOut then none
  else some ⟨l.foldl (fun a o => if a.natAbs < o.val.natAbs then o.val else a) 0, rmsOf l,
    l.any (fun o => bit o.flags 2 || bit o.flags 3), l.any (fun o => bit o.flags 3), l.any (fun o => bit o.flags 4)⟩

/-- RMS over a run of `n` outputs that follow one another without a gap; none otherwise. -/
def rmsRun (l : List OutSample) (n : Nat) : Option Nat := if l.length < n ∨ l.any excludedOut then none else some (rmsOf l)

/-- Window length in cycles (R161): 10 at nominal 50 Hz, 12 at 60 Hz. -/
def winLen (s : State) : Nat := if s.bkd.nominal60 then 12 else 10

/-- The outputs of a whole window that ends with cycle n, when the window was not interrupted (R161, R163). -/
def windowOuts (s : State) (x : Chan) (n : Nat) : Option (List OutSample) :=
  let w := winLen s
  let l := x.outs.take (128 * w)
  if (n + 1) % w = 0 ∧ s.flt.nomSince ≤ n + 1 - w ∧ l.length = 128 * w ∧ (l.getLast?.map (fun o => (o.cycle, o.k))) = some (n + 1 - w, 0) then some l else none

/-- The envelope after one output, in 1/2^20 (R164). -/
def envStep (attK decK e : Nat) (y : Int) : Nat :=
  let v := y.natAbs * 1048576
  if e < v then e + (v - e) / 2 ^ attK else e - (e - v) / 2 ^ decK

/-! ### Thresholds (R165–R167, Table FLT.4) -/

/-- A threshold's object bytes (Table FLT.7). -/
def thrCfg (s : State) (c t : Nat) : Bytes := cfgBytes s (objCode objDetect 0) (68 * c + 4 + 16 * t) 16

/-- Source of a threshold. -/
def thrSource (b : Bytes) : Nat := fld b 0 1 / 4 % 8

/-- The condition of a threshold is met, and cleared (R165). -/
def thrMet (b : Bytes) (v : Int) : Bool := if bit (fld b 0 1) 1 then decide (v < fld b 4 4) else decide ((fld b 4 4 : Int) < v)
def thrCleared (b : Bytes) (v : Int) : Bool :=
  if bit (fld b 0 1) 1 then decide ((fld b 4 4 : Int) + fld b 8 4 < v) else decide (v < (fld b 4 4 : Int) - fld b 8 4)

/-- Consecutive evaluations a count of cycles stands for (R165). -/
def thrCount (b : Bytes) (q : Nat) : Nat := if thrSource b = 3 then q else 2 * q

/-- EV_FLT_THR (Table FLT.8). An EXIT with RESET rests on no evaluation, so it names no window and is never retracted (DESIGN
CHOICE, log entry 31). -/
def thrEvent (s : State) (c t : Nat) (x : Thr) (exit reset : Bool) (src : Nat) : State :=
  let range := if reset then [] else chanRange c x.lo x.hi
  let s := if exit then s else { s with pqe := { s.pqe with trigs := s.pqe.trigs ++ [(c, x.stamp, x.lo, x.hi)] } }
  raiseEarly s {
    id := 0x280, src := c,
    data := le 2 c ++ le 1 (t + flag exit 2 + flag reset 3 + flag x.clip 4) ++ le 1 src ++ le 7 x.stamp ++ le 1 (clk s) ++
      leInt 4 x.extreme ++ le 4 (rangeStart s range) ++ le 2 (rangeCount range) ++ zeros 2 } range

/-- An ENTER stands unretracted and without an EXIT (R167). -/
def thrOpen (x : Thr) : Bool := x.stands.getLast?.elim false fun e => !e.1

/-- Close an ENTER that stands without an EXIT by an EXIT with RESET (R167, Table FLT.4). -/
def thrClose (s : State) (c t : Nat) (x : Thr) : State × Thr :=
  if thrOpen x then (thrEvent s c t x true true (thrSource x.cfg), { x with stands := x.stands ++ [(true, -1, -1)] }) else (s, x)

/-- Raise the ENTER or the EXIT of a run that is complete.  When a window of its range has failed already, the event has been
retracted with it, and the threshold returns to IDLE at once (R167, When things coincide). -/
def thrRaise (s : State) (c t : Nat) (x : Thr) (exit : Bool) : State × Thr :=
  let s1 := thrEvent s c t x exit false (thrSource x.cfg)
  if (firstFailed s (chanRange c x.lo x.hi)).isSome then thrClose s1 c t { x with state := .idle, count := 0 }
  else (s1, { x with state := if exit then .idle else .active, count := 0, stands := (x.stands ++ [(exit, x.lo, x.hi)]).drop (x.stands.length - 7) })

/-- The more extreme value of a run: away from the level. -/
def moreExtreme (b : Bytes) (a v : Int) : Int := if bit (fld b 0 1) 1 then min a v else max a v

/-- Bring a threshold under the object in force: a committed change or a disable resets it (Table FLT.4). -/
def thrCommit (s : State) (c t : Nat) (x : Thr) (b : Bytes) : State × Thr :=
  if x.cfg = b then (s, x)
  else
    let r := thrClose s c t x
    (r.1, { cfg := b, state := if bit (fld b 0 1) 0 then .idle else .disabled, stands := r.2.stands })

/-- One evaluation of a threshold that has a value (Table FLT.4). -/
def thrStep (s : State) (c t : Nat) (x : Thr) (v : Int) (clip : Bool) (stamp : Stamp) (lo hi : Int) : State × Thr :=
  let b := x.cfg
  let fresh := fun (st : ThrState) => ({ x with state := st, count := 1, stamp := stamp, extreme := v, clip := clip, lo := lo, hi := hi } : Thr)
  let more : Thr := { x with count := x.count + 1, extreme := moreExtreme b x.extreme v, clip := x.clip || clip, hi := hi }
  let enter := fun (y : Thr) => if thrCount b (fld b 1 1) ≤ y.count then thrRaise s c t y false else (s, y)
  let leave := fun (y : Thr) => if thrCount b (fld b 2 1) ≤ y.count then thrRaise s c t y true else (s, y)
  match x.state with
  | .disabled => (s, x)
  | .idle => if thrMet b v then enter (fresh .qualifying) else (s, x)
  | .qualifying => if thrMet b v then enter more else (s, { x with state := .idle, count := 0 })
  | .active => if thrCleared b v then leave (fresh .releasing) else (s, x)
  | .releasing => if thrCleared b v then leave more else (s, { x with state := .active, count := 0 })

/-- Evaluate a threshold on its source's value under the object `b` of the output's cycle (R26); a MISSING value neither advances
nor resets it (R162). -/
def thrEval (s : State) (c t : Nat) (b : Bytes) (src : Nat) (v : Option Int) (clip : Bool) (stamp : Stamp) (lo hi : Int) : State :=
  let x := nth {} (chan s c).thr t
  let (s1, x1) := thrCommit s c t x b
  let (s2, x2) := match v with
    | some y => if thrSource x1.cfg = src then thrStep s1 c t x1 y clip stamp lo hi else (s1, x1)
    | none => (s1, x1)
  setChan s2 c { chan s2 c with thr := setNth (chan s2 c).thr t x2 }

/-- A run of labels touches window w. -/
def inWindow (w : Nat) (e : Bool × Int × Int) : Bool := decide (e.2.1 / 256 ≤ (w : Int) ∧ (w : Int) ≤ e.2.2 / 256)

/-- A FAIL window returns every threshold one of whose events rests on it to IDLE, and closes an ENTER that still stands (R167). -/
def thrFail (s : State) (c p w : Nat) : State :=
  if chanHead c ≠ some p then s
  else (span 0 4).foldl (fun a t =>
    let x := nth {} (chan a c).thr t
    if x.state ≠ .disabled ∧ x.stands.any (inWindow w) then
      let r := thrClose a c t { x with state := .idle, count := 0, stands := x.stands.filter fun e => !inWindow w e }
      setChan r.1 c { chan r.1 c with thr := setNth (chan r.1 c).thr t r.2 }
    else a) s

/-! ### Records (Table FLT.9) -/

/-- CLK of a cycle, as the boundary log holds it. -/
def cycleClk (s : State) (n : Nat) : Nat :=
  match logEntry s n with
  | some e => e.state % 8
  | none => clk s

/-- The detector record of a channel's cycle (Table FLT.9), streamed to tenant 0. -/
def detectorRecord (s : State) (c n : Nat) : State :=
  let x := chan s c
  let outs := x.outs.take 128
  let range := chanRange c (outs.foldl (fun a o => min a o.lo) ((outs.headD ⟨0, 0, 0, 0, 0, 0⟩).lo)) (outs.foldl (fun a o => max a o.hi) 0)
  let pk := fun (h : Option Half) => (h.map (·.peak)).getD 0
  let rh := fun (h : Option Half) => (h.map (·.rms)).getD 0
  let any := fun (f : Half → Bool) => (x.half0.map f).getD false || (x.half1.map f).getD false
  let fl := flag x.half0.isNone 0 + flag x.half1.isNone 1 + flag (any (·.clip)) 2 + flag (any (·.sat)) 3 +
    flag x.win.isSome 4 + flag (firstFailed s range).isSome 5 + flag (any (·.spare)) 6
  streamOnly s 0x20 (le 2 c ++ le 2 fl ++ le 5 n ++ le 1 (cycleClk s n) ++ le 1 (rangeCount range) ++ zeros 1 ++
    le 4 (rangeStart s range) ++ leInt 4 (pk x.half0) ++ leInt 4 (pk x.half1) ++ le 4 (rh x.half0) ++ le 4 (rh x.half1) ++
    le 4 (x.rc0.getD 0) ++ le 4 (x.rc1.getD 0) ++ le 4 (x.env / 1048576) ++ le 4 (x.win.getD 0))

/-- HALF_CYCLE_END (R161, R166): detectors are refreshed and thresholds evaluated. -/
def halfEnd (s : State) (c : Nat) (o : OutSample) : State :=
  let x := chan s c
  let h := halfOf (x.outs.take 64)
  let rc := rmsRun (x.outs.take 128) 128
  let w := if o.k = 127 then (windowOuts s x o.cycle).bind (fun l => rmsRun l l.length) else none
  let x1 := if o.k = 63 then { x with half0 := h, rc0 := rc } else { x with half1 := h, rc1 := rc, win := w, rcCycle := o.cycle }
  let s1 := setChan s c x1
  let stamp := mkStamp o.cycle (512 * o.k)
  let lo := fun n => ((x.outs.take n).foldl (fun a y => min a y.lo) o.lo)
  let clip := fun n => (x.outs.take n).any (fun y => bit y.flags 2 || bit y.flags 3)
  let v := atCycle s1 o.cycle
  let s2 := (span 0 4).foldl (fun a t =>
    let b := thrCfg v c t
    match thrSource b with
    | 0 => thrEval a c t b 0 (h.map fun y => (y.peak.natAbs : Int)) (clip 64) stamp (lo 64) o.hi
    | 1 => thrEval a c t b 1 (h.map fun y => (y.rms : Int)) (clip 64) stamp (lo 64) o.hi
    | 2 => thrEval a c t b 2 (rc.map fun y => (y : Int)) (clip 128) stamp (lo 128) o.hi
    | 3 => if o.k = 127 then thrEval a c t b 3 (w.map fun y => (y : Int)) (clip (128 * winLen a)) stamp (lo (128 * winLen a)) o.hi
           else thrEval a c t b 3 none false stamp o.lo o.hi
    | _ => thrEval a c t b 4 (h.map fun _ => ((x.env / 1048576 : Nat) : Int)) (clip 64) stamp (lo 64) o.hi) s1
  if o.k = 127 then detectorRecord s2 c o.cycle else s2

/-- Take one computed output into a channel (R158, R164) with EV_FLT_SAT once per channel per cycle (R149). -/
def takeOutput (s : State) (c : Nat) (o : OutSample) (stage : Nat) : State :=
  let x := chan s c
  let e := cfg (atCycle s o.cycle) (objCode objDetect 0) (68 * c) 2
  let env := if excludedOut o then x.env else envStep (e % 32) (e / 256 % 32) x.env o.val
  let s1 := setChan s c { x with outs := (o :: x.outs).take 2304, env := env,
                                 satCycle := if stage = 0 then x.satCycle else some o.cycle }
  let s2 := if stage ≠ 0 ∧ x.satCycle ≠ some o.cycle then
      raise { s1 with flt := { s1.flt with satCount := satInc 32 s1.flt.satCount } } { id := 0x281, src := c, data := Config.eventData 0x281 [(c : Int), (stage : Int)] } else s1
  if o.k = 63 ∨ o.k = 127 then halfEnd s2 c o else s2

/-- Compute the outputs of a channel whose spans have fully arrived (R157): `after` acts on each. -/
def computeOutputs (after : State → Nat → OutSample → State) : Nat → State → Nat → State
  | 0, s, _ => s
  | fuel + 1, s, c =>
    match (chan s c).next with
    | none =>
      match s.clk.log.head? with
      | none => s
      | some e => computeOutputs after fuel (setChan s c { chan s c with next := some (e.cycle, 0) }) c
    | some (n, k) =>
      match logEntry s n with
      | none => s
      | some e =>
        let v := atCycle s n
        let p := labelPos v e c k
        if p / 65536 + 8 ≤ (chan s c).label then
          let (o, stage) := chainOutput v c n k p
          match nextOutput s n k with
          | none => s
          | some nx => computeOutputs after fuel (after (takeOutput (setChan s c { chan s c with next := some nx }) c o stage) c o) c
        else s

/-- Enter a raw sample in a channel's history (R148); a SETTLE label that a sync awaits becomes its reset label (R171). -/
def pushRaw (s : State) (c : Nat) (label : Int) (r : Raw) : State :=
  let x := chan s c
  let x1 := { x with raw := (r :: x.raw).take 128, label := label }
  let x2 := match x.syncWait with
    | some (f, _) => if (f : Int) ≤ label ∧ bit r.flags 1 then { x1 with syncWait := none, reset := some (label, true) } else x1
    | none => x1
  setChan s c x2

/-- Output flags of a section sample: VALID, SETTLE, CLIP, SPARE_ACTIVE of Table PLY.3 as the chain keeps them (R148). -/
def rawFlags (nib : Nat) (marked : Bool) : Nat :=
  flag (!bit nib 0) 0 + flag (bit nib 1) 1 + flag (bit nib 2) 2 + flag (bit nib 3) 4 + (if marked then spareMark else 0)

/-! ### Surveys and delays (R100, R160) -/

/-- SURVEY_REPLY (R100, R160): twice dA is LA − r − Δ. -/
def execSurveyReply (pos : Nat) (box : Bytes) (s : State) : Out :=
  .next (whenRunning s fun s => upstream s pos 0x88 box fun s m =>
    let d : Int := (s.ply.la : Int) - fld m 4 2 - signed 32 (fld m 0 4)
    let h := head s pos
    let s1 := setHead s pos { h with rLat := fld m 4 2, nextDA2 := some (d, s.ply.frame) }
    match h.dA2 with
    | none => s1
    | some old =>
      if 8192 < (roundDiv (d * 65536) 96000 - roundDiv (old * 65536) 96000).natAbs then
        raise s1 { id := 0x282, src := pos, data := Config.eventData 0x282 [(pos : Int), old, d] }
      else s1)

/-- At a boundary, a survey completed at least 8 frames before applies, and a GD whose session has started (R160). -/
def applyDelays (s : State) (n : Nat) : State :=
  positions.foldl (fun a p =>
    let h := head a p
    let dn := match h.nextDA2 with
      | some (d, f) => if f + 8 ≤ a.ply.frame then some d else none
      | none => none
    let gn := match h.nextGd with
      | some (g, f) => if f ≤ a.ply.frame then some g else none
      | none => none
    if dn.isNone && gn.isNone then a
    else setHead a p { h with oldDelay := some (n, h.dA2.getD 0, h.gd), dA2 := if dn.isSome then dn else h.dA2,
                              nextDA2 := if dn.isSome then none else h.nextDA2,
                              gd := gn.getD h.gd, nextGd := if gn.isSome then none else h.nextGd }) s

/-- VERSION (R119, R137, R143): an unsupported head is sent LEAVE and held in REPEATER; else GD applies from S (R160), and
the configuration is sent when the head's generation is not the hub's. -/
def execVersion (pos : Nat) (box : Bytes) (s : State) : Out :=
  .next (whenRunning s fun s => upstream s pos 0x89 box fun s m =>
    let s1 := reportDone (setHead s pos { head s pos with version := m }) pos 0
    if versionOk m then
      let h := head s1 pos
      compareConfig (setHead s1 pos { h with
        rLat := fld m 18 2, mpCount := fld m 1 1, configGen := fld m 22 4,
        nextGd := some (fld m 14 4, h.session.getD s1.ply.frame) }) pos
    else
      let s2 := sendShort (dropMessages s1 pos) pos 7 [1]
      let s3 := plyEvent s2 0x200 pos []
      let s4 := setHeadState s3 pos .repeater 5
      setHead s4 pos { head s4 pos with unsupported := true, join := {} })

/-! ### Synchronising resets (R170–R176) -/

/-- A field of the sync object (Table FLT.10). -/
def syncField (s : State) (off n : Nat) : Nat := cfg s (objCode objSync 0) off n

/-- Channels in the scope of a sync: head mask and local bit (R170). -/
def syncChans (heads : Nat) (loc : Bool) : List Nat :=
  (positions.filter (fun p => bit heads p)).flatMap headChans ++ (if loc then localChans else [])

/-- A sync cue's argument: head mask and, as bit 64, the local bit. -/
def syncArg (heads : Nat) (loc : Bool) : Nat := heads % 2 ^ 64 + flag loc 64

/-- A sync whose stamp lies within 2 cycles of a pending sync with an overlapping scope (R174). -/
def syncConflict (s : State) (stamp : Stamp) (arg : Nat) : Bool :=
  s.clk.cues.any fun p => cuePending p.2 && p.2.kind == cueSync && (p.2.arg &&& arg) != 0 &&
    decide ((if p.2.stamp < stamp then stamp - p.2.stamp else p.2.stamp - stamp) ≤ 2 * angleBits)

/-- SYNC_RESET (R170, R174, R516). -/
def execSyncReset (d : Desc) (heads loc : Nat) (stamp : Stamp) (s : State) : Out :=
  .next (hostCmd s d 0x0302 false fun s =>
    let arg := syncArg heads (bit loc 0)
    let first := mkStamp (nowCycle s + syncField s 1 1 + 1) (syncField s 2 2)
    let st := if stamp = 0 then first else stamp
    let c := if stamp = 0 then none else cueCheck s cueSync stamp
    checked s d [by0 d, (!(s.ril.member && s.ril.joined), stCascadeRole), (decide (arg ≠ 0), stBadArg), (c.isNone, c.getD stOk),
      (!syncConflict s st arg, stCueConflict), ((cueRoom s 0).isNone, (cueRoom s 0).getD stOk)] fun s =>
      let r := createCue (sendSync s st) cueSync st 0 arg
      reply r.1 d stOk (le 7 st ++ le 2 r.2))

/-- SYNC_IN_EDGE (R170, R174): `wide` says the edge is at least 1 µs wide. -/
def execSyncInEdge (wide : Bool) (s : State) : Out :=
  .next (whenRunning s fun s =>
    if !wide || !bit (syncField s 0 1) 0 then s
    else
      let n := nowCycle s
      let near := match s.flt.lastEdge with
        | some e => decide (nowStamp s ≤ e + 8 * angleBits)
        | none => false
      if near || (s.ril.member && s.ril.joined) || s.clk.cycle.isNone then raise s { id := 0x283, data := Config.eventData 0x283 [(n : Int)] }
      else
        let stamp := mkStamp (n + syncField s 1 1 + 1) (syncField s 2 2)
        let arg := syncArg (2 ^ 64 - 1) true
        if syncConflict s stamp arg ∨ (cueRoom s 0).isSome then raise s { id := 0x283, data := Config.eventData 0x283 [(n : Int)] }
        else ownCue (sendSync { s with flt := { s.flt with lastEdge := some (nowStamp s) } } stamp) cueSync stamp 0 arg)

/-- Start a sync at an action frame and offset (R114, R171, R176). -/
def startSync (s : State) (arg f off : Nat) : State :=
  let s1 := (positions.filter (fun p => bit arg p && (head s p).state == .active)).foldl
    (fun a p => sendShort a p 3 (le 4 (wireFrame a f) ++ le 2 off)) s
  let s2 := { s1 with ply := { s1.ply with syncFrames := s1.ply.syncFrames ++ [(f, off)] } }
  let scope := (positions.filter (fun p => bit arg p && (head s p).state == .active)).flatMap headChans ++
    (if bit arg 64 then localChans else [])
  let s3 := scope.foldl (fun a c => setChan a c { chan a c with syncWait := some (f, off) }) s2
  { s3 with flt := { s3.flt with lastSync := mkStamp (nowCycle s3) (nowAngle s3), syncOutUntil := if syncField s3 4 1 = 1 then some (f + 1) else s3.flt.syncOutUntil } }

/-- DECIM_SYNC (R114, R171, R618): SYNC_AT goes out when the action frame lies at most 64 frames ahead, and at least 16 (DESIGN
CHOICE for the 64, log entry 15), and the cue is ARMED; it is DONE once the action frame has come.  A stamp already passed executes at
the next frame that leaves 16 (R52). -/
def execDecimSync (cueId : Nat) (s : State) : Out :=
  .next (whenRunning s fun s =>
    let c := cue s cueId
    if !cuePending c || c.kind != cueSync || s.clk.cycle.isNone then s
    else
      let (f, off) := framePlace (stampFrames s c.stamp)
      if c.state = .armed then (if c.stamp ≤ nowStamp s then finishCue s cueId false else s)
      else if s.pwr.serviceDown then s
      else if s.ply.frame + 64 < f then s
      else if s.ply.frame + 16 ≤ f then setCue (startSync s c.arg f off) cueId { c with state := .armed }
      else finishCue (startSync s c.arg (s.ply.frame + 16) 0) cueId true)

/-- The computed reset label: the first whose sampling instant follows the sync instant (R171). -/
def resetLabel (s : State) (c f off : Nat) : Int :=
  let dg := match chanHead c with
    | some p => headDelay s p (nowCycle s)
    | none => (0, gdLoc)
  (((f * 400 + off : Nat) : Int) * 960 + (dg.2 : Int) * 15 - dg.1 * 4) / 384000 + 1

/-- SYNC_SETTLE_TIMEOUT (R171): no SETTLE label within 64 frames of the action frame. -/
def execSyncSettleTimeout (c : Nat) (s : State) : Out :=
  .next (whenRunning s fun s =>
    match (chan s c).syncWait with
    | some (f, off) =>
      if f + 64 ≤ s.ply.frame then
        setChan s c { chan s c with syncWait := none, reset := some (resetLabel s c f off, true) }
      else s
    | none => s)

/-- SYNC_DONE (R175): result 1 clears the hub's own stages at the computed label and raises EV_FLT_SYNC_MISS. -/
def execSyncDone (pos : Nat) (box : Bytes) (s : State) : Out :=
  .next (whenRunning s fun s => upstream s pos 0x8C box fun s m =>
    if fld m 4 1 = 0 then s
    else
      let s1 := (headChans pos).foldl (fun a c =>
        match (chan a c).syncWait with
        | some (f, off) => setChan a c { chan a c with syncWait := none, reset := some (resetLabel a c f off, false) }
        | none => a) s
      plyEvent s1 0x284 pos [fld m 0 4])

end Sys2Proof.Machine
end

