-- ==== Sys2Proof/Machine/Flash.lean ====
section
/-!
DEFINITION. The flash die: block headers, the erase journal, erases, retirement and spares, and where the custody log's items lie
(14_cistern.md).
-/
namespace Sys2Proof.Machine

/-! ### Blocks (R356, R358, Table CIS.2) -/

/-- First physical block of a partition. -/
def partBase (part : Nat) : Nat :=
  if part = 0 then 0 else if part = 1 then 64 else if part = 2 then 80 else if part = 3 then 208 else 976

/-- The partition a physical block belongs to by Table CIS.2; the journal blocks carry PART 5. -/
def partAt (b : Nat) : Nat :=
  if b < 64 then 0 else if b < 80 then 1 else if b < 208 then 2 else if b < 976 then 3 else if b < 978 then 5 else 4

/-- A block as it left the factory: erased once, in its own place. -/
def factoryBlock (b : Nat) : Block := ⟨partAt b, b - partBase (partAt b), 1, .free, false, true, 0⟩

/-- A block's header. -/
def blockOf (s : State) (b : Nat) : Block := (tfind s.cis.blocks b).getD (factoryBlock b)

/-- Replace a block's header. -/
def setBlock (s : State) (b : Nat) (x : Block) : State := { s with cis := { s.cis with blocks := tput s.cis.blocks b x } }

/-- The physical block that serves a logical block: the one whose header claims it and is not RETIRED (R356, R364). -/
def physOf (s : State) (part l : Nat) : Nat :=
  match s.cis.blocks.find? (fun p => p.2.part == part && p.2.logical == l && p.2.state != .retired) with
  | some p => p.1
  | none => partBase part + l

/-! ### The erase journal (R359–R361) -/

/-- Append one entry. -/
def journalAdd (s : State) (kind b count : Nat) : State :=
  { s with cis := { s.cis with jseq := s.cis.jseq + 1, journal := s.cis.journal ++ [⟨s.cis.jseq + 1, b, kind, count, false⟩] } }

/-- Put a block in the queue of its plane, with the PART and LOGICAL it is to serve; its content is stale. -/
def eraseLater (s : State) (b part l : Nat) : State :=
  let s1 := setBlock s b { blockOf s b with state := .stale, part := part, logical := l }
  { s1 with cis := { s1.cis with erases := s1.cis.erases ++ [(b, part, l)] } }

/-- Write an intent; in a full journal block the first entry of the other block is the intent to erase it (R361). -/
def intent (s : State) (kind b count : Nat) : State :=
  if 0 < s.cis.jseq ∧ s.cis.jseq % 4080 = 0 then
    let j := 976 + (s.cis.jseq / 4080 - 1) % 2
    journalAdd (eraseLater (journalAdd s 1 j ((blockOf s j).count + 1)) j 5 (j - 976)) kind b count
  else journalAdd s kind b count

/-- DONE is programmed in every open intent of a block (R359). -/
def intentDone (s : State) (b : Nat) : State :=
  { s with cis := { s.cis with journal := s.cis.journal.map fun e => if e.block = b then { e with done := true } else e } }

/-- Start an erase (R359 step 1). -/
def startErase (s : State) (b part l : Nat) : State := eraseLater (intent s 1 b ((blockOf s b).count + 1)) b part l

/-! ### Retirement and spares (R364, R365) -/

/-- Spares a partition may still take: the last 8 are for the legal and wrapped-keys partitions. -/
def spareLeft (s : State) (part : Nat) : Bool := decide (s.cis.sparesUsed < if part ≤ 1 then 46 else 38)

/-- A partition without a spare becomes read-only (R365). -/
def partReadOnly (s : State) (part : Nat) : State :=
  if s.cis.readOnly.contains part then s
  else raise { s with cis := { s.cis with readOnly := s.cis.readOnly ++ [part] } } { id := 0x688, data := Config.eventData 0x688 [part] }

/-- Retire a block and activate a spare in its place (R364). -/
def retireBlock (s : State) (b : Nat) : State :=
  let x := blockOf s b
  let s1 := intentDone (setBlock (intent s 2 b x.count) b { x with state := .retired }) b
  let s2 := raise s1 { id := 0x686, data := Config.eventData 0x686 [(b : Nat), (x.part : Nat), (x.logical : Nat)] }
  if spareLeft s2 x.part then
    let n := s2.cis.sparesUsed
    let s3 := startErase { s2 with cis := { s2.cis with sparesUsed := n + 1 } } (978 + n) x.part x.logical
    if n + 1 = 38 then raise s3 { id := 0x687, data := Config.eventData 0x687 [8] } else s3
  else partReadOnly s2 x.part

/-- Erase a block whose content is stale, or retire it once its COUNT is 100,000 (R359, R364). -/
def queueErase (s : State) (b part l : Nat) : State :=
  if 100000 ≤ (blockOf s b).count then retireBlock s b else startErase s b part l

/-- BLOCK_ERASE_COMPLETE (R359): blank-check, header and DONE, or the failure of R364; `ok` says that the erase, the blank-check
and the header write passed.  The first erase of each plane is the one that runs (R350). -/
def execBlockEraseComplete (b : Nat) (ok : Bool) (s : State) : Out :=
  .next (whenRunning s fun s =>
    match s.cis.erases.find? (fun e => e.1 % 4 == b % 4) with
    | none => s
    | some e =>
      if e.1 ≠ b then s
      else
        let s0 := { s with cis := { s.cis with erases := s.cis.erases.erase e } }
        if ok then
          let s1 := setBlock s0 b ⟨e.2.1, e.2.2, (blockOf s b).count + 1, .free, false, true, nowTick s⟩
          let s2 := if e.2.1 = 5 then
              { s1 with cis := { s1.cis with journal := s1.cis.journal.filter fun j =>
                (j.seq - 1) / 4080 % 2 != b - 976 || (j.seq - 1) / 4080 == (s1.cis.jseq - 1) / 4080 } }
            else s1
          intentDone s2 b
        else
          let s1 := raise s0 { id := 0x683, data := Config.eventData 0x683 [(b : Nat)] }
          retireBlock s1 b)

/-! ### The custody log's blocks (R376, R379) -/

/-- Units of a custody block: 255 pages of 3. -/
def segUnits : Nat := 765

/-- Custody blocks that wait for an erase, and those that are FREE. -/
def custodyErasing (s : State) : Nat := (s.cis.erases.filter fun e => e.2.1 == 3).length
def custodyFree (s : State) : Nat := 768 - s.cis.segs.length - custodyErasing s

/-- The wrap (R379): with fewer than 4 blocks FREE or on their way, the block with the lowest first ASEQ is erased. -/
def custodyWrap (s : State) : State :=
  match s.cis.segs with
  | old :: next :: rest =>
    if custodyFree s + custodyErasing s < 4 then
      let s1 := { s with cis := { s.cis with segs := next :: rest, log := s.cis.log.filter fun i => decide (next.2.1 ≤ i.aseq) } }
      raise (queueErase s1 (physOf s1 3 old.1) 3 old.1) { id := 0x68B, data := Config.eventData 0x68B [(next.2.1 : Nat)] }
    else s
  | _ => s

/-- Open the next custody block in circular order for an item. -/
def openSeg (s : State) (aseq : Nat) : State :=
  let l := match s.cis.segs.getLast? with
    | some g => (g.1 + 1) % 768
    | none => 0
  let full := match s.cis.segs.getLast? with
    | some g => setBlock s (physOf s 3 g.1) { blockOf s (physOf s 3 g.1) with state := .full }
    | none => s
  let s1 := setBlock full (physOf full 3 l) { blockOf full (physOf full 3 l) with state := .opened }
  custodyWrap { s1 with cis := { s1.cis with segs := s1.cis.segs ++ [(l, aseq, 0)] } }

/-- Program an item into the log: an item that does not fit its block goes to the next one (R376, and "Item spans a block end"). -/
def putItem (s : State) (it : Item) : State :=
  let fits := match s.cis.segs.getLast? with
    | some g => decide (g.2.2 + it.units ≤ segUnits)
    | none => false
  let s1 := if fits then s else openSeg s it.aseq
  { s1 with cis := { s1.cis with
      log := s1.cis.log ++ [it]
      segs := s1.cis.segs.map fun g => if some g = s1.cis.segs.getLast? then (g.1, g.2.1, g.2.2 + it.units) else g } }

/-- Close the open page of the custody log early: its remaining units stay unwritten (R354). -/
def closeCustodyPage (s : State) : State :=
  { s with cis := { s.cis with
      prog := 0
      segs := s.cis.segs.map fun g => if some g = s.cis.segs.getLast? then (g.1, g.2.1, (g.2.2 + 2) / 3 * 3) else g } }

end Sys2Proof.Machine
end

