-- ==== Sys2Proof/Machine/Legal.lean ====
section
/-!
DEFINITION. The legal partition: ladders as counters, the legal log, the calibration digest, the seal and its break, and
the legal display port (09_legal_partition.md; ladder values of R366 and R367).
-/
namespace Sys2Proof.Machine

/-! ### Ladders as counters (R366–R368) -/

/-- Key of a ladder: partition (0 legal, 1 wrapped keys, 2 application) and LID. -/
def ladderKey (part lid : Nat) : Nat := 65536 * part + lid

/-- A ladder. -/
def ladder (s : State) (k : Nat) : Ladder := tget {} s.cis.ladders k

/-- The value of a ladder (R367). -/
def ladderValue (s : State) (k : Nat) : Nat := (ladder s k).base + (if (ladder s k).parked then 0 else (ladder s k).f)

/-- Replace a ladder. -/
def setLadder (s : State) (k : Nat) (l : Ladder) : State := { s with cis := { s.cis with ladders := tput s.cis.ladders k l } }

/-- LID of legal register x of MP m (R366), of the run number and of the seal count. -/
def regLid (m x : Nat) : Nat := 28 * m + x
def runLid : Nat := 7196
def sealLid : Nat := 7197

/-- The run number and the seal count. -/
def runNumber (s : State) : Nat := ladderValue s (ladderKey 0 runLid)
def sealCount (s : State) : Nat := ladderValue s (ladderKey 0 sealLid)

/-- The legal partition is read-only (R365). -/
def legalReadOnly (s : State) : Bool := s.cis.readOnly.contains 0

/-- Pairs of blocks of a partition's ladder area: copy A lies in the first, copy B in the second, in another plane (R366). -/
def ladPairs (part : Nat) : Nat := if part = 0 then 10 else if part = 1 then 3 else 2
def ladLogical (part : Nat) : Nat := if part = 0 then 44 else if part = 1 then 10 else 124

/-- The place a new generation takes: a ladder page, or one base of a base page (R366). -/
def ladPlace (s : State) (part : Nat) (park : Bool) : Nat :=
  let n := tget 0 s.cis.ladNext part
  if park then n else (n + 15) / 16 * 16

/-- Succeed a ladder to a base at its value (R369): a ladder page, or parked. -/
def succeed (s : State) (k : Nat) (park : Bool) : State :=
  let l := ladder s k
  let at_ := ladPlace s (k / 65536) park
  let s1 := { s with cis := { s.cis with ladNext := tput s.cis.ladNext (k / 65536) (at_ + if park then 1 else 16) } }
  setLadder s1 k { l with lgen := l.lgen + 1, base := ladderValue s k, f := 0, parked := park, weak := 0, place := at_ }

/-- A succession that would need the last generation is refused (R370). -/
def ladderEnd (s : State) (k : Nat) : State := raise s { id := 0x689, data := Config.eventData 0x689 [(k / 65536 : Nat), (k % 65536 : Nat)] }

/-- Reclaim the oldest pair of blocks of a ladder area once no erased pair is left ahead (R370): its ladders are succeeded, one
that has stood still for 2^20 cycles parked, and the blocks are erased. -/
def ladderReclaim (s : State) (part : Nat) : State :=
  let old := tget 0 s.cis.ladFirst part
  if tget 0 s.cis.ladNext part / 4080 + 1 < old + ladPairs part then s
  else
    let mine := s.cis.ladders.filter fun p => p.1 / 65536 == part && decide (0 < p.2.lgen) && p.2.place / 4080 == old
    let s1 := mine.foldl (fun a p =>
      if 0xFFFFFE ≤ p.2.lgen then ladderEnd a p.1
      else succeed a p.1 (p.2.parked || decide (p.2.lastInc + 1048576 ≤ nowCycle a))) s
    let l := ladLogical part + 2 * (old % ladPairs part)
    let s2 := queueErase (queueErase s1 (physOf s1 part l) part l) (physOf s1 part (l + 1)) part (l + 1)
    { s2 with cis := { s2.cis with ladFirst := tput s2.cis.ladFirst part (old + 1) } }

/-- Program one increment (R368, R369): a parked ladder is succeeded to a ladder page first, and a ladder that the increment
fills is succeeded at once; a generation at its end is refused with EV_CIS_LADDER_END (R370). -/
def stepLadder (s : State) (k : Nat) : State :=
  let l := ladder s k
  let full := l.parked || decide (1920 ≤ l.f)
  if s.cis.readOnly.contains (k / 65536) then s
  else if full && decide (0xFFFFFE ≤ l.lgen) then ladderEnd s k
  else
    let s1 := if full then succeed s k false else s
    let l1 := ladder s1 k
    let s2 := setLadder s1 k { l1 with f := l1.f + 1, lastInc := nowCycle s }
    if l1.f + 1 < 1920 then s2
    else if 0xFFFFFE ≤ l1.lgen then ladderEnd s2 k else succeed s2 k false

/-- Ask for an increment that takes flash time: it is durable at LADDER_INCREMENT_COMPLETE. -/
def requestInc (s : State) (k : Nat) : State := { s with cis := { s.cis with incs := s.cis.incs ++ [k] } }

/-! ### Legal log (R248, R249) -/

/-- Entries of a legal log block, and of the sections (R248): 255 pages of 7 entries in a block. -/
def logBlock : Nat := 1785
def permCapacity : Nat := 4 * logBlock
def rollCapacity : Nat := 28 * logBlock

/-- Types of the permanent section (Table SEAL.6). -/
def permType (typ : Nat) : Bool := [0x02, 0x03, 0x04, 0x05, 0x06, 0x07, 0x08, 0x12].contains typ

/-- Types that may use the last 64 permanent entries (R248). -/
def reservedType (typ : Nat) : Bool := [0x03, 0x04, 0x12].contains typ

/-- Free entries of the permanent section. -/
def permFree (s : State) : Nat := permCapacity - s.lgl.perm.length

/-- Append one entry: SEQ, LINK and its section (R249). -/
def logEntryAdd (s : State) (typ flags mp ticks : Nat) (data : Bytes) : State :=
  let body := le 4 (s.lgl.seq + 1) ++ le 1 typ ++ le 1 flags ++ le 2 mp ++ le 5 (nowCycle s) ++ le 1 (clkTt s) ++ le 6 ticks ++ pad 8 data
  let link := crc32 (body ++ le 4 s.lgl.link)
  let e := body ++ le 4 link
  { s with lgl := { s.lgl with seq := s.lgl.seq + 1, link := link,
                                 perm := if permType typ then e :: s.lgl.perm else s.lgl.perm,
                                 roll := if permType typ then s.lgl.roll else e :: s.lgl.roll } }

/-- Make room in the rolling section: LOG_WRAP names the highest SEQ of the block it erases (R248). -/
def logWrap (s : State) : State :=
  if s.lgl.roll.length + 1 < rollCapacity then s
  else
    let keep := s.lgl.roll.length - logBlock
    let gone := (s.lgl.roll.drop keep).foldl (fun m e => max m (fld e 0 4)) 0
    logEntryAdd { s with lgl := { s.lgl with roll := s.lgl.roll.take keep } } 0x11 0 0xFFFF (nowTick s) (le 4 gone)

/-- Write a legal log entry, when its section takes it (R248, R365). -/
def legalLogAt (s : State) (typ flags mp ticks : Nat) (data : Bytes) : State :=
  if legalReadOnly s then s
  else if permType typ then
    (if (if reservedType typ then 0 else 64) < permFree s then logEntryAdd s typ flags mp ticks data else s)
  else logEntryAdd (logWrap s) typ flags mp ticks data

/-- Write a legal log entry now. -/
def legalLog (s : State) (typ flags mp : Nat) (data : Bytes) : State := legalLogAt s typ flags mp (nowTick s) data

/-! ### Calibration digest (R235, R236) -/

/-- The calibration objects, in the order of R235. -/
def calObjects : List Nat :=
  objCode objFilter 0 :: ((span 1 31).map (objCode objCoef)) ++ [objCode objScale 0, objCode objMp 0, objCode objCf 0]

/-- CAL_DIGEST of the objects in force (R235). -/
def calDigest (s : State) : Bytes := sha256 ((calObjects.map fun o => cfgBytes s o 0 (objSize o)).flatten)

/-- LEGAL_VALID (R247). -/
def legalValid (s : State) : Bool := s.lgl.state == .sealed && s.lgl.mark && s.lgl.checks && !legalReadOnly s && !s.lgl.halt

/-- Write both calibration copies with the digest in force (R236). -/
def rewriteCopies (s : State) : State :=
  if legalReadOnly s then s else { s with lgl := { s.lgl with copy1 := some (calDigest s), copy2 := some (calDigest s) } }

/-- CAL_DIGEST_CHECK (R236): a copy whose digest matches is used; else CAL_MISMATCH. -/
def calCheck (s : State) : State :=
  if s.lgl.copy1 = some (calDigest s) ∨ s.lgl.copy2 = some (calDigest s) then { s with lgl := { s.lgl with checks := !s.lgl.halt } }
  else
    let used := if s.lgl.copy1.isSome then 1 else 2
    let s1 := legalLog s 0x07 0 0xFFFF (le 1 used)
    let s2 := raise s1 { id := 0x402, data := Config.eventData 0x402 [used] }
    let s3 := tamper s2 tamperDevice 5
    { s3 with lgl := { s3.lgl with mark := false, checks := false } }

/-! ### Seal records and sealing (R239, R240, Table SEAL.4) -/

/-- The seal key's material: the device identity key of the legal engine (Key store and counters). -/
def sealRecord (s : State) (state ticks : Nat) : Bytes :=
  let b := le 2 0x534C ++ le 2 (sealCount s) ++ le 1 state ++ le 1 (clkTt s) ++ le 5 (nowCycle s) ++ zeros 1 ++ le 6 ticks ++
    zeros 2 ++ le 4 (Config.legalFirmwareId % 2 ^ 32) ++ le 8 Config.deviceId ++ be 32 (Config.legalFirmwareId / 2 ^ 32) ++ calDigest s
  b ++ pad 64 (Config.ecdsaSign Config.sealKey (Config.sha256 b) s.lgl.seq)

/-- A staging set or a pending commit carries a calibration object (R239). -/
def calPending (s : State) : Bool :=
  (tget {} s.slu.stages 0).objs.any objCal ||
  s.slu.images.any (fun p => p.2.objs.any objCal)

/-- The conditions of R239 after the issuer's, with their statuses. -/
def sealChecks (s : State) (digest : Nat) : List (Bool × Nat) :=
  [(s.lgl.lockStrapped, stSealNoLock), (!s.lgl.brkOpen && s.bkd.breakLatch.isNone, stSealBrkOpen),
   (s.lgl.state != .sealed, stSealState), (!calPending s, stSealPending), (be 32 digest == calDigest s, stSealDigest),
   (decide (65 ≤ permFree s), stLogFull)]

/-- SEAL (R239): an accepted request waits for the next boundary. -/
def execSeal (d : Desc) (digest : Nat) (s : State) : Out :=
  .next (hostCmd s d 0x0107 true fun s =>
    checked s d (by0 d :: sealChecks s digest) fun s =>
      defer { s with lgl := { s.lgl with pending := some digest } } d 0x0107 0 [] true [] [])

/-- Complete the SEAL commands in processing: the seal record as output when there is one. -/
def sealReply (s : State) (status : Nat) (rec : Bytes) : State :=
  (waitingCmds s 0x0107 0).foldl (fun a o =>
    let b := { a with cmd := { a.cmd with opens := a.cmd.opens.filter (fun x => x != o) } }
    if rec.isEmpty then complete b o.desc o.sqhd status 0 []
    else if o.desc.dlen < rec.length then complete b o.desc o.sqhd stDataShort rec.length []
    else complete (dma b o.desc.tenant o.desc.dptr rec) o.desc o.sqhd status rec.length []) s

/-- SEAL_APPLY (R240); LEGAL_VALID is set again at a seal after a CAL_MISMATCH (R236). -/
def sealApply (s : State) : State :=
  match s.lgl.pending with
  | none => s
  | some digest =>
    let s0 := { s with lgl := { s.lgl with pending := none } }
    match firstFail (sealChecks s0 digest) with
    | some _ => sealReply s0 stSealAbort []
    | none =>
      let s1 := stepLadder s0 (ladderKey 0 sealLid)
      let s2 := { s1 with lgl := { s1.lgl with state := .sealed, unwatched := false } }
      let rcd := sealRecord s2 1 s2.clk.tick
      let s3 := legalLog { s2 with lgl := { s2.lgl with records := rcd :: s2.lgl.records } } 0x02 0 0xFFFF
        (le 2 (sealCount s2) ++ zeros 2 ++ (calDigest s2).take 4)
      let s4 := raise { s3 with lgl := { s3.lgl with mark := true, checks := !s3.lgl.halt } } { id := 0x400, data := Config.eventData 0x400 [(sealCount s3 : Nat)] }
      sealReply s4 stOk rcd

/-! ### Seal break (R243–R245) -/

/-- BREAK_PROCESSING (R244): a set latch breaks a sealed hub, and is logged in any state. -/
def breakProcess (s : State) : State :=
  match s.bkd.breakLatch with
  | none => s
  | some t =>
    let clear := fun (a : State) => { a with bkd := { a.bkd with breakLatch := none } }
    if s.lgl.state = .sealed then
      let s1 := { s with lgl := { s.lgl with state := .broken, mark := false } }
      let rcd := sealRecord s1 2 t
      let s2 := legalLog { s1 with lgl := { s1.lgl with records := rcd :: s1.lgl.records } } 0x03 0 0xFFFF (le 2 (sealCount s1))
      let s3 := tamperAt s2 tamperDevice 0 1 (nowStamp s2) t false
      clear (raise s3 { id := 0x401, data := Config.eventData 0x401 [(sealCount s3 : Nat), (t : Nat)] })
    else clear (legalLog s 0x05 0 0xFFFF (le 6 t))

/-- SEAL_BRK_OPEN (R238, R243): open for 10 ms sets the latch with the tick of the first open sample; the pin read stably
closed again clears only its level. -/
def execSealBrkOpen (first : Nat) (isOpen : Bool) (s : State) : Out :=
  .next { s with
    lgl := { s.lgl with brkOpen := isOpen }
    bkd := { s.bkd with breakLatch := if isOpen ∧ s.bkd.breakLatch = none then some first else s.bkd.breakLatch } }

/-- SEAL_LOCK_CHANGE (R242). -/
def execSealLockChange (strapped : Bool) (s : State) : Out :=
  .next (let s1 := { s with lgl := { s.lgl with lockStrapped := strapped } }
    whenRunning s1 fun s1 =>
      if s.lgl.state = .sealed ∧ s.lgl.lockStrapped ≠ strapped then
        tamper (legalLog s1 0x12 0 0xFFFF (le 1 (flag strapped 0))) tamperDevice 2
      else s1)

/-- A write to an LK field while it is locked (R241, Table SCP.5): ignored, with EV_SEAL_LK_WRITE. -/
def lkWrite (s : State) (offset : Nat) : State :=
  tamper (raise s { id := 0x403, data := Config.eventData 0x403 [(offset : Nat)] }) tamperDevice 8

/-! ### Legal log reading -/

/-- Insert an entry by its SEQ. -/
def insertEntry (e : Bytes) : List Bytes → List Bytes
  | [] => [e]
  | x :: r => if fld e 0 4 < fld x 0 4 then e :: x :: r else x :: insertEntry e r

/-- All entries that are held, in rising SEQ. -/
def logAll (s : State) : List Bytes := (s.lgl.perm ++ s.lgl.roll).foldl (fun a e => insertEntry e a) []

/-! ### LDSP (R251–R254) -/

/-- ASCII bytes of a text. -/
def ascii (t : String) : Bytes := t.toList.map fun c => BitVec.ofNat 8 c.toNat

/-- Decimal digits, at least `n` of them, of a number below 10^20. -/
def digits : Nat → Nat → Bytes
  | 0, _ => []
  | n + 1, v => digits n (v / 10) ++ [BitVec.ofNat 8 (48 + v % 10)]

/-- Digits a number needs. -/
def digitCount : Nat → Nat → Nat
  | 0, _ => 0
  | k + 1, v => if v < 10 then 1 else 1 + digitCount k (v / 10)

/-- A number in decimal without leading zeros. -/
def decimal (v : Nat) : Bytes := digits (digitCount 20 v) v

/-- One hexadecimal digit. -/
def hexDigit (v : Nat) : Byte := BitVec.ofNat 8 (if v < 10 then 48 + v else 55 + v)

/-- Bytes as hexadecimal in groups of 4 digits. -/
def hexGroups : Bytes → Bytes
  | a :: b :: r =>
    [hexDigit (a.toNat / 16), hexDigit (a.toNat % 16), hexDigit (b.toNat / 16), hexDigit (b.toNat % 16)] ++
      (if r.isEmpty then [] else 32 :: hexGroups r)
  | [a] => [hexDigit (a.toNat / 16), hexDigit (a.toNat % 16)]
  | [] => []

/-- A line of 16 characters, padded with spaces. -/
def lineOf (b : Bytes) : Bytes := (b ++ List.replicate 16 32).take 16

/-- A line with its text at the right. -/
def rightLine (b : Bytes) : Bytes := List.replicate (16 - b.length) 32 ++ b

/-- DIGITS of the legal readings (R194). -/
def regDigits (s : State) : Nat := cfg s (objCode objScale 0) 0 1

/-- Names and units of the quantities as LDSP shows them (Table SEAL.8, Table MET.1). -/
def qtyName (q : Nat) : String :=
  match q with
  | 0 => "IMP kWh"
  | 1 => "EXP kWh"
  | 2 => "Q1 kvarh"
  | 3 => "Q2 kvarh"
  | 4 => "Q3 kvarh"
  | 5 => "Q4 kvarh"
  | _ => "APP kVAh"

/-- The register screen of an MP or the incomer (Table SEAL.8). -/
def regScreen (s : State) (m q : Nat) : Bytes :=
  let n := ladderValue s (ladderKey 0 (regLid m (4 * q + 3)))
  let dg := regDigits s
  let roll := n / 10 ^ dg
  let name := (if m = 256 then ascii "INCMR" else ascii "MP" ++ digits 3 m) ++ [32] ++ ascii (qtyName q)
  let mark := if roll = 0 then [] else 94 :: decimal roll
  let one := name ++ List.replicate (16 - name.length - mark.length) 32 ++ mark
  let v := digits dg (n % 10 ^ dg)
  lineOf one ++ rightLine (v.take (dg - 1) ++ [46] ++ v.drop (dg - 1))

/-- Name of the seal state. -/
def sealName (s : State) : String :=
  match s.lgl.state with
  | .unsealed => "UNSEALED"
  | .sealed => "SEALED"
  | .broken => "BROKEN"

/-- Local date and time, "YYYY-MM-DD hh:mm". -/
def dateLine (s : State) : Bytes :=
  let t := (max 0 (localTicks s)).toNat
  let day := t / dayTicks
  digits 4 (yearOf day) ++ [45] ++ digits 2 (monthOf day) ++ [45] ++ digits 2 (dayOf day) ++ [32] ++
    digits 2 (t % dayTicks / (60 * minuteTicks)) ++ [58] ++ digits 2 (t / minuteTicks % 60)

/-- The 32 characters of a screen (Table SEAL.8). -/
def screenText (s : State) (k : Nat) : Bytes :=
  let v := Config.legalFirmwareId % 2 ^ 32
  if k = 0 then lineOf (ascii "EZH9256 " ++ ascii (sealName s)) ++ lineOf (ascii "SEALS " ++ decimal (sealCount s))
  else if k = 1 then
    lineOf (ascii "LFW " ++ decimal (v % 256) ++ [46] ++ decimal (v / 256 % 256) ++ [46] ++ decimal (v / 65536)) ++
      lineOf (hexGroups ((be 32 (Config.legalFirmwareId / 2 ^ 32)).take 4))
  else if k = 2 then lineOf (ascii "CAL") ++ lineOf (hexGroups ((calDigest s).take 4))
  else if k = 3 then
    lineOf (dateLine s) ++ lineOf (ascii "TT " ++ ascii (if tt s = 0 then "TRUSTED" else if tt s = 1 then "UNTRUSTED" else "SKEWED"))
  else if k = 0xFFFF then lineOf (ascii "ERR_ROM") ++ lineOf (hexGroups (be 4 v))
  else if 0x900 ≤ k then regScreen s 256 (k - 0x900)
  else regScreen s ((k - 0x100) / 8) ((k - 0x100) % 8)

/-- IND of an LDSP frame (Table SEAL.7). -/
def indByte (s : State) : Nat :=
  flag (legalValid s) 0 + flag (s.lgl.state == .broken) 1 + flag (s.lgl.state == .unsealed) 2 + flag (tt s != 0) 3 +
    flag s.met.tempExt 4 + flag (s.met.mps.any (fun p => p.2.resLost)) 5 + flag s.lgl.unwatched 6

/-- The LDSP frame sent now (Table SEAL.7). -/
def ldspFrame (s : State) : Bytes :=
  let k := if s.lgl.halt then 0xFFFF else s.lgl.screen
  let b := le 1 0xA5 ++ le 1 s.lgl.ldspSeq ++ le 2 k ++ le 1 (indByte s) ++ zeros 1 ++ screenText s k
  b ++ le 2 (crc16 b)

/-- LDSP_FRAME_TIMER (R252): every 500 ms, or after a change of screen or IND. -/
def execLdspFrameTimer (s : State) : Out :=
  .next (whenRunning s fun s =>
    let f := ldspFrame s
    let changed := slice f 2 3 != slice s.lgl.frame 2 3
    if s.lgl.frame.isEmpty ∨ s.lgl.frameAt + 16384 ≤ nowTick s + 163 ∨ (changed ∧ !s.lgl.halt) then
      { s with lgl := { s.lgl with frame := f, ldspSeq := (s.lgl.ldspSeq + 1) % 256, frameAt := nowTick s } }
    else s)

/-- The rotation's screens (R253). -/
def ldspRotation (s : State) : List Nat :=
  [0, 1, 2, 3, 0x900] ++ ((span 0 256).filter (fun m => !mpAbsent s m)).map (fun m => 0x100 + 8 * m)

/-- The screen after one in the rotation. -/
def nextScreen (s : State) : Nat :=
  let cur := if s.lgl.screen < 0x100 then s.lgl.screen else s.lgl.screen / 8 * 8
  let l := ldspRotation s
  match (l.dropWhile (fun k => k != cur)).tail.head? with
  | some k => k
  | none => 0

/-- LDSP_SCREEN_TIMER (R253): each screen is shown for 5 s unless it is held. -/
def execLdspScreenTimer (s : State) : Out :=
  .next (whenRunning s fun s =>
    if s.lgl.holdUntil.isNone ∧ s.lgl.screenAt + secs 5 ≤ nowTick s then
      { s with lgl := { s.lgl with screen := nextScreen s, screenAt := nowTick s } }
    else s)

/-- LDSP_BUTTON (R254): a press of `ms` milliseconds. -/
def execLdspButton (ms : Nat) (s : State) : Out :=
  .next (whenRunning s fun s =>
    let hold := fun (k : Nat) => { s with lgl := { s.lgl with screen := k, screenAt := nowTick s, holdUntil := some (nowTick s + secs 60) } }
    if 50 ≤ ms ∧ ms ≤ 1000 then hold (nextScreen s)
    else if 2000 ≤ ms ∧ 0x100 ≤ s.lgl.screen then hold (s.lgl.screen / 8 * 8 + (s.lgl.screen % 8 + 1) % 7)
    else s)

/-- LDSP_HOLD_EXPIRE (R254): the rotation resumes from the current screen with q = 0. -/
def execLdspHoldExpire (s : State) : Out :=
  .next (whenRunning s fun s =>
    match s.lgl.holdUntil with
    | some t =>
      if t ≤ nowTick s then
        { s with lgl := { s.lgl with holdUntil := none, screenAt := nowTick s,
                                       screen := if s.lgl.screen < 0x100 then s.lgl.screen else s.lgl.screen / 8 * 8 } }
      else s
    | none => s)

end Sys2Proof.Machine
end

