-- ==== Sys2Proof/Machine/Booking.lean ====
section
/-!
DEFINITION. Booking of released and filled energy to sessions, tenants and MPs by the rate of its cycle (R261, R271,
R272).
-/
namespace Sys2Proof.Machine

/-! ### Where energy belongs -/

/-- Sessions. -/
def sessions (s : State) : Tbl Session := s.tar.live.sessions

/-- Replace a session. -/
def setSession (s : State) (id : Nat) (x : Session) : State :=
  { s with tar := { s.tar with live := { s.tar.live with sessions := tput s.tar.live.sessions id x } } }

/-- A session by ID. -/
def sessionById (s : State) (id : Nat) : Option Session := tfind (sessions s) id

/-- The session is open now. -/
def Session.isOpen (x : Session) : Bool := x.opened && x.closed.isNone

/-- The session that an MP carried in a cycle (R277). -/
def sessionAt (s : State) (m n : Nat) : Option (Nat × Session) :=
  (sessions s).find? fun p => p.2.mp == m && p.2.opened && decide (p.2.start ≤ n) &&
    (match p.2.closed with
      | none => true
      | some b => decide (n < b))

/-- The session open on an MP now. -/
def openSession (s : State) (m : Nat) : Option (Nat × Session) := (sessions s).find? fun p => p.2.mp == m && p.2.isOpen

/-- The tenant of the session open on an MP (R388). -/
def mpTenant (s : State) (m : Nat) : Nat := ((openSession s m).map (·.2.tenant)).getD 0

/-- A tenant's billing. -/
def bill (s : State) (t : Nat) : Bill := tget {} s.tar.live.bills t

/-- Replace a tenant's billing. -/
def setBill (s : State) (t : Nat) (x : Bill) : State :=
  { s with tar := { s.tar with live := { s.tar.live with bills := tput s.tar.live.bills t x } } }

/-- An MP's register set. -/
def mpRegs (s : State) (m : Nat) : RegSet := tget {} s.tar.live.mps m

/-- Replace an MP's register set. -/
def setMpRegs (s : State) (m : Nat) (x : RegSet) : State :=
  { s with tar := { s.tar with live := { s.tar.live with mps := tput s.tar.live.mps m x } } }

/-- A calendar's state. -/
def calState (s : State) (c : Nat) : Cal := tget {} s.tar.live.cals c

/-- Replace a calendar's state. -/
def setCal (s : State) (c : Nat) (x : Cal) : State :=
  { s with tar := { s.tar with live := { s.tar.live with cals := tput s.tar.live.cals c x } } }

/-- The calendar of a tenant in a cycle: tenant 0 always uses calendar 0 (R271). -/
def calOf (s : State) (t n : Nat) : Nat := if t = 0 then 0 else tenantCal (atCycle s n) t

/-- The rate a calendar had in a cycle (R261). -/
def rateIn (s : State) (c n : Nat) : Nat :=
  match (calState s c).hist.find? (fun h => decide (h.1 ≤ n)) with
  | some h => h.2.2
  | none => (((calState s c).hist.getLast?).map (·.2.2)).getD (calState s c).rate

/-- Prices of a rate of a calendar in a cycle, µCU per kWh (Table TAR.1). -/
def prices (s : State) (c rate n : Nat) : Nat × Nat :=
  let r := cfgRd (atCycle s n) (slotKey c false)
  (r (32 + 16 * rate) 4, r (32 + 16 * rate + 4) 4)

/-- Total-phase quantities of 28 values. -/
def totals (e : List Nat) : List Nat := (span 0 7).map fun q => nth 0 e (4 * q + 3)

/-- CHARGE of an import and an export in 2^-32 µWh, in 2^-32 µCU (R271). -/
def chargeOf (pr : Nat × Nat) (imp exp : Nat) : Int := roundDiv ((imp * pr.1 : Nat) - (exp * pr.2 : Nat) : Int) 1000000000

/-- Add to a register set. -/
def addRegs (r : RegSet) (rate : Nat) (tot : List Nat) (charge : Int) : RegSet :=
  { imp := setNth r.imp rate (nth 0 r.imp rate + nth 0 tot 0)
    exp := setNth r.exp rate (nth 0 r.exp rate + nth 0 tot 1)
    tot := List.zipWith (· + ·) r.tot tot
    charge := r.charge + charge }

/-- Set PFLAGS of the period that holds cycle n of a tenant: a snapshot still completing, or the running period. -/
def periodFlag (s : State) (t n f : Nat) : State :=
  let x := bill s t
  if x.pend.any (fun p => decide (n < p.cycle)) then
    setBill s t { x with pend := x.pend.map fun p => if n < p.cycle then { p with flags := p.flags ||| f } else p }
  else setBill s t { x with flags := x.flags ||| f }

/-- Add to a tenant's registers and to its snapshots that are still completing (R275). -/
def bookTenant (s : State) (t n rate : Nat) (tot : List Nat) (charge : Int) : State :=
  let x := bill s t
  setBill s t { x with
    regs := addRegs x.regs rate tot charge
    pend := x.pend.map fun p => if n < p.cycle then { p with regs := addRegs p.regs rate tot charge } else p }

/-- Book the released energy of an output of MP m in cycle n to its three places (R271). -/
def book (s : State) (m n : Nat) (e : List Nat) (bridged : Bool) : State :=
  let tot := totals e
  if 256 ≤ m ∨ tot.all (· == 0) then s
  else
    let ses := sessionAt s m n
    let t := (ses.map (·.2.tenant)).getD 0
    let c := calOf s t n
    let rate := rateIn s c n
    let rate0 := rateIn s 0 n
    let ch := chargeOf (prices s c rate n) (nth 0 tot 0) (nth 0 tot 1)
    let ch0 := chargeOf (prices s 0 rate0 n) (nth 0 tot 0) (nth 0 tot 1)
    let s1 := match ses with
      | some (id, x) => setSession s id { x with regs := addRegs x.regs rate tot ch, bridged := x.bridged || bridged }
      | none => periodFlag s 0 n 32
    let s2 := bookTenant s1 t n rate tot ch
    let s3 := setMpRegs s2 m (addRegs (mpRegs s2 m) rate0 tot ch0)
    let s4 := if bridged then periodFlag s3 t n 8 else s3
    { s4 with tar := { s4.tar with recent := (⟨n, m, ses.map (·.1), t, rate, rate0, tot, ch, ch0⟩ : Booked) ::
                                            s4.tar.recent.filter (fun b => decide (n < b.cycle + 64)) } }

/-! ### Fills (R272) -/

/-- The rate intervals of a calendar over a span of frames: rate and frames, from the executed switch boundaries; a span
that begins before the first of them starts at the rate held then (R272). -/
def rateSpans (s : State) (c : Nat) (a z : Int) : List (Nat × Nat) :=
  let h := (calState s c).hist.reverse
  let start := ((h.filter (fun x => decide ((x.2.1 : Int) ≤ a))).getLast?.map (·.2.2)).getD (((h.head?).map (·.2.2)).getD (calState s c).rate)
  let cuts := h.filter (fun x => decide (a < (x.2.1 : Int) ∧ (x.2.1 : Int) < z))
  let pts := (a, start) :: cuts.map (fun x => ((x.2.1 : Int), x.2.2))
  let ends := cuts.map (fun x => (x.2.1 : Int)) ++ [z]
  List.zipWith (fun p e => (p.2, (e - p.1).toNat)) pts ends

/-- One part of seven quantities: `k` of `n` frames. -/
def partOf (tot : List Nat) (k n : Nat) : List Nat := tot.map fun v => v * k / max 1 n

/-- Book a fill of an MP over frames a to z to the session open at the start of the span, in the current period (R272).
`n0` and `n1` are the cycles that hold the span's ends. -/
def bookFill (s : State) (m : Nat) (a z : Int) (n0 n1 : Nat) (fill : List Nat) (bridged : Bool) : State :=
  let tot := totals fill
  if 256 ≤ m ∨ tot.all (· == 0) then s
  else
    let ses := (sessionAt s m n0).or (sessionAt s m n1)
    let t := (ses.map (·.2.tenant)).getD 0
    let c := calOf s t n0
    let one := fun (st : State) (c : Nat) (f : State → Nat → List Nat → Int → State) =>
      (rateSpans st c a z).foldl (fun x p =>
        let part := partOf tot p.2 (z - a).toNat
        f x p.1 part (chargeOf (prices s c p.1 n0) (nth 0 part 0) (nth 0 part 1))) st
    let s1 := one s c fun x rate part ch =>
      let x1 := match ses.bind (fun p => (sessionById x p.1).map (fun y => (p.1, y))) with
        | some (id, y) => setSession x id { y with regs := addRegs y.regs rate part ch, filled := true, bridged := y.bridged || bridged }
        | none => x
      setBill x1 t { bill x1 t with regs := addRegs (bill x1 t).regs rate part ch }
    let s2 := one s1 0 fun x rate part ch => setMpRegs x m (addRegs (mpRegs x m) rate part ch)
    let prior := match (bill s2 t).lastB with
      | some b => decide (n1 < b)
      | none => false
    setBill s2 t { bill s2 t with flags := (bill s2 t).flags ||| (2 + flag prior 2 + flag bridged 3 + flag ses.isNone 5) }

end Sys2Proof.Machine
end

