-- ==== Sys2Proof/Machine/Energy.lean ====
section
/-!
DEFINITION. The verified gate: output energies of the metering points, their release and withholding, no-load, legal
registers, head fills, test pulses and reconciliation (07_energy_pulses.md).
-/
namespace Sys2Proof.Machine

/-! ### Metering points -/

/-- A metering point. -/
def mpOf (s : State) (m : Nat) : Mp := tget {} s.met.mps m

/-- Replace a metering point. -/
def setMp (s : State) (m : Nat) (x : Mp) : State := { s with met := { s.met with mps := tput s.met.mps m x } }

/-- The MPs that are present, and the local incomer (Table MET.3). -/
def presentMps (s : State) : List Nat := (span 0 257).filter (fun m => !mpAbsent s m)

/-- Phases an MP meters (R180): all three, or PHASE. -/
def mpPhases (s : State) (m : Nat) : List Nat := if mpType s m = 2 then [0, 1, 2] else [mpField s m 1 1]

/-- Voltage and current channels of phase p of MP m (R120, R181). -/
def vChan (m p : Nat) : Nat := if m = 256 then 1088 + p else 17 * (m / 4) + p
def iChan (s : State) (m p : Nat) : Nat :=
  if m = 256 then 1091 + p else 17 * (m / 4) + 4 + 3 * (m % 4) + (if mpType s m = 2 then p else 0)

/-- The calibrated value of an output, in µV or µA (R183). -/
def calibrated (s : State) (c : Nat) (v : Int) : Rat :=
  (v * (cfg s (objCode objScale 0) (8 + 8 * c) 4 : Nat) : Int) / ((2 ^ cfg s (objCode objScale 0) (8 + 8 * c + 4) 1 : Nat) : Rat)

/-- The output of a channel at (n, k), when it is computed. -/
def outAt (s : State) (c n k : Nat) : Option OutSample := (chan s c).outs.find? (fun o => o.cycle == n && o.k == k)

/-- The duration of an output of cycle n in seconds: P_n/128 slot frames (R153, R179). -/
def outSeconds (s : State) (n : Nat) : Rat := (65536 : Rat) / (128 * cycleFreq s n : Nat)

/-! ### Sense policy on metered voltages (R223) -/

/-- The sense entry of head h and phase p. -/
def senseOf (s : State) (h p : Nat) : Sense := tget {} s.pqe.sense (3 * h + p)

/-- The section of a head (Table PQE.6). -/
def headSection (s : State) (h : Nat) : Nat := qualityField s (268 + h) 1

/-- The reference channel that substitutes phase p of head h in cycle n (R223). -/
def substChan (s : State) (h p n : Nat) : Option Nat :=
  let k := headSection s h
  let active := (senseOf s h p).applies.elim false (fun a => decide (a ≤ n)) && (senseOf s h p).until_.elim true (fun z => decide (n < z))
  if !active || 8 ≤ k || qualityField s (332 + k) 1 != 0 then none
  else
    let inc := sectionField s k 0 2
    if inc ≠ 0xFFFF then some (vChan inc p)
    else ((positions.filter (fun q => headSection s q == k && (senseOf s q p).state == .normal)).head?).map (fun q => 17 * q + p)

/-! ### Forming outputs (R179, R185) -/

/-- One phase of an output: values, flags, spans and last label. -/
def phaseOut (s : State) (m p n k : Nat) : Option (Rat × Rat × Nat × List (Nat × Int × Int) × Int) :=
  let v := atCycle s n
  let sub := if m = 256 then none else substChan v (m / 4) p n
  let vc := sub.getD (vChan m p)
  let ic := iChan v m p
  match outAt s vc n k, outAt s ic n k with
  | some a, some b =>
    let sp := fun (c : Nat) (o : OutSample) => match chanHead c with
      | some h => [(h, o.lo, o.hi)]
      | none => []
    some (calibrated v vc a.val, calibrated v ic b.val, (a.flags ||| b.flags) ||| (if sub.isSome then 32 else 0),
      sp vc a ++ sp ic b, max a.hi b.hi)
  | _, _ => none

/-- Form the outputs of an MP whose channels' outputs exist. -/
def formOuts : Nat → State → Nat → State
  | 0, s, _ => s
  | fuel + 1, s, m =>
    let x := mpOf s m
    match x.form with
    | none =>
      match (chan s (vChan m (nth 0 (mpPhases s m) 0))).outs.head? with
      | none => s
      | some o => formOuts fuel (setMp s m { x with form := some (o.cycle, o.k) }) m
    | some (n, k) =>
      let ps := (mpPhases (atCycle s n) m).map (fun p => phaseOut s m p n k)
      if ps.any (·.isNone) then s
      else
        match nextOutput s n k with
        | none => s
        | some nx =>
          let qs := ps.filterMap id
          let o : MpOut := ⟨n, k, qs.foldl (fun a q => max a q.2.2.2.2) (-1), qs.map (·.1), qs.map (·.2.1), outSeconds s n,
            qs.foldl (fun a q => a ||| q.2.2.1) 0, qs.flatMap (·.2.2.2.1)⟩
          formOuts fuel (setMp s m { x with form := some nx, queue := x.queue ++ [o] }) m

/-! ### Powers (R179, R183) -/

/-- Sum of rationals. -/
def rsum (l : List Rat) : Rat := l.foldl (· + ·) 0

/-- The component of bin 1 of 128 values, oldest first: cosine and sine sums (R179). -/
def bin1 (l : List Rat) : Rat × Rat :=
  ((List.zipWith (fun (v : Rat) (j : Nat) => v * (cosTurn j 128 : Rat) / (fixOne : Rat)) l (span 0 128)).foldl (· + ·) 0,
   (List.zipWith (fun (v : Rat) (j : Nat) => v * (sinTurn j 128 : Rat) / (fixOne : Rat)) l (span 0 128)).foldl (· + ·) 0)

/-- Q of a phase over the sliding cycle: half the imaginary part of V̂ times the conjugate of Î (R179). -/
def reactive (v i : List Rat) : Rat :=
  let a := bin1 v
  let b := bin1 i
  -- V̂ = (2/128)(a.1 − j·a.2), Î likewise
  (a.1 * b.2 - a.2 * b.1) * 2 / 16384

/-- P of a phase over the sliding cycle, in pW, with POFS (R179, R183). -/
def slideP (s : State) (m : Nat) (w : List Slide) (j p : Nat) : Rat :=
  rsum (w.map fun x => nth 0 x.e j) / rsum (w.map (·.dt)) + (mpInt s m (28 + 4 * p) : Rat) * 1000000000
where
  mpInt (s : State) (m off : Nat) : Int := signed 32 (mpField s m off 4)

/-- Q of a phase over the sliding cycle with GQ (R183). -/
def slideQ (s : State) (m : Nat) (w : List Slide) (j p : Nat) : Rat :=
  reactive (w.reverse.map fun x => nth 0 x.v j) (w.reverse.map fun x => nth 0 x.i j) *
    (1 + (signed 32 (mpField s m (16 + 4 * p) 4) : Rat) / 1073741824)

/-- The seven quantities of a pair (P, Q) in pW (Table MET.1). -/
def quantities (p q : Rat) : List Rat :=
  [if 0 ≤ p then p else 0, if p < 0 then -p else 0,
   if 0 ≤ p ∧ 0 ≤ q then q else 0, if p < 0 ∧ 0 ≤ q then q else 0,
   if p < 0 ∧ q < 0 then -q else 0, if 0 ≤ p ∧ q < 0 then -q else 0,
   ((isqrt (max 0 (p * p + q * q).floor).toNat : Nat) : Rat)]

/-- The 28 powers of an output, index 4q + p (R178–R180). -/
def outPowers (s : State) (m : Nat) (w : List Slide) : List Rat :=
  let ph := mpPhases s m
  let pq := (List.zipWith (fun (p j : Nat) => (p, slideP s m w j p, slideQ s m w j p)) ph (span 0 3))
  let per := fun (p : Nat) => match pq.find? (fun x => x.1 == p) with
    | some x => quantities x.2.1 x.2.2
    | none => List.replicate 7 0
  let tot := quantities (rsum (pq.map (·.2.1))) (rsum (pq.map (·.2.2)))
  (span 0 7).flatMap fun q => [nth 0 (per 0) q, nth 0 (per 1) q, nth 0 (per 2) q, nth 0 tot q]

/-- Energy of a power in pW over a time, in 2^-32 units: rounding happens once (R183). -/
def toUnits (x dt : Rat) : Nat := (roundRat (x * dt * 4294967296 / 3600000000)).toNat

/-! ### Events and the legal log (R185–R187) -/

/-- An event about an MP whose chapter names what it carries but no layout. -/
def mpEvent (s : State) (id m : Nat) (fields : List Int) : State :=
  raise s { id := id, src := m, tenant := mpTenant s m, data := Config.eventData id ((m : Int) :: fields) }

/-- FLAGGED_SPAN opens at the first cycle with a flagged release and closes at the first without one (Table SEAL.6). -/
def flaggedSpan (s : State) (m flags : Nat) : State :=
  let f := flag (bit flags 2) 0 + flag (bit flags 3) 1 + flag (bit flags 5) 2 + flag (bit flags 4) 3
  match tfind s.lgl.flagged m with
  | none =>
    if f = 0 then s
    else legalLog { s with lgl := { s.lgl with flagged := tput s.lgl.flagged m (f, 1) } } 0x0F 0 m (le 1 f ++ zeros 3 ++ le 4 0)
  | some (g, n) =>
    if f = 0 then legalLog { s with lgl := { s.lgl with flagged := tdel s.lgl.flagged m } } 0x0F 1 m (le 1 g ++ zeros 3 ++ le 4 n)
    else { s with lgl := { s.lgl with flagged := tput s.lgl.flagged m (g ||| f, n + 1) } }

/-! ### Test pulses (R200–R203) -/

/-- The object bytes of a pin (Table MET.4). -/
def pinCfg (s : State) (p : Nat) : Bytes := cfgBytes s (objCode objCf 0) (12 * p) 12

/-- The pulse quantum in 2^-32 µWh (R201). -/
def quantum (b : Bytes) : Nat := (roundDiv (1000000000 * 4294967296) (max 1 (fld b 4 4))).toNat

/-- A pin. -/
def pinOf (s : State) (p : Nat) : CfPin := nth {} s.met.pins p

/-- Replace a pin. -/
def setPin (s : State) (p : Nat) (x : CfPin) : State := { s with met := { s.met with pins := setNth s.met.pins p x } }

/-- Emit a pending pulse when the pin is low and 4 frames have passed since the last (R201, R202). -/
def pinEmit (s : State) (p f : Nat) : State :=
  let x := pinOf s p
  let free := match x.rise with
    | some r => decide (r + 4 ≤ f)
    | none => true
  if 0 < x.pending && !x.high && free then
    let w := fld x.cfg 3 1 * 1024
    let width := match x.rise with
      | some r => min w ((f - r) * 50)
      | none => w
    let left := x.pending - 1
    setPin s p { x with pending := left, high := true, rise := some f, width := width, count := x.count + 1,
                        overrun := x.overrun && decide (65535 < left + 1) }
  else s

/-- Add an output's energy to a pin; its pulses fall due at frame f (R201, R202). -/
def pinAdd (s : State) (p f e : Nat) : State :=
  let x := pinOf s p
  let q := quantum x.cfg
  let total := x.acc + e
  let due := x.pending + total / q
  let s1 := setPin s p { x with acc := total % q, pending := min 65535 due, overrun := x.overrun || decide (65535 < due) }
  let s2 := if 65535 < due ∧ !x.overrun then raise s1 { id := 0x306, src := p, data := Config.eventData 0x306 [(p : Nat)] } else s1
  pinEmit s2 p f

/-- Feed the pins that an MP's released output drives: only under the pin object the output's cycle ran under (R203). -/
def feedPins (s : State) (m n f : Nat) (e : List Nat) : State :=
  (span 0 4).foldl (fun a p =>
    let x := pinOf a p
    if fld x.cfg 0 2 = m ∧ pinCfg (atCycle a n) p = x.cfg then
      pinAdd a p f (nth 0 e (4 * (fld x.cfg 2 1 % 8) + fld x.cfg 2 1 / 8 % 4))
    else a) s

/-- CF_SPACING_EXPIRE (R202). -/
def execCfSpacingExpire (p : Nat) (s : State) : Out :=
  .next (whenRunning s fun s => pinEmit s p s.ply.frame)

/-- CF_WIDTH_END (R201): the pulse's width has passed; the next pending pulse may follow. -/
def execCfWidthEnd (p : Nat) (s : State) : Out :=
  .next (whenRunning s fun s =>
    let x := pinOf s p
    match x.rise with
    | some r =>
      if x.high ∧ x.width ≤ (s.ply.frame - r) * 100 then pinEmit (setPin s p { x with high := false }) p s.ply.frame else s
    | none => s)

/-! ### Release (R173, R185–R190) -/

/-- No-load and Q suppression of a cycle (R189, R190). -/
def nlOf (x : Mp) (n : Nat) : Bool × Bool :=
  match x.nlCycles.find? (fun e => e.1 == n) with
  | some e => e.2
  | none => (x.noLoad, false)

/-- Elementwise sum of two lists of 28. -/
def addList (a b : List Nat) : List Nat := List.zipWith (· + ·) a b

/-- The first cycle released after a withheld run gives its edge part the mean power (R197). -/
def heldPow (pow : List Rat) (h : HeldRun) : HeldRun := if h.z.isSome && h.pow.isNone then { h with pow := some pow } else h

/-- The first output released after a withheld run is Z (Table CUS.3). -/
def heldZ (st : Stamp) (fr : Int) (h : HeldRun) : HeldRun := if h.z.isNone then { h with z := some (st, fr) } else h

/-- Take a cycle that has been released into the list for the boundary work, with the mean power it leaves (R186). -/
def closeCycle (s : State) (m : Nat) : State :=
  let x := mpOf s m
  match x.cur with
  | none => s
  | some c =>
    let clean := !bit c.flags 10 && c.whole
    let pow := c.e.map fun (e : Nat) => (e : Rat) / c.dt
    let ok := clean && !bit c.flags 0 && !bit c.flags 1 && !bit c.flags 3
    let w := x.slide.take 128
    let ph := (span 0 3).map fun j => rsum (w.map fun y => nth 0 y.e j) / rsum (w.map (·.dt))
    let s1 := setMp s m { x with cur := none, done := x.done ++ [c], past := ((c.cycle, c.e) :: x.past).take 64, lastPow := if clean then pow else x.lastPow,
                                 held := if clean then x.held.map (heldPow pow) else x.held,
                                 basis := if ok then some (c.cycle, pow, ph) else x.basis, subst := bit c.flags 5 }
    flaggedSpan s1 m (if bit c.flags 10 then 0 else c.flags)

/-- Position of output (n, k) on the frame timeline, in 1/65,536 frame (R153). -/
def outFrame (s : State) (n k : Nat) : Nat :=
  match logEntry s n with
  | some e => cycleFrame e + k * 10240 * 4294967296 / (128 * cycleFreq s n)
  | none => s.ply.frame * 65536

/-- Whether any window an output's spans touch lacks a PASS, or its data is INVALID (R185). -/
def outBad (s : State) (o : MpOut) : Bool :=
  bit o.flags 0 || o.spans.any fun sp =>
    (span (sp.2.1.toNat / 256) (sp.2.2.toNat / 256 - sp.2.1.toNat / 256 + 1)).any fun w =>
      match tfind (head s sp.1).verdicts w with
      | some v => v != 0
      | none => true

/-- Release or withhold one output of an MP at frame f (R185). -/
def releaseOut (s : State) (m : Nat) (o : MpOut) (f : Nat) : State :=
  let s0 := match (mpOf s m).cur with
    | some c => if c.cycle = o.cycle then s else closeCycle s m
    | none => s
  let x := mpOf s0 m
  let v := atCycle s0 o.cycle
  let settle := bit o.flags 1
  let basis := match x.basis with
    | some b => if o.cycle ≤ b.1 + 64 then some b else none
    | none => none
  let gains := (mpPhases v m).map fun p => (1 : Rat) + (signed 32 (mpField v m (4 + 4 * p) 4) : Rat) / 1073741824
  let e := if settle then (match basis with
      | some b => b.2.2.map (· * o.dt)
      | none => [0, 0, 0])
    else List.zipWith (· * ·) (List.zipWith (fun a b => a * b * o.dt) o.v o.i) gains
  let slide := (⟨e, o.dt, o.v, o.i, outBad s0 o⟩ : Slide) :: x.slide.take 127
  let since := if outBad s0 o then 0 else min 128 (x.sinceBad + 1)
  let withheld := decide (since < 128)
  let nl := nlOf x o.cycle
  let pow := if settle then (match basis with
      | some b => b.2.1
      | none => List.replicate 28 0)
    else (outPowers v m slide).map (fun w => w / 3600000000 * 4294967296)
  let kept := List.zipWith (fun (w : Rat) (q : Nat) => if nl.1 || (nl.2 && decide (8 ≤ q ∧ q < 24)) then 0 else w) pow (span 0 28)
  let units := kept.map fun w => (roundRat (w * o.dt)).toNat
  let fl := o.flags + flag settle 8 + flag (settle && basis.isNone) 9 + flag withheld 10
  let c0 : CycE := x.cur.getD ⟨o.cycle, List.replicate 28 0, 0, 0, o.k == 0⟩
  let c1 := { c0 with e := if withheld then c0.e else addList c0.e units, flags := c0.flags ||| fl, dt := c0.dt + o.dt }
  let x1 := { x with slide := slide, sinceBad := since, front := nextOutput s0 o.cycle o.k, cur := some c1 }
  if withheld then
    let inc := if nl.1 then List.replicate 28 0 else x.lastPow.map fun w => (roundRat (w * o.dt)).toNat
    let st := mkStamp o.cycle (512 * o.k)
    let s1 := setMp s0 m { x1 with est := addList x.est inc,
                                   held := if x.run.isNone then x.held ++ [{ start := st, ticks := nowTick s0, frame := (outFrame s0 o.cycle o.k / 65536 : Nat) }] else x.held
                                   run := x.run.or (some (st, nowTick s0, (outFrame s0 o.cycle o.k / 65536 : Nat))) }
    let s2 := if x.run.isNone then mpEvent s1 0x300 m [0, st] else s1
    if o.k = 127 then closeCycle s2 m else s2
  else
    let s1 := setMp s0 m { x1 with
      acc := addList x.acc units, uncommitted := addList x.uncommitted units, run := none, released := true
      held := x.held.map (heldZ (mkStamp o.cycle (512 * o.k)) (outFrame s0 o.cycle o.k / 65536 : Nat)) }
    let s2 := if x.run.isSome then mpEvent s1 0x300 m [1, mkStamp o.cycle (512 * o.k)] else s1
    let s3 := book (feedPins s2 m o.cycle f units) m o.cycle units settle
    if o.k = 127 then closeCycle s3 m else s3

/-- Release every output of an MP whose release instant has come by frame f (R185, R188). -/
def releaseAll : Nat → State → Nat → Nat → State
  | 0, s, _, _ => s
  | fuel + 1, s, m, f =>
    match (mpOf s m).queue with
    | [] => s
    | o :: rest =>
      if o.last + 512 ≤ f then releaseAll fuel (releaseOut (setMp s m { mpOf s m with queue := rest }) m o f) m f else s

/-! ### No-load (R189) -/

/-- Evaluate an MP's no-load condition over a whole cycle of formed outputs; a cycle with INVALID or SETTLE outputs is
not evaluated (DEDUCED from R162 and R186, log entry 16). -/
def noLoadCycle (s : State) (m n : Nat) : State :=
  let x := mpOf s m
  let l := x.queue.filter (fun o => o.cycle == n)
  let v := atCycle s n
  let next := { x with nlNext := nextCycle s n }
  if l.length < 128 ∨ l.any (fun o => bit o.flags 0 || bit o.flags 1) then
    setMp s m { next with nlCycles := (n, x.noLoad, false) :: x.nlCycles.take 7 }
  else
    let ph := mpPhases v m
    let gains := ph.map fun p => (1 : Rat) + (signed 32 (mpField v m (4 + 4 * p) 4) : Rat) / 1073741824
    let w := l.reverse.map fun o => (⟨List.zipWith (· * ·) (List.zipWith (fun a b => a * b * o.dt) o.v o.i) gains, o.dt, o.v, o.i, false⟩ : Slide)
    let pt := rsum (List.zipWith (fun (p j : Nat) => slideP v m w j p) ph (span 0 3))
    let qt := rsum (List.zipWith (fun (p j : Nat) => slideQ v m w j p) ph (span 0 3))
    let start := (mpField v m 48 4 : Rat) * 1000
    let low := (span 0 ph.length).all fun j => decide (rsum (l.map fun o => nth 0 o.i j * nth 0 o.i j) / 128 < start * start)
    let mag := fun (a : Rat) => if a < 0 then -a else a
    let cond := low || decide (mag pt < (mpField v m 40 4 : Rat) * 1000000000)
    let run := if cond then x.nlRun + 1 else 0
    let nl := decide (8 ≤ run)
    let qs := !nl && decide (mag qt < (mpField v m 44 4 : Rat) * 1000000000)
    let s1 := setMp s m { next with nlRun := run, noLoad := nl, nlCycles := (n, nl, qs) :: x.nlCycles.take 7 }
    if nl = x.noLoad then s1 else mpEvent s1 0x302 m [if nl then 1 else 0]

/-- NO_LOAD_EVALUATION (R189): every cycle whose outputs are all formed. -/
def noLoadAll : Nat → State → Nat → State
  | 0, s, _ => s
  | fuel + 1, s, m =>
    let x := mpOf s m
    match x.nlNext with
    | none =>
      match x.queue.find? (fun o => o.k == 0) with
      | some o => noLoadAll fuel (setMp s m { x with nlNext := some o.cycle }) m
      | none => s
    | some n => if x.queue.any (fun o => o.cycle == n && o.k == 127) then noLoadAll fuel (noLoadCycle s m n) m else s

/-! ### Legal registers (R191–R194) -/

/-- The residuals of an MP in retention SRAM (Table BKD.5). -/
def residuals (s : State) (m : Nat) : List Nat := tget (List.replicate 28 0) s.bkd.ret.res m

/-- Replace the residuals of an MP. -/
def setResiduals (s : State) (m : Nat) (r : List Nat) : State :=
  { s with bkd := { s.bkd with ret := { s.bkd.ret with res := tput s.bkd.ret.res m r } } }

/-- One commit quantum (R191). -/
def commitQuantum : Nat := 100000000

/-- Ladder increments asked for and not yet durable. -/
def incsPending (s : State) (k : Nat) : Nat := (s.cis.incs.filter (· == k)).length

/-- Ask for the increments of one register: one for each quantum its residual holds and no increment covers (R191). -/
def commitReg (s : State) (m x : Nat) : State :=
  let k := ladderKey 0 (regLid m x)
  let due := nth 0 (residuals s m) x / commitQuantum
  (span 0 (due - incsPending s k)).foldl (fun a _ => requestInc a k) s

/-- REGISTER_COMMIT (R191): the energy released since the previous boundary enters the residuals. -/
def commitMp (s : State) (m : Nat) : State :=
  let x := mpOf s m
  let s1 := setResiduals (setMp s m { x with uncommitted := x.uncommitted.map (· % 4294967296) }) m
    (List.zipWith (fun r u => r + u / 4294967296) (residuals s m) x.uncommitted)
  if legalReadOnly s then s1 else (span 0 28).foldl (fun a i => commitReg a m i) s1

/-- Rollovers of an MP's registers: one EV_MET_ROLLOVER per boundary, with a legal log entry (R194). -/
def rollovers (s : State) (m : Nat) : State :=
  (span 0 28).foldl (fun a i =>
    let n := ladderValue a (ladderKey 0 (regLid m i)) / 10 ^ regDigits a
    let x := mpOf a m
    if nth 0 x.rolls i < n then
      mpEvent (legalLog (setMp a m { x with rolls := setNth x.rolls i n }) 0x0B 0 m (le 1 i ++ zeros 3 ++ le 4 n)) 0x303 m [i, n]
    else a) s

/-- The residual of a register once an increment of its ladder is durable (R191): RES − 10^8. -/
def incDurable (s : State) (k : Nat) : State :=
  if k < runLid then
    let m := k / 28
    let x := k % 28
    let r := residuals s m
    setResiduals s m (setNth r x (nth 0 r x - commitQuantum))
  else s

/-! ### Junction temperature (R195) -/

/-- JUNCTION_TEMP_RANGE (R195): the junction leaves or enters the metrology range; `temp` in 1/64 °C. -/
def execJunctionTempRange (outside : Bool) (temp : Int) (s : State) : Out :=
  .next (whenRunning s fun s =>
    if s.met.tempExt = outside then s
    else
      let s1 := legalLog { s with met := { s.met with tempExt := outside } } 0x0C (flag (!outside) 0) 0xFFFF (leInt 2 temp)
      raise s1 { id := 0x305, data := Config.eventData 0x305 [if outside then 0 else 1, temp] })

/-! ### Fills from head reports (R196–R199) -/

/-- Register x of local MP k in a report block (Table HED.5): q = x / 4; phases other than the total are 0 for a
three-phase MP, whose report holds totals only. -/
def reportReg (rep : Bytes) (base k q : Nat) : Int := (fld rep (base + 56 * k + 8 * q) 8 : Nat)

/-- The withheld run of an MP that a report fills: still open at S and not yet decided (R196). -/
def runAt (x : Mp) (st : Int) : Option HeldRun :=
  x.held.find? fun h => !h.decided && h.edge.isNone && h.gflags == 2 && (h.boot || decide (h.frame < st)) &&
    (match h.z with
      | none => true
      | some z => decide (st ≤ z.2))

/-- Where the fill of a run starts from: the release front on the frame timeline with its cycle, and E_0.  For the run of a
CHIP reset, A is the last anchored boundary's frame less 512, at 3.2 ticks a frame, and E_0 counts back from S by
LOCAL_FRAMES (R198). -/
def fillFrom (s : State) (h : HeldRun) (ends local_ st : Int) : Int × Nat × Int :=
  if h.boot then
    match s.clk.anchor, s.clk.first with
    | some a, some e => ((e.frame : Int) - (((e.ticks - a.2) * 10 + 31) / 32 : Nat) - 512, a.1, st - local_)
    | _, _ => (h.frame, Stamp.cycle h.start, st - local_)
  else (h.frame, Stamp.cycle h.start, ends)

/-- Fill one withheld run of an MP from an accepted report (R197–R199).  `ends` is END_FRAME, `st` is S. -/
def fillMp (s : State) (m : Nat) (rep : Bytes) (ends local_ st : Int) : State :=
  match runAt (mpOf s m) st with
  | none => s
  | some hr =>
    let (front, n0, e0) := fillFrom s hr ends local_ st
    let x := mpOf s m
    let snaps := fld rep 40 1
    if snaps = 0 ∨ st ≤ front then s
    else
      let ok := (span 0 (min 4 snaps)).filter (fun (j : Nat) => decide (e0 - 256 * (j : Int) ≤ front))
      let j := ok.headD (snaps - 1)
      let ej := e0 - 256 * (j : Int)
      let noBasis := decide (front < ej)
      let a := max front ej
      let h := fun (q : Nat) => (reportReg rep 940 (m % 4) q - reportReg rep (44 + 224 * j) (m % 4) q) * 1000
      let raw := fun (q : Nat) => (h q * (st - a) * 4294967296 : Int) / max 1 (st - ej)
      let dis := (span 0 7).any (fun q => decide (h q < 0))
      let ph := if mpType s m = 1 then some (mpField s m 1 1) else none
      let fill := (span 0 28).map fun i =>
        if i % 4 = 3 ∨ ph = some (i % 4) then (raw (i / 4)).toNat else 0
      let secs_ : Rat := (((st - a).toNat : Nat) : Rat) / 10240
      let sub := x.lastPow.map fun w => (roundRat (w * secs_)).toNat
      let s1 := setMp s m { x with
        acc := addList x.acc fill, uncommitted := addList x.uncommitted fill
        est := List.zipWith (fun e u => e - u) x.est sub, filled := true
        done := x.done ++ [⟨nowCycle s, fill, 2048 + flag noBasis 9, 0, false⟩]
        held := x.held.map fun y => if y = hr then
          { y with edge := some st, evid := nth 0 fill 3, gflags := 1 + flag noBasis 2 + flag dis 3 } else y }
      let mask := nsum ((span 0 7).map fun q => flag (decide (0 < raw q)) q)
      let s2 := legalLog s1 0x0D 0 m (le 4 (st - a).toNat ++ le 1 mask ++ le 1 (flag dis 0 + flag noBasis 1))
      let s3 := mpEvent s2 0x301 m [if dis then 1 else 0, if noBasis then 1 else 0, a, st]
      bookFill s3 m a st n0 (nowCycle s) fill false

/-- The edge part of a fill (R197): S to Z, at the mean power of the first released cycle, flagged BRIDGED. -/
def edgeFill (s : State) (m : Nat) (h : HeldRun) : State :=
  match h.edge, h.z, h.pow with
  | some st, some z, some pow =>
    let x := mpOf s m
    let d : Rat := ((z.2 - st).toNat : Rat) / 10240
    let fill := pow.map fun w => (roundRat (w * d)).toNat
    let s1 := setMp s m { x with
      acc := addList x.acc fill, uncommitted := addList x.uncommitted fill
      est := List.zipWith (fun e u => e - u) x.est fill
      done := x.done ++ [⟨nowCycle s, fill, 2048 + 256, 0, false⟩]
      held := x.held.map fun y => if y = h then
        { y with edge := none, evid := y.evid + nth 0 fill 3, gflags := y.gflags ||| 16, decided := true } else y }
    bookFill s1 m st z.2 (Stamp.cycle z.1 - 1) (Stamp.cycle z.1) fill true
  | _, _, _ => s

/-- A report of the MP's head is still to come (R143). -/
def reportDue (s : State) (m : Nat) : Bool :=
  decide (m < 256) && (let h := head s (m / 4)
    h.reports.any (fun r => r.1 == 1) ||
    (s.ply.queue.any fun q => q.addr == m / 4 && q.typ == 0x46 && q.payload.headD 0 == 1))

/-- Settle the withheld runs of an MP that have ended: the edge part of a fill, or EST_ONLY when no report is to come
(R197, R199). -/
def settleRuns (s : State) (m : Nat) : State :=
  ((mpOf s m).held.filter (fun h => !h.decided && h.z.isSome)).foldl (fun a h =>
    if h.edge.isSome then edgeFill a m h
    else if reportDue a m then a
    else setMp a m { mpOf a m with held := (mpOf a m).held.map fun y => if y = h then { y with decided := true } else y }) s

/-! ### Reconciliation (R204, R205) -/

/-- Net active energy of a released cycle, in 2^-32 µWh: import less export, total. -/
def netActive (e : List Nat) : Int := (nth 0 e 3 : Nat) - (nth 0 e 7 : Nat)

/-- Add a released cycle of an MP to the periods of the sections it belongs to. -/
def reconAdd (s : State) (m : Nat) (c : CycE) : State :=
  (span 0 8).foldl (fun a k =>
    let inc := sectionField a k 0 2
    if inc = 0xFFFF then a
    else
      let member := m < 256 && mpSection a m == k && mpRole a m == 0 && !mpAbsent a m
      if inc ≠ m ∧ !member then a
      else
        let len := max 1 (sectionField a k 8 4)
        let start := c.cycle / len * len
        let r := tget {} a.met.recon k
        let p := tget (0, 0, false) r.periods start
        let bad := c.flags &&& 3616 != 0
        let p1 := if inc = m then (p.1 + netActive c.e, p.2.1, p.2.2 || bad) else (p.1, p.2.1 + netActive c.e, p.2.2 || bad)
        { a with met := { a.met with recon := tput a.met.recon k { r with periods := tput r.periods start p1 } } }) s

/-- The first cycle of an MP that has not been wholly released. -/
def relCycle (s : State) (m : Nat) : Nat :=
  match (mpOf s m).front with
  | some (n, _) => n
  | none => 0

/-- Judge one reconciliation period (R204, R205, Table MET.7). -/
def reconJudge (s : State) (k start : Nat) (p : Int × Int × Bool) : State :=
  let r := tget {} s.met.recon k
  let len := max 1 (sectionField s k 8 4)
  let t0 := (logEntry s start).map (·.ticks)
  let t1 := (logEntry s (start + len)).map (·.ticks)
  let hours : Rat := match t0, t1 with
    | some a, some b => ((b - a : Nat) : Rat) / (32768 * 3600)
    | _, _ => ((len : Nat) : Rat) * 65536 / (s.clk.freq * 3600 : Nat)
  let d := p.1 - p.2.1
  let tol : Rat := ((p.1.natAbs * sectionField s k 3 1 : Nat) : Rat) / 1000
  let lim : Rat := (sectionField s k 4 4 : Rat) * hours * 1000000 * 4294967296 + tol
  let res := if p.2.2 then 3 else if lim < (d : Rat) then 1 else if tol < ((-d : Int) : Rat) then 2 else 0
  let qual := if res = 3 then r.qual else if res = r.result then r.qual + 1 else 1
  let r1 : Recon := { r with periods := tdel r.periods start, qual := qual, result := if res = 3 then r.result else res }
  let fire := (res = 1 ∨ res = 2) && decide (sectionField s k 2 1 = qual)
  let clear := res == 0 && r.standing
  let r2 := if fire then { r1 with standing := true } else if clear then { r1 with standing := false } else r1
  let s1 := { s with met := { s.met with recon := tput s.met.recon k r2 } }
  let s2 := archive s1 7 0 0xFFFFFFFF (le 1 k ++ le 1 res ++ le 1 (min 255 (if res = 3 then r.qual else qual)) ++ zeros 1 ++ le 5 start ++ zeros 3 ++
    leInt 8 (roundDiv p.1 4294967296) ++ leInt 8 (roundDiv p.2.1 4294967296) ++ zeros 4)
  let s3 := if fire then tamper (raise s2 { id := 0x307, src := k, data := Config.eventData 0x307 [(k : Nat), (res : Nat)] }) tamperDevice (if res = 1 then 3 else 4) else s2
  if clear then raise s3 { id := 0x307, src := k, data := Config.eventData 0x307 [(k : Nat), 0] } else s3

/-- RECONCILIATION_PERIOD_END (R204): every period whose cycles have all been released or withheld. -/
def reconAll (s : State) : State :=
  (span 0 8).foldl (fun a k =>
    let inc := sectionField a k 0 2
    let len := max 1 (sectionField a k 8 4)
    let members := inc :: ((span 0 256).filter (fun m => mpSection a m == k && mpRole a m == 0 && !mpAbsent a m))
    let done := members.foldl (fun lo m => min lo (relCycle a m)) (relCycle a inc)
    if inc = 0xFFFF then a
    else ((tget {} a.met.recon k).periods.filter (fun p => decide (p.1 + len ≤ done))).foldl (fun b p => reconJudge b k p.1 p.2) a) s

end Sys2Proof.Machine
end

