-- ==== Sys2Proof/Machine/Quality.lean ====
section
/-!
DEFINITION. Power quality and channel health: harmonics, unbalance, frequency, voltage events, captures, sense faults and
spare rotation (08_quality_health.md).
-/
namespace Sys2Proof.Machine

/-! ### Harmonics (R209–R211) -/

/-- 2^120 × |X_b|² of N values, oldest first: the squared magnitude of DFT bin b, in 2^-40 units. -/
def binPower (l : List Int) (n b : Nat) : Nat :=
  let re := isum (List.zipWith (fun (v : Int) (j : Nat) => v * cosTurn (b * j % n) n) l (span 0 n))
  let im := isum (List.zipWith (fun (v : Int) (j : Nat) => v * sinTurn (b * j % n) n) l (span 0 n))
  ((re * re + im * im) / 2 ^ 80).toNat

/-- Angle of bin b, in 1/65,536 turn (DFT of a cosine; DEDUCED, log entry 17). -/
def binAngle (l : List Int) (n b : Nat) : Nat :=
  let re := isum (List.zipWith (fun (v : Int) (j : Nat) => v * cosTurn (b * j % n) n) l (span 0 n))
  let im := isum (List.zipWith (fun (v : Int) (j : Nat) => v * sinTurn (b * j % n) n) l (span 0 n))
  angleOf re (-im)

/-- 2^40 × the squared subgroup sum of harmonic h over a window of W cycles: three bins (R209). -/
def subgroup (l : List Int) (w h : Nat) : Nat :=
  let n := 128 * w
  binPower l n (w * h - 1) + binPower l n (w * h) + binPower l n (w * h + 1)

/-- The flags of a harmonic record (Table PQE.1). -/
def harmFlags (s : State) (c : Nat) (outs : List OutSample) : Nat :=
  let any := fun (b : Nat) => outs.any (fun o => bit o.flags b)
  let sync := outs.any (fun o => decide (2 ≤ cycleClk s o.cycle))
  let range := chanRange c (outs.foldl (fun a o => min a o.lo) ((outs.headD ⟨0, 0, 0, 0, 0, 0⟩).lo)) (outs.foldl (fun a o => max a o.hi) 0)
  flag (any 0 || any 1) 0 + flag sync 1 + flag (any 2) 2 + flag (any 3) 3 + flag (any 5) 4 + flag (any 4) 5 +
    flag (firstFailed s range).isSome 6

/-- The harmonic record of a channel's window that ends with cycle n, and its values (R209, R210).  With G_1 = 0 the
ratios and the angle are not stated by the spec: they are free values. -/
def harmRecord (s : State) (c n : Nat) (outs : List OutSample) : State × Harm :=
  let w := winLen s
  let fl := harmFlags s c outs
  let range := chanRange c (outs.foldl (fun a o => min a o.lo) ((outs.headD ⟨0, 0, 0, 0, 0, 0⟩).lo)) (outs.foldl (fun a o => max a o.hi) 0)
  let first := n + 1 - w
  let l := outs.reverse.map (·.val)
  let miss := bit fl 0
  let s1 := subgroup l w 1
  let open_ := !miss && s1 == 0
  let free := fun (i : Nat) => Config.freeValue (s.free + i) % 65536
  let g1 := if miss then 0 else rootDiv (2 * s1) ((128 * w) * (128 * w) * 2 ^ 40)
  let h0 := if miss then 0 else roundDiv (isum l) (128 * w)
  let ang := if miss then 0 else if open_ then free 0 else binAngle l (128 * w) w
  let thd := if miss then 0 else if open_ then free 1
    else min 65535 (rootDiv (100000000 * nsum ((span 2 39).map (subgroup l w))) s1)
  let hr := (span 2 49).map fun h =>
    if miss then 0 else if open_ then free h else min 65535 (rootDiv (1073741824 * subgroup l w h) s1)
  let body := le 2 c ++ le 2 fl ++ le 5 first ++ le 1 w ++ le 2 (rangeCount range) ++ le 4 (rangeStart s range) ++ le 4 g1 ++
    leInt 4 h0 ++ le 2 ang ++ le 2 thd ++ (hr.map (le 2)).flatten ++ zeros 2
  (streamOnly (if open_ then { s with free := s.free + 51 } else s) 0x21 body, ⟨first, fl, g1, ang⟩)

/-! ### Voltage sets (R212, R214–R216) -/

/-- The voltage set of a channel, with its phase. -/
def setOf (c : Nat) : Option (Nat × Nat) :=
  if c < 1088 then (if c % 17 < 3 then some (c / 17, c % 17) else none)
  else if c < 1091 then some (64, c - 1088) else none

/-- The channels of a voltage set. -/
def setChans (k : Nat) : List Nat := if k < 64 then span (17 * k) 3 else span 1088 3

/-- A voltage set. -/
def voltSet (s : State) (k : Nat) : VoltSet := tget {} s.pqe.sets k

/-- Replace a voltage set. -/
def setVoltSet (s : State) (k : Nat) (v : VoltSet) : State := { s with pqe := { s.pqe with sets := tput s.pqe.sets k v } }

/-- A phasor from a magnitude and an angle, in 2^-60. -/
def phasor (g a : Nat) : Int × Int := (g * cosTurn a 65536, g * sinTurn a 65536)

/-- Three times the squared magnitude of a sequence: U_a + r·U_b + r²·U_c with r a rotation of m/3 turn. -/
def seqPower (u : List (Int × Int)) (m : Nat) : Nat :=
  let rot := fun (v : Int × Int) (k : Nat) =>
    ((v.1 * cosTurn (k % 3) 3 - v.2 * sinTurn (k % 3) 3) / fixOne, (v.1 * sinTurn (k % 3) 3 + v.2 * cosTurn (k % 3) 3) / fixOne)
  let t := List.zipWith (fun (v : Int × Int) (k : Nat) => rot v (m * k)) u [0, 1, 2]
  let re := isum (t.map (·.1))
  let im := isum (t.map (·.2))
  ((re * re + im * im) / 2 ^ 80).toNat

/-- The set record of a window whose three harmonic records are valid (R212).  With U_1 = 0 the ratios are free values. -/
def setRecord (s : State) (k : Nat) (h : List Harm) : State :=
  let u := h.map fun x => phasor x.g1 x.ang
  let u1 := seqPower u 1
  let fl := h.foldl (fun a x => a ||| x.flags) 0
  let r := fun (m i : Nat) => if u1 = 0 then Config.freeValue (s.free + i) % 65536 else min 65535 (rootDiv (100000000 * seqPower u m) u1)
  streamOnly (if u1 = 0 then { s with free := s.free + 2 } else s) 0x22
    (le 1 k ++ le 1 fl ++ le 5 ((h.headD ⟨0, 0, 0, 0⟩).cycle) ++ zeros 1 ++ le 2 (r 2 0) ++ le 2 (r 0 1) ++ zeros 4)

/-- A channel's window is complete: its harmonic record, and the set record with the third of a set (R209, R212). -/
def harmonics (s : State) (c n : Nat) : State :=
  match windowOuts s (chan s c) n with
  | none => s
  | some outs =>
    let (s1, h) := harmRecord s c n outs
    match setOf c with
    | none => s1
    | some (k, p) =>
      let v := voltSet s1 k
      let hs := tput v.harm p h
      let s2 := setVoltSet s1 k { v with harm := hs }
      let three := (span 0 3).filterMap (tfind hs)
      if three.length = 3 ∧ three.all (fun x => x.cycle == h.cycle && !bit x.flags 0) then setRecord s2 k three else s2

/-! ### Captures (R217–R219) -/

/-- A capture set. -/
def capSet (s : State) (k : Nat) : CapSet := tget {} s.pqe.caps k

/-- Replace a capture set. -/
def setCapSet (s : State) (k : Nat) (x : CapSet) : State := { s with pqe := { s.pqe with caps := tput s.pqe.caps k x } }

/-- Fields of a capture set object. -/
def capCh (s : State) (k : Nat) : List Nat := (span 0 (captureField s k 0 1)).map fun i => captureField s k (16 + 2 * i) 2
def capPre (s : State) (k : Nat) : Nat := captureField s k 1 1
def capPost (s : State) (k : Nat) : Nat := captureField s k 2 1
def capSlots (s : State) (k : Nat) : Nat := captureField s k 3 1 % 8
def capOverwrite (s : State) (k : Nat) : Bool := bit (captureField s k 3 1) 7
def capTrig (s : State) (k : Nat) : Nat := captureField s k 4 1

/-- EV_PQE_CAPTURE: 0 READY, 1 LOST. -/
def capEvent (s : State) (k slot what : Nat) : State :=
  raise s { id := 0x384, src := k, data := Config.eventData 0x384 [(k : Nat), (slot : Nat), (what : Nat)] }

/-- The samples of a channel that a capture holds. -/
def capSamples (s : State) (x : Capture) (c : Nat) : List CapSample :=
  ((chan s c).outs.filter (fun o => decide (x.first ≤ o.cycle ∧ o.cycle < x.stop))).reverse.map fun o => ⟨c, o.cycle, o.k, o.val, o.flags⟩

/-- Trigger a capture set (R218). -/
def capTrigger (s : State) (k trig : Nat) (stamp : Stamp) (lo hi : Int) : State :=
  let x := capSet s k
  let chs := capCh s k
  if chs.isEmpty || !bit (capTrig s k) trig then s
  else
    match (span 0 4).find? (fun i => (nth {} x.slots i).state == .collecting) with
    | some i =>
      let y := nth {} x.slots i
      setCapSet s k { x with slots := setNth x.slots i { y with retrig := min 65535 (y.retrig + 1) } }
    | none =>
      match (span 0 (capSlots s k)).find? (fun i => (nth {} x.slots i).state == .free) with
      | none => setCapSet s k { x with dropped := x.dropped + 1 }
      | some i =>
        let y : Capture := {
          state := .collecting, trigger := trig, stamp := stamp, ticks := nowTick s
          first := max (stamp.cycle - capPre s k) x.preFrom, stop := stamp.cycle + capPost s k
          chs := chs, lo := lo, hi := hi, seq := x.seq }
        setCapSet s k { x with slots := setNth x.slots i { y with data := chs.flatMap (capSamples s y) }, seq := x.seq + 1 }

/-- Trigger every set that lists a channel (R218). -/
def capTriggerChan (s : State) (c trig : Nat) (stamp : Stamp) (lo hi : Int) : State :=
  (span 0 16).foldl (fun a k => if (capCh a k).contains c then capTrigger a k trig stamp lo hi else a) s

/-- Change every slot of every capture set. -/
def mapSlots (s : State) (f : Capture → Capture) : State :=
  { s with pqe := { s.pqe with caps := tmap (fun _ x => { x with slots := x.slots.map f }) s.pqe.caps } }

/-- A capture that collects one output of a channel. -/
def Capture.take (c : Nat) (o : OutSample) (y : Capture) : Capture :=
  if y.state == .collecting && !y.stopped && y.chs.contains c && decide (y.first ≤ o.cycle) && decide (o.cycle < y.stop) then
    { y with data := y.data ++ [⟨c, o.cycle, o.k, o.val, o.flags⟩], lo := min y.lo o.lo, hi := max y.hi o.hi }
  else y

/-- Add one output to the captures that collect it. -/
def capFeed (s : State) (c : Nat) (o : OutSample) : State := if s.pwr.serviceDown then s else mapSlots s (Capture.take c o)

/-- The slots of a set all hold unread captures: under OVERWRITE the oldest that is not being read is released, and holds the
pre-trigger from the next cycle on (R218). -/
def capRelease (s : State) (k : Nat) : State :=
  let x := capSet s k
  let ready := (span 0 (capSlots s k)).filter fun i => (nth {} x.slots i).state == .ready
  if ready.length < capSlots s k ∨ !capOverwrite s k then s
  else
    match ready.foldl (fun (b : Option Nat) i =>
      if (nth {} x.slots i).reading then b
      else match b with
        | none => some i
        | some j => if (nth {} x.slots i).seq < (nth {} x.slots j).seq then some i else some j) none with
    | none => s
    | some i => capEvent (setCapSet s k { x with slots := setNth x.slots i {}, preFrom := nowCycle s + 1 }) k i 1

/-- A capture is complete (R219). -/
def capReady (s : State) (k i : Nat) (trunc : Bool) : State :=
  let x := capSet s k
  let y := nth {} x.slots i
  let gone := y.chs.any fun c => (firstFailed s (chanRange c y.lo y.hi)).isSome
  let s1 := setCapSet s k { x with slots := setNth x.slots i { y with
    state := .ready, trunc := trunc, retracted := y.retracted || gone } }
  capRelease (capEvent s1 k i 0) k

/-- CAPTURE_COMPLETE (R219): every channel has delivered the last cycle of a collecting capture. -/
def execCaptureComplete (k i : Nat) (s : State) : Out :=
  .next (whenRunning s fun s =>
    let y := nth {} (capSet s k).slots i
    if y.state = .collecting ∧ !y.stopped ∧
      y.chs.all (fun c => y.data.any (fun d => d.ch == c && d.cycle + 1 == y.stop && d.k == 127)) then capReady s k i false
    else s)

/-- Captures that a SERVICE reset stopped complete with TRUNC at the next boundary (R219). -/
def capTruncate (s : State) : State :=
  s.pqe.caps.foldl (fun a p => (span 0 4).foldl (fun b i =>
    let y := nth {} (capSet b p.1).slots i
    if y.state = .collecting ∧ y.stopped then capReady b p.1 i true else b) a) s

/-- Whether a capture's derivation range holds window w of head p. -/
def Capture.rests (p w : Nat) (y : Capture) : Bool :=
  y.state != .free && y.chs.any (fun c => chanHead c == some p) && decide (y.lo.toNat / 256 ≤ w) && decide (w ≤ y.hi.toNat / 256)

/-- A FAIL window marks the captures whose range holds it (R219). -/
def capFail (s : State) (p w : Nat) : State :=
  mapSlots s (fun y => if y.rests p w then { y with retracted := true } else y)

/-- CAPTURE (R218): a due capture cue triggers the set its argument names. -/
def execCapture (i : Nat) (s : State) : Out :=
  .next (whenRunning s fun s =>
    if cueDue s i cueCapture then
      let st := cueInstant (cue s i).stamp
      let late := decide (st < mkStamp (nowCycle s) 0)
      finishCue (capTrigger s (cue s i).arg 5 (if late then nowStamp s else st) 0 0) i late
    else s)

/-- CAPTURE_NOW (R218). -/
def execCaptureNow (d : Desc) (set : Nat) (s : State) : Out :=
  .next (hostCmd s d 0x0305 false fun s =>
    checked s d [by0 d, (decide (set < 16), stBadArg)] fun s =>
      reply (capTrigger s set 5 (nowStamp s) 0 0) d stOk [])

/-- The bytes of a capture: header of Table CMD.17, then its data cycle by cycle and channel by channel (R516). -/
def capBytes (s : State) (set slot : Nat) : Bytes :=
  let y := nth {} (capSet s set).slots slot
  let cycles := (y.data.map (·.cycle)).eraseDups
  let len := 32 + 640 * cycles.length * y.chs.length
  let head := le 1 set ++ le 1 slot ++ le 1 (flag y.retracted 0 + flag y.trunc 1) ++ le 1 y.chs.length ++
    le 5 (cycles.foldl min (cycles.headD y.first)) ++ le 1 y.trigger ++ le 2 cycles.length ++ le 2 y.retrig ++ zeros 2 ++
    le 6 y.ticks ++ zeros 2 ++ le 4 len ++ zeros 4
  let lo := cycles.foldl min (cycles.headD 0)
  let hi := cycles.foldl max 0
  let order := (span lo (if cycles.isEmpty then 0 else hi - lo + 1)).filter cycles.contains
  head ++ order.flatMap fun n => y.chs.flatMap fun c =>
    let l := y.data.filter (fun x => x.ch == c && x.cycle == n)
    let at_ := fun (k : Nat) => l.find? (fun x => x.k == k)
    ((span 0 128).flatMap fun k => leInt 4 (((at_ k).map (·.val)).getD 0)) ++
      ((span 0 128).flatMap fun k => le 1 (((at_ k).map (·.flags)).getD 1))

/-- CAPTURE_READ (R516): what is read from OFFSET fills the buffer; RELEASE frees the slot. -/
def execCaptureRead (d : Desc) (set slot offset flags : Nat) (s : State) : Out :=
  .next (hostCmd s d 0x0306 true fun s =>
    let y := nth {} (capSet s set).slots slot
    let all := capBytes s set slot
    checked s d [by0 d, (decide (set < 16 ∧ slot < 4), stBadArg), (y.state == .ready, stNotFound),
      (decide (offset ≤ all.length), stBadArg)] fun s =>
      let out := (all.drop offset).take d.dlen
      let x := capSet s set
      let full := (span 0 (capSlots s set)).all fun i => (nth {} x.slots i).state != .free
      let x1 := if bit flags 0 then { x with slots := setNth x.slots slot {}, preFrom := if full then nowCycle s + 1 else x.preFrom }
        else { x with slots := setNth x.slots slot { y with reading := true } }
      replyOut (setCapSet s set x1) d out (le 4 (all.length - offset - out.length)))

/-! ### Dips, swells and interruptions (R214–R216) -/

/-- Tick count of a past stamp, by its cycle's boundary log entry (R47). -/
def tickOf (s : State) (st : Stamp) : Nat :=
  match logEntry s st.cycle with
  | some e => (e.ticks * 65536 + e.tickFrac + st.angle * 32768 * 65536 / cycleFreq s st.cycle) / 65536
  | none => nowTick s

/-- The 128 outputs that end with (n, k), newest first, with their labels; none when one of them is missing. -/
def cycleEnding (s : State) (c n k : Nat) : Option (List OutSample) :=
  let l := ((chan s c).outs.dropWhile (fun o => !(o.cycle == n && o.k == k))).take 128
  if l.length = 128 then some l else none

/-- Urms(½) of a channel in 0.01 % of UDIN, exact, when its value is not MISSING (R214). -/
def urms (s : State) (k c n h : Nat) : Option Rat :=
  match cycleEnding s c n h with
  | none => none
  | some l =>
    if l.any excludedOut then none
    else some (calibrated s c (rmsOf l) * 10 / (max 1 (qualityField s (4 * k) 4) : Nat))

/-- A phase of a set carries a sense fault, its own or as the incomer of a section (R215, R221). -/
def setSense (s : State) (k p : Nat) : Bool :=
  let bad := fun (h : Nat) => (senseOf s h p).state == .fault || (senseOf s h p).state == .clearing
  (decide (k < 64) && bad k) || (span 0 8).any fun j =>
    bad (64 + j) && sectionField s j 0 2 != 0xFFFF && vChan (sectionField s j 0 2) p == nth 0 (setChans k) p

/-- Codes of the three events: 0 dip, 1 swell, 2 interruption. -/
def voltEvent (s : State) (k typ : Nat) (begins : Bool) (e : VoltEvent) : State :=
  let range := if k < 64 then winRange k e.lo e.hi else []
  raiseEarly s { id := 0x380 + typ, src := k,
                 data := Config.eventData (0x380 + typ) [(k : Nat), (if begins then 0 else 1), (e.start : Nat), (e.extreme : Nat)] } range

/-- The voltage event record (Table PQE.3): its half-cycles become ms through the ticks of the stamps they span (R216). -/
def voltRecord (s : State) (k typ : Nat) (e : VoltEvent) : State :=
  let range := if k < 64 then winRange k e.lo e.hi else []
  let fl := e.flags + flag (firstFailed s range).isSome 2
  let t0 := tickOf s e.start
  streamOnly s 0x24 (le 1 k ++ le 1 typ ++ le 1 fl ++ le 1 e.xch ++ le 7 e.start ++ le 1 (clkTt s) ++ le 4 e.halves ++
    le 4 ((tickOf s (e.start + e.halves * (angleBits / 2)) - t0) * 1000 / 32768) ++ le 2 (min 65535 e.extreme) ++ zeros 2 ++ le 6 t0 ++ zeros 2)

/-- One evaluation of one event kind: `starts`, `ends` and the extreme of this half-cycle. -/
def voltStep (s : State) (k typ : Nat) (e : Option VoltEvent) (starts ends any : Bool) (ext : Nat × Nat)
    (first : Stamp) (n : Nat) (lo hi : Int) : State × Option VoltEvent :=
  let sync := flag (decide (2 ≤ cycleClk s n)) 3
  match e with
  | none =>
    if any && starts then
      let x : VoltEvent := ⟨first, tickOf s first, 1, ext.2, ext.1, sync, lo, hi⟩
      let s1 := voltEvent s k typ true x
      let s2 := (setChans k).foldl (fun a c => capTriggerChan a c (typ + 1) first lo hi) s1
      (s2, some x)
    else (s, none)
  | some x =>
    if !any then (s, some { x with flags := x.flags ||| 2, halves := x.halves + 1 })
    else
      let worse := if typ = 1 then decide (x.extreme < ext.2) else decide (ext.2 < x.extreme)
      let y := { x with halves := if ends then x.halves else x.halves + 1, flags := x.flags ||| sync, hi := hi,
                        extreme := if worse then ext.2 else x.extreme, xch := if worse then ext.1 else x.xch }
      if ends then (voltRecord (voltEvent s k typ false y) k typ y, none) else (s, some y)

/-- The evaluation of a set at the half-cycle that ends with (n, h) (R214, R215). -/
def voltEval (s : State) (k n h : Nat) : State :=
  let v := voltSet s k
  let vals := (List.zipWith (fun (c p : Nat) => if setSense s k p then none else (urms s k c n h).map (fun u => (p, u))) (setChans k) [0, 1, 2]).filterMap id
  let th := fun (o : Nat) => ((qualityField s o 2 : Nat) : Rat)
  let any := !vals.isEmpty
  let put := fun (x : Nat × Rat) => (x.1, (roundRat x.2).toNat)
  let lo := put (vals.foldl (fun (a : Nat × Rat) x => if x.2 < a.2 then x else a) (vals.headD (0, 0)))
  let hi := put (vals.foldl (fun (a : Nat × Rat) x => if a.2 < x.2 then x else a) (vals.headD (0, 0)))
  let first := match cycleEnding s (nth 0 (setChans k) 0) n h with
    | some l => (l.getLast?.map (fun o => mkStamp o.cycle (512 * o.k))).getD (mkStamp n 0)
    | none => mkStamp n 0
  let spanOf := (setChans k).filterMap (fun c => cycleEnding s c n h)
  let llo := spanOf.foldl (fun (a : Int) l => l.foldl (fun b o => min b o.lo) a) (((spanOf.headD []).headD ⟨0, 0, 0, 0, 0, 0⟩).lo)
  let lhi := spanOf.foldl (fun (a : Int) l => l.foldl (fun b o => max b o.hi) a) 0
  let (s1, sw) := voltStep s k 1 v.swell (vals.any (fun x => decide (th 262 ≤ x.2))) (vals.all (fun x => decide (x.2 + th 266 ≤ th 262))) any hi first n llo lhi
  let (s2, it) := voltStep s1 k 2 v.interrupt (vals.all (fun x => decide (x.2 ≤ th 264))) (vals.any (fun x => decide (th 264 + th 266 ≤ x.2))) any lo first n llo lhi
  let dip0 := if it.isSome then v.dip.map (fun e => { e with flags := e.flags ||| 1 }) else v.dip
  let (s3, dp) := voltStep s2 k 0 dip0 (vals.any (fun x => decide (x.2 ≤ th 260))) (vals.all (fun x => decide (th 260 + th 266 ≤ x.2))) any lo first n llo lhi
  let dp1 := if it.isSome then dp.map (fun e => { e with flags := e.flags ||| 1 }) else dp
  setVoltSet s3 k { voltSet s3 k with swell := sw, interrupt := it, dip := dp1, next := none }

/-- Evaluate a set once all three channels have the outputs of a half-cycle. -/
def voltReady (s : State) (c : Nat) (o : OutSample) : State :=
  match setOf c with
  | none => s
  | some (k, _) =>
    if (o.k = 63 ∨ o.k = 127) ∧ (setChans k).all (fun x => (chan s x).outs.any (fun y => y.cycle == o.cycle && y.k == o.k)) then
      voltEval s k o.cycle o.k
    else s

/-! ### Frequency (R213) -/

/-- The first interval start at or after now (R213). -/
def nextInterval (s : State) : Nat :=
  let off : Int := if tt s = 0 then s.bkd.epoch else 0
  let u := (nowTick s : Int) + off
  (nowTick s : Int).toNat + ((-u) % 327680).toNat

/-- FREQUENCY_INTERVAL_END (R213).  With fewer than two boundaries the frequency is a free value. -/
def execFrequencyIntervalEnd (s : State) : Out :=
  .next (whenRunning s fun s =>
    match s.pqe.freqStart with
    | none => { s with pqe := { s.pqe with freqStart := some (nextInterval s) } }
    | some st =>
      if nowTick s < st + 327680 then s
      else
        let es := s.clk.log.filter (fun e => decide (st ≤ e.ticks ∧ e.ticks < st + 327680))
        let pos := fun (e : BndEntry) => e.ticks * 65536 + e.tickFrac
        let a := es.foldl (fun m e => min m (pos e)) ((es.head?.map pos).getD 0)
        let b := es.foldl (fun m e => max m (pos e)) 0
        let (fv, sf) := takeFree s
        let s0 := if b ≤ a then sf else s
        let f := if b ≤ a then fv % 2 ^ 32 else (roundDiv (((es.length - 1) * 65536 * 32768 * 65536 : Nat) : Int) (b - a)).toNat
        let any := fun (p : Nat → Bool) => es.any (fun e => p (e.state % 8))
        let fl := flag (any (fun c => decide (2 ≤ c))) 0 + flag (any (· == 1)) 1 + flag (decide (tt s = 0)) 2
        let s1 := streamOnly s0 0x23 (le 6 st ++ le 1 fl ++ zeros 1 ++ le 4 f ++ le 2 es.length ++ zeros 2)
        { s1 with pqe := { s1.pqe with freqStart := some (st + 327680) } })

/-! ### Sense-wire break (R220–R223) -/

/-- Key of a sense entry: head and phase, or the section's incomer (64 + section). -/
def senseKey (h p : Nat) : Nat := 3 * h + p

/-- The latest RMS_CYC of a channel, calibrated, in µV. -/
def rmsUv (s : State) (c : Nat) : Option Rat := ((chan s c).rc1).map (fun r => calibrated s c r)

/-- Heads of a section that are ACTIVE. -/
def sectionHeads (s : State) (k : Nat) : List Nat :=
  positions.filter (fun h => headSection s h == k && (head s h).state == .active)

/-- A head's phase carries no sense fault. -/
def senseGood (s : State) (h p : Nat) : Bool := (senseOf s h p).state == .normal || (senseOf s h p).state == .suspect

/-- Insert in a rising list of rationals. -/
def insertRat (v : Rat) : List Rat → List Rat
  | [] => [v]
  | a :: r => if v ≤ a then v :: a :: r else a :: insertRat v r

/-- The median of rationals: the mean of the middle two of an even count. -/
def medianRat (l : List Rat) : Option Rat :=
  let m := l.foldl (fun a v => insertRat v a) []
  if m.isEmpty then none
  else some ((nth 0 m ((m.length - 1) / 2) + nth 0 m (m.length / 2)) / 2)

/-- Two voltages lie less than a tolerance of 0.01 % steps of the second apart. -/
def below (a b : Rat) (tol : Rat) : Bool :=
  let d := if a < b then b - a else a - b
  decide (d * 10000 < tol * b)

/-- Two voltages lie within a tolerance of 0.01 % steps of the second. -/
def near (a b : Rat) (tol : Rat) : Bool :=
  let d := if a < b then b - a else a - b
  decide (d * 10000 ≤ tol * b)

/-- RMS values of the heads of a section for a phase that carry no sense fault, except head x. -/
def peers (s : State) (k p x : Nat) : List Rat :=
  ((sectionHeads s k).filter (fun h => h != x && senseGood s h p)).filterMap (fun h => rmsUv s (17 * h + p))

/-- The section incomer's RMS of a phase. -/
def incomerRms (s : State) (k p : Nat) : Option Rat :=
  if sectionField s k 0 2 = 0xFFFF then none else rmsUv s (vChan (sectionField s k 0 2) p)

/-- The section reference seen from a head (R220). -/
def sectionRef (s : State) (k p x : Nat) : Option Rat :=
  if sectionField s k 0 2 = 0xFFFF then medianRat (peers s k p 999) else
    match x with
    | 999 => medianRat (peers s k p 999)
    | _ => incomerRms s k p

/-- The phase deviates, and the deviation is confirmed (R221). -/
def deviates (s : State) (k p x : Nat) : Bool × Bool :=
  let th : Rat := (qualityField s 340 2 : Nat)
  let own := if x = 999 then incomerRms s k p else rmsUv s (17 * x + p)
  match own, sectionRef s k p x with
  | some v, some r =>
    let dev := !near v r th
    let agree := ((peers s k p x).filter (fun q => near q r th)).length
    (dev, dev && (if x = 999 then decide (2 ≤ agree)
      else if sectionField s k 0 2 = 0xFFFF then decide (2 ≤ agree) else decide (1 ≤ agree)))
  | _, _ => (false, false)

/-- EV_PQE_SENSE: 0 ENTER, 1 EXIT, 2 UNDECIDED, 3 EXIT by RESET; causes 0 DEVIATION, 1 PILOT, 2 REF. -/
def senseEvent (s : State) (h p what cause : Nat) (x : Sense) : State :=
  raiseEarly s { id := 0x383, src := h, data := Config.eventData 0x383 [(h : Nat), (p : Nat), (what : Nat), (cause : Nat)] }
    (if h < 64 then winRange h x.lo x.hi else [])

/-- Entry into FAULT, or its end, on the legal record and the tamper records of the MPs that use the phase (R223). -/
def senseLegal (s : State) (k h p : Nat) (enters : Bool) : State :=
  let s1 := legalLog s 0x0E (flag (!enters) 0) 0xFFFF (le 1 h ++ le 1 p ++ le 1 (qualityField s (332 + k) 1))
  if !enters || 64 ≤ h then s1
  else (span (4 * h) 4).foldl (fun a m => if !mpAbsent a m && (mpPhases a m).contains p then tamper a m 6 else a) s1

/-- Replace a sense entry. -/
def setSenseOf (s : State) (h p : Nat) (x : Sense) : State := { s with pqe := { s.pqe with sense := tput s.pqe.sense (senseKey h p) x } }

/-- A phase enters FAULT. -/
def senseEnter (s : State) (k h p cause : Nat) (x : Sense) : State :=
  let y := { x with state := .fault, count := 0, applies := some (nowCycle s + 1), until_ := none }
  let s1 := senseLegal (senseEvent (setSenseOf s h p y) h p 0 cause y) k h p true
  capTriggerChan s1 (if h < 64 then 17 * h + p else vChan (sectionField s k 0 2) p) 4 (nowStamp s) x.lo x.hi

/-- A phase returns to NORMAL. -/
def senseLeave (s : State) (k h p what : Nat) (x : Sense) : State :=
  let said := x.state == .fault || x.state == .clearing || what == 3
  let y : Sense := { state := .normal, applies := x.applies, until_ := some (x.until_.getD (nowCycle s + 1)) }
  let s1 := if said then senseEvent (setSenseOf s h p y) h p what 0 x else setSenseOf s h p y
  if x.state = .fault ∨ x.state = .clearing then senseLegal s1 k h p false else s1

/-- The labels that the phase's latest RMS_CYC rests on. -/
def senseLabels (s : State) (c : Nat) : Int × Int :=
  let l := (chan s c).outs.take 128
  (l.foldl (fun a o => min a o.lo) ((l.headD ⟨0, 0, 0, 0, 0, 0⟩).lo), l.foldl (fun a o => max a o.hi) 0)

/-- One cycle of Table PQE.2 for head h (64 + section for its incomer), phase p. -/
def senseStep (s : State) (k h p : Nat) : State :=
  let who := if h < 64 then h else 999
  let c := if h < 64 then 17 * h + p else vChan (sectionField s k 0 2) p
  let (dev, conf) := deviates s k p who
  -- the incomer's phase is the one under suspicion (R221)
  let theirs := decide (h < 64) && sectionField s k 0 2 != 0xFFFF && (deviates s k p 999).2
  let lab := senseLabels s c
  let x0 := senseOf s h p
  let x := if x0.state = .normal then { x0 with lo := lab.1, hi := lab.2 } else { x0 with hi := lab.2 }
  let pilot := decide (h < 64) && bit (head s h).pilot p
  let ref := decide (h < 64) && bit (head s h).pilot 3
  let half : Rat := (qualityField s 340 2 : Nat) / 2
  let calm := match (if h < 64 then rmsUv s c else incomerRms s k p), sectionRef s k p who with
    | some v, some r => below v r half
    | _, _ => false
  if (pilot || ref) && x.state != .fault then senseEnter s k h p (if pilot then 1 else 2) x
  else
    match x.state with
    | .normal =>
      if conf then
        let y := { x with state := .suspect, count := 1, undecided := false }
        if qualityField s 342 1 ≤ 1 then senseEnter s k h p 0 y else setSenseOf s h p y
      else if dev && !x.undecided && !theirs then senseEvent (setSenseOf s h p { x with undecided := true }) h p 2 0 x
      else setSenseOf s h p { x with undecided := dev && x.undecided }
    | .suspect =>
      if !conf then setSenseOf s h p { x with state := .normal, count := 0 }
      else if qualityField s 342 1 ≤ x.count + 1 then senseEnter s k h p 0 x
      else setSenseOf s h p { x with count := x.count + 1 }
    | .fault =>
      if !pilot && !ref && calm then setSenseOf s h p { x with state := .clearing, count := 1 } else s
    | .clearing =>
      if pilot || ref || !calm then setSenseOf s h p { x with state := .fault, count := 0 }
      else if qualityField s 343 1 ≤ x.count + 1 then senseLeave s k h p 1 x
      else setSenseOf s h p { x with count := x.count + 1 }

/-- Sense evaluation at the end of a cycle: every head of every section, then the sections' incomers (R221). -/
def senseAll (s : State) : State :=
  (span 0 8).foldl (fun a k =>
    let a1 := (sectionHeads a k).foldl (fun b h => (span 0 3).foldl (fun t p => senseStep t k h p) b) a
    if sectionField a k 0 2 = 0xFFFF then a1 else (span 0 3).foldl (fun t p => senseStep t k (64 + k) p) a1) s

/-- A retracted decision, or a head that leaves ACTIVE, returns its phases to NORMAL (Table PQE.2). -/
def senseReset (s : State) (h : Nat) (w : Option Nat) : State :=
  (span 0 3).foldl (fun a p =>
    let x := senseOf a h p
    let hit := match w with
      | some w => decide (x.lo.toNat / 256 ≤ w ∧ w ≤ x.hi.toNat / 256)
      | none => true
    if x.state != .normal && hit then senseLeave a (headSection a h) h p 3 x else a) s

/-! ### Spare rotation (R224–R231) -/

/-- Replace a spare. -/
def setSpare (s : State) (p : Nat) (x : Spare) : State := { s with pqe := { s.pqe with spares := tput s.pqe.spares p x } }

/-- The arrangement of a phase (Table PQE.4): MOD_C, SRC_C spare, SRC_SP own. -/
def rotState : RotPhase → Nat × Nat × Nat
  | .idle => (0, 0, 0)
  | .parallel => (0, 0, 0)
  | .zero => (1, 1, 1)
  | .dc => (2, 1, 1)
  | .overlap => (0, 1, 1)
  | .park => (0, 1, 1)

/-- Enter a phase: the state goes out in SPARE_CTRL and applies at the frame of the first boundary at least `lead` frames
ahead (R224, R226, Table PQE.9). -/
def rotEnter (s : State) (p : Nat) (ph : RotPhase) (lead : Nat) : State :=
  let x := spare s p
  let (b, f) := boundaryFrom s (s.ply.frame + lead)
  let (mc, sc, ss) := rotState ph
  let s1 := setSpare s p { x with phase := ph, at_ := f, start := if ph = .parallel then b else x.start, measure := none,
                                  mismatch := 0, rot := if ph = .parallel then s.pqe.rot else x.rot }
  let s2 := if ph = .parallel then { s1 with pqe := { s1.pqe with rot := (s1.pqe.rot + 1) % 65536 } } else s1
  if p < 64 then
    sendLong s2 p 0x45 (le 4 (wireFrame s2 f) ++ le 2 (spare s2 p).rot ++ le 1 x.ch ++ le 1 (if ph = .idle then 0xFF else x.ch) ++
      le 1 mc ++ le 1 sc ++ le 1 ss ++ zeros 1) none
  else s2

/-- The rotation record and EV_PQE_SPARE of a rotation that ends (R231, Table PQE.7). -/
def rotReport (s : State) (p result cause : Nat) : State :=
  let x := spare s p
  let ch := setBase p + x.ch
  let s1 := streamOnly s 0x25 (le 2 ch ++ le 1 result ++ le 1 (cause + flag x.wfail 7) ++ le 5 x.start ++ le 1 x.origin ++
    le 2 (min 65535 x.hoPpm) ++ leInt 4 x.m0 ++ leInt 4 x.drift ++ zeros 4)
  let s2 := raise s1 { id := 0x385, src := ch, star := decide (2 ≤ result),
                       data := Config.eventData 0x385 [(ch : Nat), (result : Nat), (cause : Nat)] }
  completeWaiting s2 0x0303 (128 * p + x.ch) stOk (le 1 0)

/-- The entries queued behind a spare that is parked or FAULTY end as DROPPED (R230). -/
def rotDrop (s : State) (p : Nat) : State :=
  let x := spare s p
  let s1 := setSpare s p { x with queue := [] }
  x.queue.foldl (fun a r =>
    let y := spare a p
    let b := rotReport (setSpare a p { y with ch := r.ch, origin := r.origin, hoPpm := 0, m0 := 0, drift := 0, wfail := false }) p 7 0
    setSpare b p { spare b p with ch := x.ch }) s1

/-- A rotation ends, and the spare goes to IDLE. -/
def rotEnd (s : State) (p result cause : Nat) (sendIdle : Bool) : State :=
  let s1 := rotReport s p result cause
  if sendIdle then rotEnter s1 p .idle 64
  else setSpare s1 p { spare s1 p with phase := .idle, measure := none, mismatch := 0 }

/-- A test fails after PARALLEL: the channel is parked (R228). -/
def rotPark (s : State) (p result : Nat) : State :=
  let x := spare s p
  let ch := setBase p + x.ch
  let s1 := raise s { id := 0x386, src := ch, data := Config.eventData 0x386 [(ch : Nat), (result : Nat)] }
  let s2 := rotReport s1 p result 0
  rotDrop (rotEnter (setSpare s2 p { spare s2 p with parked := some x.ch, parkAt := none }) p .park 64) p

/-- The first `need` cycles measured on a channel: those from the start whose 128 outputs are free of SETTLE and INVALID. -/
def cleanCycles (s : State) (c from_ : Nat) : List Nat :=
  let l := (chan s c).outs.filter (fun o => decide (from_ ≤ o.cycle) && !excludedOut o)
  ((l.map (·.cycle)).eraseDups.filter (fun n => (l.filter (fun o => o.cycle == n)).length == 128)).reverse

/-- Values of a channel over some cycles, oldest first. -/
def valuesOver (s : State) (c : Nat) (ns : List Nat) : List Int :=
  ns.flatMap fun n => ((chan s c).outs.filter (fun o => o.cycle == n)).reverse.map (·.val)

/-- Sum of squares. -/
def squares (l : List Int) : Nat := nsum (l.map fun v => (v * v).toNat)

/-- Handover ratio test: whether it passes, and its value in ppm (R227). -/
def handover (s : State) (a b : List Int) : Bool × Nat :=
  let d := rootDiv (squares (List.zipWith (· - ·) a b)) a.length
  let r := max (rootDiv (squares b) b.length) (qualityField s 348 4)
  (decide (d * 1000000 ≤ qualityField s 344 2 * r), d * 1000000 / max 1 r)

/-- A failed window lies under the measurement (WFAIL). -/
def rotWfail (s : State) (p : Nat) (ns : List Nat) : Bool :=
  if 64 ≤ p then false
  else
    let l := (chan s (spChan p)).outs.filter (fun o => ns.contains o.cycle)
    (firstFailed s (winRange p (l.foldl (fun a o => min a o.lo) ((l.headD ⟨0, 0, 0, 0, 0, 0⟩).lo)) (l.foldl (fun a o => max a o.hi) 0))).isSome

/-- The baseline of a channel under the head's serial (R227). -/
def baseline (s : State) (p c : Nat) : Option Int :=
  match tfind (spare s p).base c with
  | some (b, serial) => if serial = (if p < 64 then (head s p).serial else 0) then some b else none
  | none => none

/-- A measurement is complete: judge the phase and go on (R227, R228). -/
def rotJudge (s : State) (p : Nat) (ns : List Nat) : State :=
  let x := spare s p
  let c := setBase p + x.ch
  let sp := valuesOver s (spChan p) ns
  let own := valuesOver s c ns
  let mean := roundDiv (isum sp) sp.length
  let s0 := setSpare s p { x with wfail := x.wfail || rotWfail s p ns }
  let x0 := spare s0 p
  match x.phase with
  | .parallel =>
    let (ok, ppm) := handover s sp own
    let s1 := setSpare s0 p { x0 with hoPpm := max x0.hoPpm ppm }
    if ok then rotEnter (setSpare s1 p { spare s1 p with spareFails := 0 }) p .zero 64
    else
      let s2 := setSpare s1 p { spare s1 p with spareFails := x.spareFails + 1 }
      let s3 := rotEnd s2 p 2 0 true
      if 3 ≤ x.spareFails + 1 then rotDrop (setSpare s3 p { spare s3 p with faulty := true }) p else s3
  | .zero =>
    let s1 := setSpare s0 p { x0 with m0 := mean }
    if mean.natAbs ≤ qualityField s 352 4 then rotEnter s1 p .dc 64 else rotPark s1 p 3
  | .dc =>
    let m := mean - x.m0
    match baseline s p c with
    | none =>
      let serial := if p < 64 then (head s p).serial else 0
      rotEnter (setSpare s0 p { x0 with m1 := mean, base := tput x0.base c (m, serial), baselined := true, drift := 0 }) p .overlap 64
    | some b =>
      let dev := (m - b) * (if b < 0 then -1 else 1)
      let s1 := setSpare s0 p { x0 with m1 := mean, drift := if b = 0 then 0 else roundDiv (dev * 10000000) b.natAbs }
      if dev.natAbs * 1000000 ≤ qualityField s 346 2 * b.natAbs then rotEnter s1 p .overlap 64 else rotPark s1 p 4
  | .overlap =>
    let (ok, ppm) := handover s sp own
    let s1 := setSpare s0 p { x0 with hoPpm := max x0.hoPpm ppm }
    if ok then rotEnd (setSpare s1 p { spare s1 p with parked := none, release := false }) p (if x.baselined then 1 else 0) 0 true
    else rotPark s1 p 5
  | _ => s

/-- Whether the running phase measures, and how many cycles (Table PQE.4). -/
def rotNeed (s : State) : RotPhase → Nat
  | .parallel => 2
  | .zero => qualityField s 356 1
  | .dc => qualityField s 356 1
  | .overlap => 2
  | _ => 0

/-- The cycles measured so far on the channels the phase compares. -/
def rotCycles (s : State) (p : Nat) : List Nat :=
  let x := spare s p
  match x.measure with
  | none => []
  | some m =>
    let sp := cleanCycles s (spChan p) m
    if x.phase = .parallel ∨ x.phase = .overlap then sp.filter (cleanCycles s (setBase p + x.ch) m).contains else sp

/-- An output of a rotating channel has been computed: judge the phase when its cycles are all there (R226). -/
def rotFeed (s : State) (c : Nat) (o : OutSample) : State :=
  let p := spareSet c
  let x := spare s p
  if o.k ≠ 127 ∨ rotNeed s x.phase = 0 ∨ x.measure.isNone ∨ !(c == spChan p || c == setBase p + x.ch) then s
  else
    let ns := rotCycles s p
    if ns.length < rotNeed s x.phase ∨ (chan s c).syncWait.isSome then s else rotJudge s p (ns.take (rotNeed s x.phase))

/-- A head's session starts: a channel that is parked is sent PARK again for the first boundary at least 32 frames after S
(R229). -/
def rotRejoin (s : State) (p : Nat) : State :=
  let x := spare s p
  if x.parked.isSome ∧ x.phase = .park then
    let s1 := rotEnter s p .park 32
    setSpare s1 p { spare s1 p with parkAt := some (spare s1 p).at_ }
  else s

/-- Boundary work of a spare: the measurement starts 192 frames after AT_FRAME, and a queued rotation starts (R226, R230). -/
def rotBoundary (s : State) (p : Nat) : State :=
  let x := spare s p
  let up := decide (64 ≤ p) || (head s p).state == .active
  if !up then s
  else if rotNeed s x.phase ≠ 0 then
    if x.measure.isNone ∧ x.at_ + 192 ≤ s.clk.frame then setSpare s p { x with measure := some (nowCycle s) } else s
  else if x.phase = .idle ∧ x.parked.isNone ∧ !x.faulty ∧ x.at_ ≤ s.clk.frame then
    match x.queue with
    | [] => s
    | r :: rest => rotEnter (setSpare s p { x with
        queue := rest, ch := r.ch, origin := r.origin, hoPpm := 0, m0 := 0, m1 := 0, drift := 0, wfail := false, baselined := false })
        p .parallel 32
  else s

/-- The head leaves ACTIVE: a rotation in progress ends as ABORTED (R231). -/
def rotLeave (s : State) (p : Nat) : State :=
  let x := spare s p
  if x.phase = .park then setSpare s p { x with parkAt := none, at_ := 0 }
  else if x.phase = .idle then s
  else if x.parked.isSome then rotReport (setSpare s p { x with phase := .park, parkAt := none, at_ := 0, measure := none }) p 6 0
  else rotEnd s p 6 0 false

/-- SPARE_FLAGS_MISMATCH (R224): the returned flags have disagreed for 8 frames. -/
def execSpareFlagsMismatch (p : Nat) (s : State) : Out :=
  .next (whenRunning s fun s =>
    let x := spare s p
    if 8 ≤ x.mismatch ∧ rotNeed s x.phase ≠ 0 then
      (if x.parked.isSome then rotReport (rotEnter (setSpare s p { x with mismatch := 0 }) p .park 64) p 6 1 else rotEnd s p 6 1 true)
    else s)

/-- SPARE_MEASUREMENT_TIMEOUT (R226): 16 cycles without the cycles a phase needs. -/
def execSpareMeasurementTimeout (p : Nat) (s : State) : Out :=
  .next (whenRunning s fun s =>
    let x := spare s p
    match x.measure with
    | some m =>
      if m + 16 ≤ nowCycle s ∧ rotNeed s x.phase ≠ 0 then
        (if x.parked.isSome then rotReport (rotEnter s p .park 64) p 6 2 else rotEnd s p 6 2 true)
      else s
    | none => s)

/-- The channels the automatic scheduler takes in turn: V1 to V4 and the current channels of present MPs of ACTIVE heads,
and the local channels (R230). -/
def autoChannel (s : State) (c : Nat) : Bool :=
  if c < 1088 then
    (head s (c / 17)).state == .active &&
      (decide (c % 17 < 4) || (decide (c % 17 < 16) && !mpAbsent s (4 * (c / 17) + (c % 17 - 4) / 3)))
  else decide (c < 1095)

/-- ROTATION_SCHEDULE_TICK (R230): one entry every ROT_INTERVAL seconds, for the next channel whose queue is empty. -/
def execRotationScheduleTick (s : State) : Out :=
  .next (whenRunning s fun s =>
    let iv := qualityField s 358 2
    if iv = 0 ∨ nowTick s < s.pqe.lastAuto + secs iv then s
    else
      let s1 := { s with pqe := { s.pqe with lastAuto := nowTick s } }
      let ok := fun (c : Nat) =>
        let x := spare s (spareSet c)
        autoChannel s c && x.queue.isEmpty && x.parked.isNone && !x.faulty
      match ((span 0 1096).map (fun i => (s.pqe.autoNext + i) % 1096)).find? ok with
      | none => s1
      | some c =>
        let p := spareSet c
        let s2 := setSpare s1 p { spare s1 p with queue := [⟨c - setBase p, 0, false⟩] }
        { s2 with pqe := { s2.pqe with autoNext := (c + 1) % 1096 } })

/-- The spare set that a HEAD operand names. -/
def spareArg (hd : Nat) : Nat := if hd = 0xFF then 64 else hd

/-- SPARE_TEST (R230, R516). -/
def execSpareTest (d : Desc) (hd ch : Nat) (s : State) : Out :=
  .next (hostCmd s d 0x0303 false fun s =>
    let p := spareArg hd
    let x := spare s p
    let busy := x.phase != .idle && x.ch == ch
    let merged := busy || x.queue.any (fun r => r.ch == ch)
    checked s d [by0 d, ((decide (hd < 64) && decide (ch < 16)) || (hd == 0xFF && decide (ch < 7)), stBadArg),
      (x.parked.isNone && !x.faulty, stSpareParked), (merged || decide (x.queue.length < 4), stQueueFull)] fun s =>
      if merged then defer s d 0x0303 (128 * p + ch) [] true (le 1 0) []
      else reply (setSpare s p { x with queue := x.queue ++ [⟨ch, 1, false⟩] }) d stOk (le 1 (x.queue.length + 1)))

/-- SPARE_RELEASE (R228, R229, R516): a parked channel goes through OVERLAP; a FAULTY spare is used again. -/
def execSpareRelease (d : Desc) (hd ch : Nat) (s : State) : Out :=
  .next (hostCmd s d 0x0304 false fun s =>
    let p := spareArg hd
    let x := spare s p
    checked s d [by0 d, ((decide (hd < 64) && (decide (ch < 16) || ch == 0xFF)) || (hd == 0xFF && (decide (ch < 7) || ch == 0xFF)), stBadArg),
      (if ch = 0xFF then x.faulty else x.parked == some ch && x.phase == .park, stNotFound)] fun s =>
      if ch = 0xFF then reply (setSpare s p { x with faulty := false, spareFails := 0 }) d stOk []
      else reply (rotEnter (setSpare s p { x with release := true, origin := 1, hoPpm := 0, wfail := false, baselined := false }) p .overlap 64) d stOk [])

/-! ### What follows each output -/

/-- The work on one computed output of a channel: captures, harmonics, voltage events and rotations. -/
def afterOutput (s : State) (c : Nat) (o : OutSample) : State :=
  let s0 := capFeed s c o
  let s1 := s0.pqe.trigs.foldl (fun a t => capTriggerChan a t.1 0 t.2.1 t.2.2.1 t.2.2.2) { s0 with pqe := { s0.pqe with trigs := [] } }
  let s2 := if o.k = 127 then harmonics s1 c o.cycle else s1
  rotFeed (voltReady s2 c o) c o

end Sys2Proof.Machine
end

