-- ==== Sys2Proof/Machine/Keys.lean ====
section
/-!
DEFINITION. The key store: slots and their kinds, signing and transmit counters with their reservations, the random
source, and the opening of operations (13_keys_counters.md).
-/
namespace Sys2Proof.Machine

/-! ### Slots (R326, R327, Table KEY.1) -/

/-- Kinds of Table KEY.2, by slot; none for a reserved slot. -/
def slotKind (k : Nat) : Option Nat :=
  if k = 0 then some 0 else if k = 1 then some 1 else if k = 2 then some 2 else if k = 3 then some 3
  else if k = 4 then some 4 else if k = 5 then some 5 else if k = 8 then some 6
  else if 16 ≤ k ∧ k ≤ 79 then some 7 else if 80 ≤ k ∧ k ≤ 143 then some 8
  else if 144 ≤ k ∧ k ≤ 255 then some 9 else if 256 ≤ k ∧ k ≤ 511 then some 10 else none

/-- Kinds that sign under a counter (R341). -/
def signKind (k : Nat) : Bool := slotKind k == some 3 || slotKind k == some 5 || slotKind k == some 10

/-- The tenant that owns a slot, as the events about the slot name it (R326, R327, R388); 0 for a slot of the hub, of tenant 0 or of
nobody. -/
def slotOwner (s : State) (k : Nat) : Nat :=
  if 256 ≤ k then k - 256
  else if 80 ≤ k ∧ (tget {} s.key.slots k).valid then (tget {} s.key.slots k).owner else 0

/-- Slots that hold a P-256 key. -/
def p256Slot (k : Nat) : Bool :=
  match slotKind k with
  | some x => [0, 1, 2, 3, 5, 6, 10].contains x
  | none => false

/-- A slot's current record. -/
def keySlot (s : State) (k : Nat) : KeySlot := tget {} s.key.slots k

/-- Replace a slot's record. -/
def setKeySlot (s : State) (k : Nat) (x : KeySlot) : State := { s with key := { s.key with slots := tput s.key.slots k x } }

/-- Material of a slot: manufactured keys are named by their slot. -/
def material (s : State) (k : Nat) : Nat :=
  let x := keySlot s k
  if x.origin = 0 then (if k = 0 then Config.deviceKey else if k = 1 then Config.sealKey else Config.factoryKey k) else x.mat

/-- The TOKEN slot a tenant owns (R327). -/
def tokenSlot (s : State) (t : Nat) : Option Nat := (span 80 64).find? fun k => (keySlot s k).valid && (keySlot s k).owner == t

/-- The public point of a slot's key: an imported OPERATOR_VERIFY key is the point itself (R334). -/
def slotPoint (s : State) (k : Nat) : Bytes := if slotKind k = some 2 then be 64 (keySlot s k).mat else pad 64 (Config.publicKey (material s k))

/-- Bytes 0 to 95 of the attestation of a slot's current generation (Table KEY.3). -/
def attestHead (s : State) (k : Nat) : Bytes :=
  let x := keySlot s k
  le 2 0x4154 ++ [1, BitVec.ofNat 8 ((slotKind k).getD 0)] ++ le 2 k ++ le 2 x.kgen ++ le 1 x.owner ++ le 1 x.origin ++
    le 1 x.stat ++ zeros 1 ++ le 8 Config.deviceId ++ le 5 x.cycle ++ zeros 1 ++ le 6 x.ticks ++ slotPoint s k

/-- A signature of 64 bytes by key material over the SHA-256 digest of a message, with its per-message secret. -/
def signBytes (mat : Nat) (msg : Bytes) (secret : Nat) : Bytes := pad 64 (Config.ecdsaSign mat (Config.sha256 msg) secret)

/-- The attestation of a slot's current generation, signed with K0 (R337). -/
def attestation (s : State) (k secret : Nat) : Bytes := attestHead s k ++ signBytes Config.deviceKey (attestHead s k) secret

/-! ### Random source (R329, R330) -/

/-- The DRBG is instantiated. -/
def drbgUp (s : State) : Bool := s.key.drbg

/-- Count one request of the DRBG. -/
def drbgUse (s : State) : State := { s with key := { s.key with requests := s.key.requests + 1 } }

/-- A random value from the DRBG: free (log entry 2). -/
def drbgValue (s : State) : Nat × State := takeFree (drbgUse s)

/-- A reseed is due (R329). -/
def reseedDue (s : State) : Bool := s.key.drbg && (decide (1048576 ≤ s.key.requests) || decide (s.key.seeded + secs 3600 ≤ nowTick s))

/-- DRBG_RESEED (R329): after 2^20 requests or 3,600 s of ticks. -/
def execDrbgReseed (s : State) : Out :=
  .next (whenRunning s fun s =>
    if reseedDue s then { s with key := { s.key with requests := 0, seeded := nowTick s } } else s)

/-- ENTROPY_TEST_FAIL (R330): the DRBG is uninstantiated, with EV_KEY_RNG_FAULT. -/
def execEntropyTestFail (s : State) : Out :=
  .next (whenRunning s fun s =>
    raise { s with key := { s.key with drbg := false, retryAt := nowTick s + ticksPerSecond } } { id := 0x603 })

/-- Instantiate the DRBG (R329, R349). -/
def drbgStart (s : State) : State := { s with key := { s.key with drbg := true, requests := 0, seeded := nowTick s } }

/-- DRBG_RETRY (R330): every second, with a fresh start-up test; `ok` is its outcome.  Joins that waited go on. -/
def execDrbgRetry (ok : Bool) (s : State) : Out :=
  .next (whenRunning s fun s =>
    if s.key.drbg ∨ nowTick s < s.key.retryAt then s
    else if ok then
      positions.foldl (fun a p =>
        let h := head a p
        if h.state = .joining ∧ h.join.step = 1 ∧ !h.join.cert.isEmpty then startJoin a p h.join.cert else a) (drbgStart s)
    else raise { s with key := { s.key with retryAt := nowTick s + ticksPerSecond } } { id := 0x603 })

/-! ### Counters (R341–R344, R347) -/

/-- A counter: by slot for signing, by 512 + slot for LOGGER transmission. -/
def keyCtr (s : State) (k : Nat) : KeyCtr := tget {} s.key.ctrs k

/-- Replace a counter. -/
def setKeyCtr (s : State) (k : Nat) (x : KeyCtr) : State := { s with key := { s.key with ctrs := tput s.key.ctrs k x } }

/-- Values of a ladder increment: 256 for signing, 1,024 for transmission. -/
def ctrBlock (k : Nat) : Nat := if k < 512 then 256 else 1024

/-- The ladder of a counter (Table of R366). -/
def ctrLadder (k : Nat) : Nat := ladderKey 1 k

/-- L, the reservation top: the count is bits [31:0] of the ladder's value (R342, R367). -/
def ctrTop (s : State) (k : Nat) : Nat := ctrBlock k * (ladderValue s (ctrLadder k) % 4294967296)

/-- Ask for the next increment when the next value has reached L − 64 and none is under way (R342). -/
def ctrReserve (s : State) (k : Nat) : State :=
  if ctrTop s k - 64 ≤ (keyCtr s k).next ∧ !s.cis.incs.contains (ctrLadder k) then requestInc s (ctrLadder k) else s

/-- How a request to take a counter value ends: a value, a wait for the reservation, or exhaustion. -/
inductive CtrTake where
  | value (v : Nat)
  | wait
  | exhausted
deriving DecidableEq, Repr

/-- Take the next value of a counter (R342, R344, R347). -/
def ctrTake (s : State) (k : Nat) : CtrTake × State :=
  let c := keyCtr s k
  let slot := k % 512
  if 0xFFFFFFFF ≤ c.next then
    (.exhausted, if c.exhausted then s else
      raise (setKeyCtr s k { c with exhausted := true }) { id := 0x602, src := slot, dom := some (slotOwner s slot), data := Config.eventData 0x602 [(slot : Nat), ((keySlot s slot).kgen : Nat)] })
  else if ctrTop s k ≤ c.next then (.wait, ctrReserve s k)
  else
    let low := decide (0xFFF00000 ≤ c.next + 1) && !c.low
    let s1 := ctrReserve (setKeyCtr s k { c with next := c.next + 1, low := c.low || low }) k
    (.value c.next, if low then raise s1 { id := 0x601, src := slot, tenant := slotOwner s slot, data := Config.eventData 0x601 [(slot : Nat), ((keySlot s slot).kgen : Nat)] } else s1)

/-- A new generation of a counter: the ladder succeeds to BASE = KGEN × 2^32 and stands at count 1 (R341, R367). -/
def ctrEpoch (s : State) (k kgen : Nat) : State :=
  let l := ladder s (ctrLadder k)
  let s1 := setLadder s (ctrLadder k) { l with lgen := l.lgen + 1, base := kgen * 4294967296, f := 1, parked := false, lastInc := nowCycle s }
  setKeyCtr { s1 with cis := { s1.cis with incs := s1.cis.incs.filter (· != ctrLadder k) } } k {}

/-- Advance a counter at a CHIP start: one further increment, and the next value at the block's start (R343); value 0 is
never used (R341). -/
def ctrRestart (s : State) (k : Nat) : State :=
  let b := ladderValue s (ctrLadder k) % 4294967296
  setKeyCtr (stepLadder s (ctrLadder k)) k { next := max 1 (ctrBlock k * b) }

/-! ### Openings (R338, R340) -/

/-- An EMPTY record for the slot is being programmed: openings are refused from its commit point (R335). -/
def slotErasing (s : State) (k : Nat) : Bool := s.key.writes.any fun w => w.slot == k && w.started && !w.record.valid

/-- The slot can be used: it holds a key and is not being erased. -/
def slotReady (s : State) (k : Nat) : Bool := (keySlot s k).valid && !slotErasing s k

/-- Why an opening of a signing slot is refused, if it is (R340, R344). -/
def openRefusal (s : State) (k : Nat) : Option Nat :=
  if !slotReady s k then some stNoSignKey
  else if 0xFFFFFFFF ≤ (keyCtr s k).next then some stKeyExhausted
  else none

/-- Open a signing operation: it fixes slot, generation, counter and material, or waits (R338, R342). -/
def openSign (s : State) (op : SignOp) : SignOp × State :=
  match ctrTake s op.slot with
  | (.value v, s1) => ({ op with opened := true, kgen := (keySlot s1 op.slot).kgen, ctr := v, mat := material s1 op.slot }, s1)
  | (_, s1) => (op, s1)

/-- Add a signing operation. -/
def addSign (s : State) (op : SignOp) : State := { s with cus := { s.cus with ops := s.cus.ops ++ [op] } }

/-- A fresh token for a command that waits in the key store. -/
def freshToken (s : State) : Nat × State := (s.cus.nextToken, { s with cus := { s.cus with nextToken := s.cus.nextToken + 1 } })

/-- Derived Campion keys (R346): of a logger by its EUI, and of the group. -/
def loggerKey (s : State) (k eui : Nat) : Nat :=
  Config.kdf (material s k) 0x31504D43 (le 8 eui ++ le 2 (keySlot s k).kgen)
def groupKey (s : State) (k : Nat) : Nat := Config.kdf (material s k) 0x47504D43 (le 2 (keySlot s k).kgen)

end Sys2Proof.Machine
end

