-- ==== Sys2Proof/Machine/Custody.lean ====
section
/-!
DEFINITION. Custody chains: their records and links, checkpoints and signing operations, gaps, heartbeats, probe readings,
temperature excursions, and the reconstruction after the hub was down (12_custody_chain.md).
-/
namespace Sys2Proof.Machine

/-! ### Records (R302–R305, Table CUS.1) -/

/-- A session's chain. -/
def chainOf (s : State) (id : Nat) : Option Chain := tfind s.cus.chains id

/-- Replace a chain. -/
def setChain (s : State) (id : Nat) (c : Chain) : State := { s with cus := { s.cus with chains := tput s.cus.chains id c } }

/-- Change a chain that exists. -/
def mapChain (s : State) (id : Nat) (f : Chain → Chain) : State :=
  match chainOf s id with
  | some c => setChain s id (f c)
  | none => s

/-- The chains that are open, in session order. -/
def openChains (s : State) : List Nat := (s.cus.chains.filter (fun p => !p.2.closed)).map (·.1)

/-- The genesis of a chain (R304). -/
def genesis (id tenant mp : Nat) : Bytes :=
  [0x43, 0x55, 0x53, 0x31] ++ le 8 Config.deviceId ++ le 4 id ++ le 1 tenant ++ le 2 mp

/-- The stamp of a tick instant, through the boundary log (R47, R317). -/
def stampOfTick (s : State) (t : Nat) : Stamp :=
  match s.clk.log.find? (fun e => decide (e.ticks ≤ t)) with
  | some e => mkStamp e.cycle (min 65535 (((t - e.ticks) * 65536 - e.tickFrac) * e.freq / (32768 * 65536)))
  | none => 0

/-- The hub's GMP number of an MP (R542). -/
def gmp (s : State) (m : Nat) : Nat := (if s.ril.cascEn then 256 * s.ril.cascId else 0) + m

/-- An event of a session's chain. -/
def cusEvent (s : State) (id : Nat) (ev : Nat) (fields : List Int) : State :=
  match chainOf s id with
  | some c => raise s { id := ev, src := c.mp, tenant := c.tenant, data := Config.eventData ev ((id : Int) :: fields) }
  | none => s

/-- The 64 bytes of the next record of a chain (Table CUS.1). -/
def recordBytes (s : State) (c : Chain) (typ src srcid : Nat) (payload : Bytes) (host : Bool) : Bytes :=
  le 6 c.seq ++ le 7 (max c.lastStamp (nowStamp s)) ++ le 1 (statByte s + flag host 6) ++ le 6 (nowTick s) ++ le 1 typ ++
    le 1 src ++ le 2 srcid ++ pad 24 payload ++ (sha256 c.last).take 16

/-- Write one record: it enters the tail, then the streams (R17, R305). -/
def writeRaw (s : State) (id typ src srcid : Nat) (payload : Bytes) (host : Bool) : State :=
  match chainOf s id with
  | none => s
  | some c =>
    if c.full then s
    else
      let b := recordBytes s c typ src srcid payload host
      let c1 := { c with
        seq := c.seq + 1, last := b, lastStamp := max c.lastStamp (nowStamp s), segment := c.segment ++ [b],
        count := c.count + 1, since := c.since.or (some (nowTick s)) }
      archive (setChain s id c1) 1 c.tenant id b

/-! ### Checkpoints (R314–R316) -/

/-- The signing slot of a tenant. -/
def signSlot (t : Nat) : Nat := 256 + t

/-- The payload of a CHECKPOINT (Table CUS.2). -/
def checkpointPayload (c : Chain) (slot kgen ctr cause flags : Nat) : Bytes :=
  le 6 c.firstSeq ++ le 4 (c.seq + 1 - c.firstSeq) ++ le 4 ctr ++ le 2 slot ++ le 2 kgen ++ le 1 cause ++ le 1 flags

/-- Bytes 0 to 63 of a checkpoint's signature block (Table CUS.5), once its record stands. -/
def blockHead (id : Nat) (c : Chain) (first ctr : Nat) : Bytes :=
  le 2 0x434B ++ zeros 2 ++ le 4 id ++ le 8 Config.deviceId ++ le 6 (c.seq - 1) ++ le 6 first ++ le 4 ctr ++
    sha256 ((c.segment.filter (fun r => decide (first ≤ fld r 0 6))).flatten)

/-- Write a CHECKPOINT that no signature follows (R316). -/
def checkpointRefused (s : State) (id cause st : Nat) : State :=
  match chainOf s id with
  | none => s
  | some c =>
    let exh := decide (st = stKeyExhausted)
    let slot := signSlot c.tenant
    let fl := flag exh 0 + flag (!exh) 1 + flag c.extend 2
    let s1 := writeRaw s id 4 0 0 (checkpointPayload c slot (keySlot s slot).kgen 0 cause fl) false
    let s2 := mapChain s1 id fun x => { x with count := 0, since := none, extend := true, waiting := none }
    cusEvent s2 id 0x582 [(cause : Nat), (st : Nat)]

/-- Write the CHECKPOINT of an operation that has opened, and let it be signed (R315). -/
def checkpointOpened (s : State) (id cause : Nat) (op : SignOp) : State :=
  match chainOf s id with
  | none => s
  | some c =>
    let first := c.firstSeq
    let s1 := writeRaw s id 4 0 0 (checkpointPayload c op.slot op.kgen op.ctr cause (flag c.extend 2)) false
    match chainOf s1 id with
    | none => s1
    | some c1 =>
      let s2 := setChain s1 id { c1 with count := 0, since := none, extend := false, waiting := none, firstSeq := c1.seq }
      addSign s2 { op with token := c1.seq - 1, body := blockHead id c1 first op.ctr }

/-- A CHECKPOINT falls due: the operation opens and the record is written, or it waits, or it is refused (R315, R316,
R342).  CAUSE is 0 COUNT, 1 TIME, 2 CLOSE. -/
def checkpoint (s : State) (id cause : Nat) : State :=
  match chainOf s id with
  | none => s
  | some c =>
    if c.waiting.isSome ∨ c.full then s
    else
      let slot := signSlot c.tenant
      match openRefusal s slot with
      | some st => checkpointRefused (if st = stKeyExhausted then (ctrTake s slot).2 else s) id cause st
      | none =>
        let (op, s1) := openSign s { purpose := 0, slot := slot, session := id }
        if op.opened then checkpointOpened s1 id cause op
        else addSign (mapChain s1 id fun x => { x with waiting := some cause }) op

/-- Write a record, with the checkpoint of a segment that reaches 255 records (R314), and the last record of a chain that
reaches SEQ 2^48 − 2 (R308). -/
def writeRecord (s : State) (id typ src srcid : Nat) (payload : Bytes) (host : Bool) : State :=
  let s1 := writeRaw s id typ src srcid payload host
  match chainOf s1 id with
  | none => s1
  | some c =>
    if 2 ^ 48 - 2 ≤ c.seq ∧ !c.full then
      cusEvent (mapChain (checkpoint s1 id 0) id fun x => { x with full := true }) id 0x584 []
    else if 255 ≤ c.count ∧ typ ≠ 2 then checkpoint s1 id 0 else s1

/-- A record that falls due at the next boundary (R307, R312). -/
def dueRecord (s : State) (id typ src srcid : Nat) (payload : Bytes) : State :=
  mapChain s id fun c => { c with due := c.due ++ [(typ, src, srcid, payload)] }

/-- A RELAY record for the session on an MP (R312). -/
def dueRelay (s : State) (m old new cause : Nat) (switch : Stamp) : State :=
  match openSession s m with
  | some (id, _) => dueRecord s id 0x0C 0 0 (le 1 old ++ le 1 new ++ le 1 cause ++ zeros 1 ++ le 7 switch)
  | none => s

/-- A TIME_SET record for every open chain (R312). -/
def dueTimeSet (s : State) (step : Int) (oldTt : Nat) : State :=
  (openChains s).foldl (fun a id => dueRecord a id 0x0D 0 0 (leInt 8 step ++ le 1 oldTt)) s

/-- A HOST_CONTEXT_RESET record for the open chains of a tenant, or for every open chain (R312). -/
def dueContextReset (s : State) (func kind dropped : Nat) (tenant : Option Nat) : State :=
  (s.cus.chains.filter (fun p => !p.2.closed && (match tenant with
    | some t => p.2.tenant == t
    | none => true))).foldl (fun a p => dueRecord a p.1 0x0E 0 0 (le 2 func ++ le 1 kind ++ zeros 1 ++ le 4 dropped)) s

/-! ### Opening a chain -/

/-- Program every item of the tail, so that what follows is archived at once (R308). -/
def flushTail (s : State) : State :=
  s.cis.tail.foldl putItem { s with cis := { s.cis with tail := [], prog := 0 } }

/-- Start the chain of a session that opens: SESSION_OPEN is in the archive before the tariff state record (R302, R308). -/
def openChain (s : State) (id m tenant sflags : Nat) : State :=
  let rules := custodyField s m 1 1
  let c : Chain := {
    tenant := tenant, mp := m, last := genesis id tenant m, ruleSet := rules, hbCycle := nowCycle s, hbTicks := nowTick s,
    probeTicks := nowTick s }
  flushTail (writeRecord (setChain s id c) id 1 0 0
    (le 4 id ++ le 2 m ++ le 1 tenant ++ le 1 sflags ++ le 8 Config.deviceId ++ le 2 (gmp s m) ++ le 1 rules) false)

/-! ### Energy of a session at an earlier boundary (R324) -/

/-- What the session's set held at boundary b: the cycles from b on are taken away. -/
def sessionTot (s : State) (id b q : Nat) : Nat :=
  match sessionById s id with
  | none => 0
  | some x => nth 0 x.regs.tot q -
      nsum ((s.tar.recent.filter (fun y => y.session == some id && decide (b ≤ y.cycle))).map fun y => nth 0 y.tot q)

/-- The cycles before this boundary have been released or withheld on an MP (R313); nothing is pending where the MP has no
outputs. -/
def settledTo (s : State) (m : Nat) : Nat :=
  match (mpOf s m).front with
  | some (n, _) => n
  | none => nowCycle s

/-! ### Gaps (R317–R319) -/

/-- A gap of a cause, and of a binding, is open. -/
def gapOpen (c : Chain) (cause bind : Nat) : Bool := c.gaps.any fun g => g.cause == cause && g.bind == bind && g.finish.isNone

/-- Open a gap unless one of its cause stands (R317); excursions in force overlap it (R322). -/
def openGap (s : State) (id : Nat) (g : Gap) : State :=
  mapChain s id fun c =>
    if gapOpen c g.cause g.bind then c
    else { c with gaps := c.gaps ++ [g], excs := tmap (fun _ e => if e.state = 2 then { e with gap := true } else e) c.excs }

/-- End the open gap of a cause and binding. -/
def endGap (s : State) (id cause bind : Nat) (finish : Stamp) (evid flags : Nat) (decided : Bool) : State :=
  mapChain s id fun c => { c with gaps := c.gaps.map fun g =>
    if g.cause = cause ∧ g.bind = bind ∧ g.finish.isNone then
      { g with finish := some finish, evid := evid, flags := g.flags ||| flags, decided := decided } else g }

/-- The payload of GAP_BEGIN and GAP_END (Table CUS.2). -/
def gapPayload (g : Gap) (finish : Bool) : Bytes :=
  le 7 g.start ++ le 7 (if finish then g.finish.getD 0 else 0) ++ le 1 g.cause ++ le 1 g.flags ++ le 8 (if finish then g.evid else 0)

/-- SRC of a gap's records: a logger's binding for causes 1 and 2. -/
def gapSrc (g : Gap) : Nat := if g.bind < 4 then 1 + 16 * g.bind else 0

/-- Write one gap record, with EV_CUS_GAP (R317). -/
def writeGap (s : State) (id : Nat) (g : Gap) (finish : Bool) : State :=
  let srcid := match chainOf s id with
    | some c => if g.bind < 4 then (tfind c.binds g.bind).elim 0 (·.short) else 0
    | none => 0
  cusEvent (writeRecord s id (if finish then 0x0A else 0x09) (gapSrc g) srcid (gapPayload g finish) false) id 0x580
    [(g.cause : Nat), if finish then 1 else 0]

/-- Every bus phase of an MP's head lies below 50 V RMS (Table CUS.3, cause 3). -/
def busDead (s : State) (m : Nat) : Bool :=
  (span 0 3).all fun p => match rmsUv s (vChan m p) with
    | some v => decide (v < 50000000)
    | none => false

/-- The condition of cause 3 as the relay state gives it; while the state is UNKNOWN it stands as it was. -/
def relayDead (s : State) (c : Chain) : Bool :=
  match (tget {} s.crd.relays c.mp).state with
  | .opened => true
  | .faultNoclose => true
  | .unknown => c.deenergised
  | _ => false

/-- Follow a condition with a gap that begins and ends at boundaries (causes 3 and 6). -/
def condGap (s : State) (id cause : Nat) (on : Bool) : State :=
  match chainOf s id with
  | none => s
  | some c =>
    let here := mkStamp (nowCycle s) 0
    if on && !gapOpen c cause 0xF then openGap s id { cause := cause, start := here, startTicks := nowTick s }
    else if !on && gapOpen c cause 0xF then endGap s id cause 0xF here 0 0 false
    else s

/-- Bring the evidence of causes 3 and 6 up to date: the import over the span, once its cycles have settled. -/
def settleGaps (s : State) (id : Nat) : State :=
  match chainOf s id with
  | none => s
  | some c =>
    let n := settledTo s c.mp
    let imp := fun (b : Nat) => sessionTot s id b 0 / 4294967296
    setChain s id { c with gaps := c.gaps.map fun g =>
      if g.cause = 3 ∨ g.cause = 6 then
        let g1 := if g.base.isNone ∧ Stamp.cycle g.start ≤ n then { g with base := some (imp (Stamp.cycle g.start)) } else g
        match g1.finish with
        | some f => if Stamp.cycle f ≤ n ∧ !g1.decided then { g1 with decided := true, evid := imp (Stamp.cycle f) - g1.base.getD 0 } else g1
        | none => g1
      else g }

/-- Follow the withheld runs of the MP: cause 5, or cause 4 for the run of a CHIP reset (Table CUS.3, R318). -/
def ringGaps (s : State) (id : Nat) : State :=
  match chainOf s id with
  | none => s
  | some c =>
    (mpOf s c.mp).held.foldl (fun a h =>
      let cause := if h.boot then 4 else 5
      let a1 := if h.boot then a else openGap a id { cause := 5, start := h.start, startTicks := h.ticks }
      match h.z with
      | some z => if h.decided then endGap a1 id cause 0xF z.1 (if h.gflags = 2 then 0 else h.evid / 4294967296) h.gflags true else a1
      | none => a1) s

/-- Write the GAP_ENDs that are decided, then the GAP_BEGINs that are due (R307, R317). -/
def writeGaps (s : State) (id : Nat) : State :=
  match chainOf s id with
  | none => s
  | some c =>
    let s1 := (c.gaps.filter (fun g => g.finish.isSome && g.decided)).foldl (fun a g =>
      writeGap (mapChain a id fun x => { x with gaps := x.gaps.filter (fun y => y != g) }) id g true) s
    (c.gaps.filter (fun g => g.finish.isNone && !g.begun && decide (g.startTicks + 32768 ≤ nowTick s))).foldl (fun a g =>
      writeGap (mapChain a id fun x => { x with gaps := x.gaps.map fun y => if y = g then { y with begun := true } else y }) id
        { g with begun := true } false) s1

/-! ### Excursions (R321, R322) -/

/-- Payload of an EXCURSION (Table CUS.2). -/
def excPayload (rule flags source : Nat) (e : Exc) (dur : Nat) : Bytes :=
  le 1 (rule + flags) ++ le 1 source ++ leInt 2 e.extreme ++ le 7 e.firstStamp ++ le 4 dur

/-- One rule on one reading of a source: value in 1/64 °C at an evidence tick (R321).  `lo` and `hi` are the reading's lowest
and highest value. -/
def excRule (s : State) (id rule source : Nat) (lo hi : Int) (t : Nat) : State :=
  match chainOf s id with
  | none => s
  | some c =>
    let f := fun o n => ruleField s c.ruleSet rule o n
    let below := bit (f 0 1) 1
    let sel := f 0 1 / 4 % 4
    let limit := signed 16 (f 2 2)
    let hyst : Int := 4 * (f 1 1 : Nat)
    let v := if below then lo else hi
    let beyond := if below then decide (v < limit) else decide (limit < v)
    let inside := if below then decide (limit + hyst ≤ v) else decide (v ≤ limit - hyst)
    let mine := bit (f 0 1) 0 && (sel == 2 || sel == (if source % 16 = 1 then 0 else 1)) && decide (c.ruleSet < 16)
    let k := 256 * source + rule
    let e := tget {} c.excs k
    let more := fun (x : Int) => if below then min e.extreme x else max e.extreme x
    let put := fun (st : State) (y : Exc) => mapChain st id fun q => { q with excs := tput q.excs k y }
    if !mine then s
    else match e.state with
      | 0 =>
        if beyond then
          let y : Exc := { state := 1, first := t, firstStamp := stampOfTick s t, extreme := v }
          if f 4 2 = 0 then
            let y2 := { y with state := 2, gap := c.gaps.any (fun g => g.finish.isNone) }
            cusEvent (dueRecord (put s y2) id 0x0B source 0 (excPayload rule 0 source y2 0)) id 0x583 [(rule : Nat), (source : Nat), 0]
          else put s y
        else s
      | 1 =>
        if !beyond then put s {}
        else
          let y := { e with extreme := more v }
          if e.first + secs (f 4 2) ≤ t then
            let y2 := { y with state := 2, gap := c.gaps.any (fun g => g.finish.isNone) }
            cusEvent (dueRecord (put s y2) id 0x0B source 0 (excPayload rule 0 source y2 0)) id 0x583 [(rule : Nat), (source : Nat), 0]
          else put s y
      | _ =>
        let y := { e with extreme := if beyond then more v else e.extreme }
        if inside then
          let from_ := y.release.getD t
          if from_ + secs (f 6 2) ≤ t then
            cusEvent (dueRecord (put s {}) id 0x0B source 0 (excPayload rule (4 + flag y.gap 3) source y ((t - y.first) / 32768)))
              id 0x583 [(rule : Nat), (source : Nat), 1]
          else put s { y with release := some from_ }
        else put s { y with release := none }

/-- Evaluate a reading of a source (R321): the state after it, and whether it was out of order. -/
def excReading (s : State) (id source : Nat) (lo hi : Int) (t : Nat) : State × Bool :=
  match chainOf s id with
  | none => (s, false)
  | some c =>
    match tfind c.evald source with
    | some last =>
      if t ≤ last then (s, true)
      else ((span 0 4).foldl (fun a r => excRule a id r source lo hi t) (setChain s id { c with evald := tput c.evald source t }), false)
    | none => ((span 0 4).foldl (fun a r => excRule a id r source lo hi t) (setChain s id { c with evald := tput c.evald source t }), false)

/-- Excursions still in force when the session closes end with AT_CLOSE (R322); their records fall due at the close. -/
def excClose (s : State) (id : Nat) : State :=
  match chainOf s id with
  | none => s
  | some c =>
    (c.excs.filter (fun p => p.2.state == 2)).foldl (fun a p =>
      cusEvent (dueRecord (mapChain a id fun q => { q with excs := tput q.excs p.1 {} }) id 0x0B (p.1 / 256) 0
        (excPayload (p.1 % 256) (4 + flag p.2.gap 3 + 16) (p.1 / 256) p.2 ((nowTick s - p.2.first) / 32768)))
        id 0x583 [((p.1 % 256 : Nat) : Int), ((p.1 / 256 : Nat) : Int), 1]) s

/-! ### Probe readings and heartbeats (R310, R313) -/

/-- PROBE_READING (R310): every PROBE_INT seconds, from the latest window that passed.  It falls due behind the excursions that
it decides (R307). -/
def probeReading (s : State) (id : Nat) : State :=
  match chainOf s id with
  | none => s
  | some c =>
    let probes := custodyField s c.mp 0 1 % 4
    let h := head s (c.mp / 4)
    match h.probe with
    | none => s
    | some (b, w) =>
      if probes = 0 ∨ h.state ≠ .active ∨ nowTick s < c.probeTicks + secs (custodyField s c.mp 4 2) then s
      else
        let t := (frameInstant s w).2
        let one := fun (st : State × Bool) (k : Nat) =>
          if bit probes (k - 1) ∧ fld b 4 1 / 4 ^ (k - 1) % 4 = 0 then
            let v := signed 16 (fld b (2 * (k - 1)) 2)
            let r := excReading st.1 id (2 + 16 * k) v v t
            (r.1, st.2 || r.2)
          else st
        let (s1, late) := [1, 2].foldl one (mapChain s id fun x => { x with probeTicks := nowTick s }, false)
        let idx := if probes = 1 then 1 else if probes = 2 then 2 else 0
        dueRecord s1 id 7 (2 + 16 * idx) 0 (slice b 0 4 ++ slice b 4 1 ++ le 1 (flag late 0) ++ zeros 2 ++ le 4 (wireFrame s w))

/-- Codes of Table CRD.9. -/
def relayCode : RelayState → Nat
  | .opened => 0
  | .closed => 1
  | .opening => 2
  | .closing => 3
  | .faultWelded => 4
  | .faultNoclose => 5
  | .unknown => 6

/-- The relay of an MP. -/
def relay (s : State) (m : Nat) : Relay := tget {} s.crd.relays m

/-- GAPS of a HEARTBEAT: bit c − 1 for each open cause c. -/
def gapMask (c : Chain) : Nat := (span 1 6).foldl (fun a k => if c.gaps.any (fun g => g.cause == k && g.finish.isNone) then setBit a (k - 1) else a) 0

/-- Ticks of a boundary with their fraction. -/
def boundaryTicks (s : State) (n : Nat) : Rat :=
  match logEntry s n with
  | some e => (e.ticks : Rat) + (e.tickFrac : Rat) / 65536
  | none => (tickOf s (mkStamp n 0) : Rat)

/-- HEARTBEAT (R313) with END_CYC b: mean power in mW over the cycles since the previous one. -/
def writeHeartbeat (s : State) (id b : Nat) : State :=
  match chainOf s id with
  | none => s
  | some c =>
    let imp := sessionTot s id b 0
    let exp := sessionTot s id b 1
    let net : Rat := (((imp : Int) - c.hbImp - ((exp : Int) - c.hbExp) : Int) : Rat) / 4294967296
    let dt := (boundaryTicks s b - boundaryTicks s c.hbCycle) / 32768
    let p := if dt ≤ 0 then 0 else roundRat (net * 36 / 10 / dt)
    let s1 := mapChain s id fun x => { x with hbCycle := b, hbTicks := nowTick s, hbImp := imp, hbExp := exp, hbDue := none, vmin := none }
    writeRecord s1 id 3 0 0 (le 8 (imp / 4294967296) ++ leInt 4 (satInt 32 p) ++ le 2 (min 0xFFFF (c.vmin.getD 0xFFFF)) ++
      le 1 (relayCode (relay s c.mp).state) ++ le 1 (gapMask c) ++ le 5 b ++ le 3 (b - c.hbCycle)) false

/-- HEARTBEAT (R313): it falls due at the first boundary after HB_S, and is written once the cycles before it have settled;
none while a HUB_DOWN gap is open. -/
def heartbeat (s : State) (id : Nat) : State :=
  match chainOf s id with
  | none => s
  | some c =>
    if gapOpen c 4 0xF then s
    else
      let due := c.hbDue.or (if c.hbTicks + secs (custodyField s c.mp 2 2) ≤ nowTick s then some (nowCycle s) else none)
      let s1 := setChain s id { c with hbDue := due }
      match due with
      | some b => if b ≤ settledTo s c.mp then writeHeartbeat s1 id b else s1
      | none => s1

/-- The lowest bus RMS_CYC of the released cycles, in 0.1 V (Table CUS.2). -/
def noteVmin (s : State) (id : Nat) : State :=
  match chainOf s id with
  | none => s
  | some c =>
    let vs := (mpPhases s c.mp).filterMap fun p => (rmsUv s (vChan c.mp p)).map fun v => (roundRat (v / 100000)).toNat
    if (mpOf s c.mp).run.isSome then s
    else setChain s id { c with vmin := vs.foldl (fun (a : Option Nat) v => some (min (a.getD v) v)) c.vmin }

/-! ### The boundary's work (R307) -/

/-- Write the records that fell due, in the order of R307. -/
def writeDue (s : State) (id : Nat) : State :=
  match chainOf s id with
  | none => s
  | some c =>
    [0x0C, 0x0D, 0x0E, 0x0B, 0x07].foldl (fun a typ =>
      (c.due.filter (fun d => d.1 == typ)).foldl (fun b d => writeRecord b id d.1 d.2.1 d.2.2.1 d.2.2.2 false) a)
      (setChain s id { c with due := [] })

/-- SESSION_CLOSE and its CHECKPOINT (R302, R319): open gaps end with AT_CLOSE. -/
def closeChain (s0 : State) (id cause : Nat) : State :=
  let s := settleGaps (ringGaps s0 id) id
  match chainOf s id with
  | none => s
  | some c =>
    let here := mkStamp (nowCycle s) 0
    let s1 := setChain s id { c with gaps := c.gaps.map fun g =>
      let known := if g.cause = 3 ∨ g.cause = 6 then sessionTot s id (nowCycle s) 0 / 4294967296 - g.base.getD (sessionTot s id (nowCycle s) 0 / 4294967296) else g.evid
      let bare := flag (!g.decided && (g.cause == 4 || g.cause == 5)) 1
      { g with finish := some (g.finish.getD here), evid := if g.decided then g.evid else known,
               flags := g.flags ||| (flag g.finish.isNone 7 + bare), decided := true } }
    let s2 := heartbeat (writeDue (excClose (probeReading (writeGaps s1 id) id) id) id) id
    let x := sessionById s id
    let tot := fun q => (x.elim 0 fun y => nth 0 y.regs.tot q) / 4294967296
    let s3 := writeRecord s2 id 2 0 0 (le 1 cause ++ zeros 3 ++ le 8 (tot 0) ++ le 8 (tot 1)) false
    mapChain (checkpoint s3 id 2) id fun y => { y with closed := true }

/-- What a boundary writes into one chain (R307). -/
def chainBoundary (s : State) (id : Nat) : State :=
  match chainOf s id with
  | none => s
  | some c0 =>
    let s0 := noteVmin (setChain s id { c0 with deenergised := relayDead s c0 }) id
    let s1 := condGap s0 id 3 (relayDead s c0 || busDead s c0.mp)
    let s2 := condGap s1 id 6 (tt s == 1)
    let s3 := writeDue (probeReading (writeGaps (settleGaps (ringGaps s2 id) id) id) id) id
    let s4 := heartbeat s3 id
    match (chainOf s4 id).bind (·.since) with
    | some t => if t + 29491200 ≤ nowTick s then checkpoint s4 id 1 else s4
    | none => s4

/-- The chains' work at a boundary. -/
def custodyBoundary (s : State) : State := (openChains s).foldl chainBoundary s

/-! ### Hub-down reconstruction (R320) -/

/-- Archived items of a kind of a session, in SEQ order of the log. -/
def archivedOf (s : State) (kind id : Nat) : List Item := s.cis.log.filter fun i => i.kind == kind && i.session == id && !i.damaged

/-- The chain of a session as the archive holds it (R320). -/
def chainFromLog (s : State) (id : Nat) (x : Session) : Option Chain :=
  let recs := (archivedOf s 1 id).map (·.body)
  match recs.getLast? with
  | none => none
  | some last =>
    let signedTo := ((archivedOf s 2 id).map fun i => fld i.body 16 6).foldl (fun (a : Option Nat) q => some (max (a.getD 0) q)) none
    let first := match signedTo with
      | some q => q + 1
      | none => 0
    let openRec := recs.find? (fun r => fld r 20 1 == 1)
    let hb := (recs.filter (fun r => fld r 20 1 == 3)).getLast?
    let binds := (recs.filter (fun r => fld r 20 1 == 5)).foldl (fun (b : Tbl Binding) r =>
      let i := fld r 21 1 / 16
      if fld r 24 1 = 0 then tput b i { short := fld r 26 2, eui := fld r 28 8, evid := fld r 14 6, heard := nowTick s } else tdel b i) []
    let reads := (recs.filter (fun r => fld r 20 1 == 6)).foldl (fun (b : Tbl Binding) r =>
      let i := fld r 21 1 / 16
      match tfind b i with
      | some y => tput b i { y with lseq := some (fld r 24 4), evid := fld r 14 6 - secs (fld r 28 4), value := fld r 36 2, age := fld r 28 4 }
      | none => b) binds
    some { tenant := x.tenant, mp := x.mp, seq := fld last 0 6 + 1, last := last, lastStamp := fld last 6 7,
           ruleSet := openRec.elim 0xFF (fun r => fld r 42 1), segment := recs.filter (fun r => decide (first ≤ fld r 0 6)),
           firstSeq := first, extend := (recs.any fun r => fld r 20 1 == 4 && decide (first ≤ fld r 0 6)),
           count := (recs.filter (fun r => decide (first ≤ fld r 0 6))).length,
           hbCycle := hb.elim x.start (fun r => fld r 40 5), hbTicks := hb.elim x.ticks (fun r => fld r 14 6),
           hbImp := nth 0 x.regs.tot 0, hbExp := nth 0 x.regs.tot 1, probeTicks := 0, binds := reads,
           full := decide (2 ^ 48 - 2 ≤ fld last 0 6) }

/-- Continue the chain of every session that was open (R320): GAP_BEGIN of HUB_DOWN is its first record. -/
def custodyRestart (s : State) (bkdReset lenUnknown : Bool) : State :=
  ((sessions s).filter (fun p => p.2.isOpen)).foldl (fun a p =>
    match chainFromLog a p.1 p.2 with
    | none => a
    | some c =>
      let g : Gap := { cause := 4, start := c.lastStamp, startTicks := 0, begun := true, flags := flag lenUnknown 5 + flag bkdReset 6 }
      writeGap (setChain a p.1 { c with gaps := [g] }) p.1 g false) s

/-! ### Logger bindings and readings (R309, R317) -/

/-- Bind a logger (R309): the lowest free binding, with its LOGGER_BIND. -/
def bindLogger (s : State) (id short eui : Nat) : State × Nat :=
  match chainOf s id with
  | none => (s, 0)
  | some c =>
    let i := ((span 0 4).find? fun k => !thas c.binds k).getD 0
    let b : Binding := { short := short, eui := eui, evid := nowTick s, heard := nowTick s }
    (writeRecord (setChain s id { c with binds := tput c.binds i b }) id 5 (1 + 16 * i) short
      (le 1 0 ++ zeros 1 ++ le 2 short ++ le 8 eui) false, i)

/-- Unbind a logger. -/
def unbindLogger (s : State) (id i : Nat) : State :=
  match (chainOf s id).bind (fun c => tfind c.binds i) with
  | none => s
  | some b =>
    writeRecord (mapChain s id fun c => { c with binds := tdel c.binds i }) id 5 (1 + 16 * i) b.short
      (le 1 1 ++ zeros 1 ++ le 2 b.short ++ le 8 b.eui) false

/-- LOGGER_READING (R309, R317, R321): one record for an accepted frame of a bound logger, when its LSEQ is new. -/
def loggerReading (s : State) (id i lseq age nval : Nat) (vals : Bytes) (buffered relayed : Bool) : State :=
  match (chainOf s id).bind (fun c => tfind c.binds i) with
  | none => s
  | some b =>
    if (match b.lseq with
        | some q => decide (lseq ≤ q)
        | none => false) then s
    else
      let t := nowTick s - secs age
      let vs := (span 0 (min 4 nval)).map fun k => signed 16 (fld vals (2 * k) 2)
      let lo := vs.foldl min (vs.headD 0)
      let hi := vs.foldl max (vs.headD 0)
      let (s1, late) := if nval = 0 then (s, false) else excReading s id (1 + 16 * i) lo hi t
      let missing := match b.lseq with
        | some q => lseq - q - 1
        | none => 0
      let s2 := mapChain (endGap s1 id 1 i (stampOfTick s t) missing 0 true) id fun c => { c with gaps := c.gaps.map fun g =>
        if g.cause = 2 ∧ g.bind = i ∧ g.finish.isSome ∧ !g.decided then { g with decided := true, evid := missing } else g }
      let s3 := mapChain s2 id fun c => { c with binds := tput c.binds i { b with
        lseq := some lseq, evid := t, heard := nowTick s, value := fld vals 0 2, age := age } }
      writeRecord s3 id 6 (1 + 16 * i) b.short
        (le 4 lseq ++ le 4 age ++ le 1 nval ++ le 1 (flag late 0 + flag buffered 1 + flag relayed 2) ++ zeros 2 ++ pad 8 vals) false

/-- LOGGER_SILENT_EXPIRE (R317, R318): LOG_SILENT seconds without a reading; the timer stands still in RADIO_BUDGET. -/
def execLoggerSilentExpire (id bind : Nat) (s : State) : Out :=
  .next (whenRunning s fun s =>
    match (chainOf s id).bind (fun c => (tfind c.binds bind).map fun b => (c, b)) with
    | none => s
    | some (c, b) =>
      if c.closed ∨ gapOpen c 2 bind ∨ nowTick s < b.heard + secs (custodyField s c.mp 6 2) then s
      else openGap s id { cause := 1, bind := bind, start := stampOfTick s b.evid, startTicks := b.evid })

/-- The custody reserve of a band is spent, or available again, for a binding (Table CUS.3, cause 2; R318); its evidence, as that
of cause 1, is decided at the next accepted reading. -/
def radioGap (s : State) (id bind : Nat) (spent : Bool) : State :=
  match (chainOf s id).bind (fun c => (tfind c.binds bind).map fun b => (c, b)) with
  | none => s
  | some (c, b) =>
    if spent then openGap s id { cause := 2, bind := bind, start := nowStamp s, startTicks := nowTick s }
    else
      match c.gaps.find? (fun g => g.cause == 2 && g.bind == bind && g.finish.isNone) with
      | none => s
      | some g =>
        let s1 := mapChain s id fun x => { x with binds := tput x.binds bind { b with heard := b.heard + (nowTick s - g.startTicks) } }
        endGap s1 id 2 bind (nowStamp s) 0 0 false

/-! ### Host notes (R311) -/

/-- CUSTODY_SUBMIT (R311, R521). -/
def execCustodySubmit (d : Desc) (id : Nat) (payload : Bytes) (s : State) : Out :=
  .next (hostCmd s d 0x0803 false fun s =>
    let c := chainOf s id
    let live := match c with
      | some x => !x.closed && ((sessionById s id).elim false Session.isOpen)
      | none => false
    let recent := (c.elim [] (·.notes)).filter fun t => decide (nowTick s < t + secs 60)
    checked s d [(d.tenant == 0 || c.elim false (fun x => x.tenant == d.tenant), stNotPermitted),
      (live, stNotFound), (!(c.elim false (·.full)), stBadState), (decide (recent.length < 16), stCusRate)] fun s =>
      let q := c.elim 0 (·.seq)
      let s1 := mapChain s id fun x => { x with notes := recent ++ [nowTick s] }
      reply (writeRecord s1 id 8 3 d.tenant (pad 24 payload) true) d stOk (le 6 q))

end Sys2Proof.Machine
end

