-- ==== Sys2Proof/Machine/Tariff.lean ====
section
/-!
DEFINITION. Tariff calendars, sessions, billing periods and snapshots, and the commands on them (10_tariffs_billing.md).
-/
namespace Sys2Proof.Machine

/-! ### Small helpers -/

/-- UTC ticks of a tick count as the calendars take them: the master's time on a JOINED member (R556). -/
def utcAt (s : State) (t : Nat) : Int := (t : Int) + (if s.ril.joined then s.ril.utcLess else s.bkd.epoch)

/-- An object is present as a calendar slot. -/
def calPresent (s : State) (c : Nat) (passive : Bool) : Bool := slotPresent (cfgRd s (slotKey c passive))

/-- Tenants of a calendar: tenant 0 always uses calendar 0 (R271). -/
def calTenants (s : State) (c : Nat) : List Nat := (span 0 256).filter fun t => tenantDefined s t && (if t = 0 then c == 0 else tenantCal s t == c)

/-- An event of the tariff engine. -/
def tarEvent (s : State) (ev : Nat) (tenant : Nat) (fields : List Int) : State :=
  raise s { id := ev, tenant := tenant, data := Config.eventData ev fields }

/-- Total-phase legal register values of an MP, in units (R191). -/
def legalTotals (s : State) (m : Nat) : List Nat :=
  (span 0 7).map fun q => ladderValue s (ladderKey 0 (regLid m (4 * q + 3))) * commitQuantum + nth 0 (residuals s m) (4 * q + 3)

/-- MPs that carry an open session. -/
def boundMps (s : State) : List Nat := ((sessions s).filter (fun p => p.2.isOpen)).map (·.2.mp)

/-- Write the tariff state record (R274); it is durable at once (log entry 20). -/
def saveTariff (s : State) : State :=
  if s.cis.readOnly.contains 2 then s
  else
    let rc := { s.tar.live with est := s.met.mps.map fun p => (p.1, p.2.est) }
    { s with tar := { s.tar with saved := some (nowCycle s, rc, (boundMps s).map fun m => (m, legalTotals s m)) } }

/-! ### Session IDs (R270) -/

/-- The session ID ladder of the application partition (R366). -/
def idLadder : Nat := ladderKey 2 0

/-- Take the next SESSION_ID, reserving the next block of 64 ahead of use. -/
def takeSessionId (s : State) : Option (Nat × State) :=
  let n := s.tar.nextId
  if 0xFFFFFFFE < n then none
  else
    let s1 := { s with tar := { s.tar with nextId := n + 1 } }
    some (n, if s1.tar.blockEnd ≤ n + 1 then
      { stepLadder s1 idLadder with tar := { s1.tar with blockEnd := s1.tar.blockEnd + 64 } } else s1)

/-- The IDs after a CHIP start: from the next block (R270). -/
def restartIds (s : State) : State :=
  let v := ladderValue s idLadder
  let s1 := stepLadder s idLadder
  { s1 with tar := { s1.tar with nextId := max 1 (64 * v), blockEnd := 64 * (v + 1) } }

/-! ### Period ends (R275) -/

/-- End a tenant's billing period at boundary b: a snapshot of every output stamped before b (R275). -/
def periodEnd (s : State) (t b cause : Nat) : State :=
  let x := bill s t
  let nsess := ((sessions s).filter (fun p => p.2.tenant == t && p.2.opened && decide (p.2.start < b) && (match p.2.closed with
    | none => true
    | some e => (match x.lastB with
      | some l => decide (l < e)
      | none => true)))).length
  let u := flag (tt s == 1) 0
  let snap : Snap := { cycle := b, cause := cause, flags := x.flags ||| u, period := x.period, stat := clkTt s, ticks := nowTick s,
                       nsess := nsess, regs := x.regs, calId := cfg s (slotKey (calOf s t b) false) 4 4 }
  setBill s t { x with period := x.period + 1, flags := u, lastB := some b, pend := x.pend ++ [snap],
                       ends := x.ends.filter (fun e => decide (b < e)) }

/-- The bytes of a snapshot (Table TAR.6). -/
def snapBytes (t : Nat) (p : Snap) : Bytes :=
  le 1 t ++ le 1 p.cause ++ le 2 p.flags ++ le 4 p.period ++ le 5 p.cycle ++ le 1 p.stat ++ le 6 p.ticks ++ le 2 p.nsess ++ zeros 2 ++
    (p.regs.imp.map fun v => le 8 (v / 4294967296)).flatten ++ (p.regs.exp.map fun v => le 8 (v / 4294967296)).flatten ++
    (p.regs.tot.map fun v => le 8 (v / 4294967296)).flatten ++ leInt 8 (p.regs.charge / 4294967296) ++ le 4 p.calId ++ zeros 4

/-- Every output stamped before boundary b has been released or withheld, on every MP. -/
def allSettled (s : State) (b : Nat) : Bool := (s.met.mps.all fun p => decide (256 ≤ p.1 ∨ b ≤ settledTo s p.1))

/-- SNAPSHOT_COMPLETE (R275, R276): the oldest snapshot of a tenant, once its outputs have settled. -/
def execSnapshotComplete (t : Nat) (s : State) : Out :=
  .next (whenRunning s fun s =>
    let x := bill s t
    match x.pend with
    | [] => s
    | p :: rest =>
      if !allSettled s p.cycle then s
      else
        let s1 := setBill s t { x with pend := rest, snaps := (p :: x.snaps).take 24 }
        tarEvent (archive s1 3 t 0xFFFFFFFF (snapBytes t p)) 0x483 0 [(t : Nat), (p.period : Nat), (p.cycle : Nat), (p.cause : Nat)])

/-! ### Re-evaluation (R262) -/

/-- A TARIFF_SWITCH cue's argument: calendar, flag (0 NORMAL, 1 LATE, 2 RESUMED, 3 STEPPED; 64 created while calendar actions were
held, 128 by a commit) and projected tick. -/
def tariffArg (c flg tick : Nat) : Nat := c + 256 * flg + 65536 * tick

/-- The passive slot's ACTIVATE tick is at or before a tick (R262). -/
def activates (s : State) (c tick : Nat) : Bool :=
  let p := cfgRd s (slotKey c true)
  slotPresent p && decide (((p 8 8 : Nat) : Int) ≤ utcAt s tick)

/-- Step 1 of R262: the passive slot becomes the active slot, and a tariff state record is written (R274). -/
def activate (s : State) (c tick flg : Nat) (past : Bool) : State :=
  if !activates s c tick then s
  else
    let bytes := cfgBytes s (slotKey c true) 0 3536
    let active := bytes.take 8 ++ zeros 8 ++ bytes.drop 16
    let m1 := Mem.writeAll cfgDefault s.slu.force (cfgAddr (slotKey c false) 0) active
    let m2 := Mem.writeAll cfgDefault m1 (cfgAddr (slotKey c true) 0) (zeros 3536)
    let s1 := { s with slu := { s.slu with force := m2, past := s.slu.past ++ [(nowCycle s, s.slu.force)] } }
    saveTariff (tarEvent s1 0x481 0 [(c : Nat), (flg : Nat), if past then 1 else 0])

/-- Step 2 of R262: the rate that R257 gives. -/
def setRate (s : State) (c b tick flg : Nat) : State :=
  let r := cfgRd s (slotKey c false)
  let x := calState s c
  let new := rateAt r (tariffLocal s (utcAt s tick))
  if !slotPresent r ∨ new = x.rate then s
  else
    let s1 := setCal s c { x with rate := new, hist := (b, s.clk.frame, new) :: x.hist }
    let s2 := if flg = 1 then (calTenants s c).foldl (fun a t => setBill a t { bill a t with flags := (bill a t).flags ||| 64 }) s1 else s1
    saveTariff (tarEvent s2 0x480 0 [(c : Nat), (x.rate : Nat), (new : Nat), (b : Nat), (flg : Nat)])

/-- Step 3 of R262: one period end for every instant the rule has named since LAST_END. -/
def ruleEnd (s : State) (c b tick flg : Nat) : State :=
  let r := cfgRd s (slotKey c false)
  let x := calState s c
  match (if slotPresent r then lastEndBefore s r (utcAt s tick) else none), x.lastEnd with
  | some e, some l =>
    if l < e then
      let cause := if flg = 2 then 2 else if flg = 3 then 3 else 0
      let s1 := setCal s c { x with lastEnd := some e }
      ownCue { s1 with tar := { s1.tar with ruleEnds := s1.tar.ruleEnds ++ [(b, c, cause)] } } cueReport (mkStamp b 0) 0 0
    else s
  | some e, none => setCal s c { x with lastEnd := some e }
  | none, _ => s

/-- Re-evaluate a calendar at boundary b with the projected tick of b (R262). -/
def reevaluate (s : State) (c b tick flg : Nat) (commit : Bool) : State :=
  let s1 := activate s c tick flg (commit && decide ((cfg s (slotKey c true) 8 8 : Int) < utcAt s s.clk.tick))
  ruleEnd (setRate s1 c b tick flg) c b tick flg

/-- Calendar actions are held: time is UNTRUSTED (R79), or the master's is on a JOINED member (R556). -/
def calendarsHeld (s : State) : Bool :=
  tt s == 1 || (s.ril.joined && s.ril.last.elim false fun b => b.stat / 8 % 4 == 1)

/-- TARIFF_SWITCH (R262): the cue's steps in order; late when its boundary was skipped (R261).  The actions of a cue created while
they were held wait (R79); a cue created before executes. -/
def execTariffSwitch (i : Nat) (s : State) : Out :=
  .next (whenRunning s fun s =>
    if !cueDue s i cueTariff then s
    else
      let q := cue s i
      let late := decide (Stamp.cycle q.stamp < nowCycle s)
      let flg := if late then 1 else q.arg / 256 % 4
      finishCue (if bit q.arg 14 then s else reevaluate s (q.arg % 256) (nowCycle s) (q.arg / 65536) flg (bit q.arg 15)) i late)

/-- Create the cue that re-evaluates a calendar at boundary b. -/
def tariffCue (s : State) (c b flg : Nat) (commit : Bool) : State :=
  ownCue s cueTariff (mkStamp b 0) 0 (tariffArg c (flg + flag (calendarsHeld s) 6 + flag commit 7) (stampTicks s (mkStamp b 0)))

/-- Re-evaluate every calendar at the first boundary at least 1 cycle ahead (Table TAR.2). -/
def reevaluateAll (s : State) (flg : Nat) : State :=
  let b := Stamp.cycle (boundaryAfter s 1)
  (span 0 33).foldl (fun a c => if calPresent a c false || calPresent a c true then tariffCue a c b flg false else a) s

/-- A calendar has a pending instant in a tick span (R259): its rate changes, a passive slot activates, or a period ends. -/
def calendarDue (s : State) (c t0 t1 : Nat) : Bool :=
  let r := cfgRd s (slotKey c false)
  let p := cfgRd s (slotKey c true)
  let act := slotPresent p && decide (utcAt s t0 < (p 8 8 : Nat) ∧ ((p 8 8 : Nat) : Int) ≤ utcAt s t1)
  let rate := slotPresent r && rateAt r (tariffLocal s (utcAt s t0)) != rateAt r (tariffLocal s (utcAt s t1))
  let ends := slotPresent r && (match lastEndBefore s r (utcAt s t1) with
    | some e => decide (utcAt s t0 < (e : Int))
    | none => false)
  act || rate || ends

/-- The calendar work of boundary b − 1 (R259): cues for the switch boundary b, while calendar actions are not held.  The instants
looked at are those after the last projection, so that one the projection fell short of is taken at the next boundary
(DEDUCED, log entry 108). -/
def calendarBoundary (s : State) : State :=
  if calendarsHeld s then { s with tar := { s.tar with projected := none } }
  else
    let b := nowCycle s + 1
    let t1 := stampTicks s (mkStamp b 0)
    let t0 := match s.tar.projected with
      | some t => if t ≤ t1 then t else s.clk.tick
      | none => s.clk.tick
    (span 0 33).foldl (fun a c =>
      let a1 := if (calState a c).lastEnd.isNone ∧ calPresent a c false then
          (match lastEndBefore a (cfgRd a (slotKey c false)) (utcAt a t0) with
            | some e => setCal a c { calState a c with lastEnd := some e }
            | none => a)
        else a
      if calendarDue a1 c t0 t1 then tariffCue a1 c b 0 false else a1) { s with tar := { s.tar with projected := some t1 } }

/-! ### Opening and closing sessions (R268, R269) -/

/-- A session opens at boundary b: its chain starts, then the tariff state record is written (R268, R308). -/
def openNow (s : State) (id b : Nat) : State :=
  match sessionById s id with
  | none => s
  | some x =>
    let s1 := setSession s id { x with
      opened := true, start := b, stat := clkTt s, ticks := tickOf s (mkStamp b 0), untrusted := tt s == 1 }
    let s2 := tarEvent s1 0x482 x.tenant [0, 0, (id : Nat), (x.mp : Nat)]
    saveTariff (openChain s2 id x.mp x.tenant (flag x.nonPerishable 0 + flag x.autoOpened 1))

/-- A session closes at boundary b with a cause: 0 COMMAND, 1 UNPLUG, 2 MP_REMOVED. -/
def closeNow (s : State) (id b cause : Nat) : State :=
  match sessionById s id with
  | none => s
  | some x =>
    if !x.isOpen then s
    else
      let s1 := setSession s id { x with closed := some b, cause := cause, closeAt := none }
      let s2 := tarEvent s1 0x482 x.tenant [1, (cause : Nat), (id : Nat), (x.mp : Nat)]
      saveTariff (closeChain s2 id cause)

/-- A session is open, or waits to open, on an MP. -/
def mpTaken (s : State) (m : Nat) : Bool := (sessions s).any fun p => p.2.mp == m && p.2.closed.isNone

/-- An automatic PLUG event (R268): refused when the IDs have run out (R270). -/
def autoOpen (s : State) (m n : Nat) : State :=
  if bindField s m 0 1 ≠ 1 ∨ mpTaken s m ∨ mpAbsent s m then s
  else
    let t := bindField s m 1 1
    match takeSessionId s with
    | none => tarEvent s 0x482 0 [2, 0, 0xFFFFFFFF, (m : Nat)]
    | some (id, s1) =>
      openNow (setSession s1 id { mp := m, tenant := t, start := n, nonPerishable := bit (bindField s m 2 1) 0, autoOpened := true }) id n

/-- PLUG and UNPLUG of an MP from its no-load evaluation (R268, R269). -/
def plugMp (s : State) (m : Nat) : State :=
  match (mpOf s m).nlCycles with
  | [] => s
  | (n, _, _) :: _ =>
    match (mpOf s m).noLoad, tfind s.tar.nlSince m with
    | true, none => { s with tar := { s.tar with nlSince := tput s.tar.nlSince m n } }
    | false, some _ => autoOpen { s with tar := { s.tar with nlSince := tdel s.tar.nlSince m } } m n
    | true, some since =>
      (match openSession s m with
        | some (id, x) =>
          let k := bindField s m 4 4
          if k ≠ 0 ∧ max since x.start + k ≤ n + 1 then closeNow s id (max since x.start + k) 1 else s
        | none => s)
    | false, none => s

/-- Sessions on MPs that a commit made absent close at its boundary (R269). -/
def closeRemoved (s : State) : State :=
  ((sessions s).filter (fun p => p.2.isOpen && mpAbsent s p.2.mp)).foldl (fun a p => closeNow a p.1 (nowCycle s) 2) s

/-! ### REPORT_CUT (R277) -/

/-- Session closes, then period ends, then session opens that are due (R277). -/
def reportCut (s : State) : State :=
  let b := nowCycle s
  let s1 := ((sessions s).filter (fun p => p.2.isOpen && p.2.closeAt.elim false (fun c => decide (c.1 ≤ b)))).foldl
    (fun a p => closeNow a p.1 b (p.2.closeAt.elim 0 (·.2))) s
  let due := s1.tar.ruleEnds.filter fun e => decide (e.1 ≤ b)
  let s2 := { s1 with tar := { s1.tar with ruleEnds := s1.tar.ruleEnds.filter fun e => decide (b < e.1) } }
  let s3 := (span 0 256).foldl (fun a t =>
    match due.find? (fun e => tenantDefined a t && (if t = 0 then e.2.1 == 0 else tenantCal a t == e.2.1)) with
    | some e => periodEnd a t b e.2.2
    | none => if (bill a t).ends.any (fun e => decide (e ≤ b)) then periodEnd a t b 1 else a) s2
  let s4 := if due.isEmpty ∧ s3.tar.live.bills = s2.tar.live.bills then s3 else saveTariff s3
  ((sessions s4).filter (fun p => !p.2.opened && p.2.closed.isNone && decide (p.2.start ≤ b))).foldl (fun a p => openNow a p.1 b) s4

/-- REPORT_CUT (R49, R277). -/
def execReportCut (i : Nat) (s : State) : Out :=
  .next (whenRunning s fun s =>
    if !cueDue s i cueReport then s
    else finishCue (reportCut s) i (decide (Stamp.cycle (cue s i).stamp < nowCycle s)))

/-! ### The boundary's work -/

/-- UNTRUSTED marks of open sessions and running periods (R265). -/
def markUntrusted (s : State) : State :=
  if tt s = 1 ∧ !s.tar.untrusted then
    let s1 := ((sessions s).filter (fun p => p.2.isOpen)).foldl (fun a p => setSession a p.1 { p.2 with untrusted := true }) s
    let s2 := (span 0 256).foldl (fun a t => if tenantDefined a t then setBill a t { bill a t with flags := (bill a t).flags ||| 1 } else a) s1
    { s2 with tar := { s2.tar with untrusted := true } }
  else { s with tar := { s.tar with untrusted := tt s == 1 } }

/-- Final session records of closed sessions whose outputs have settled (R276). -/
def sessionFlags (x : Session) : Nat :=
  flag x.isOpen 0 + flag x.nonPerishable 1 + flag x.autoOpened 2 + flag x.filled 3 + flag x.untrusted 4 + flag x.bridged 5 + flag x.rebuilt 6

/-- A register set and its header in the layout of Table TAR.5. -/
def regRecord (id m t fl start stat fin ticks at_ : Nat) (r : RegSet) : Bytes :=
  le 4 id ++ le 2 m ++ le 1 t ++ le 1 fl ++ le 5 start ++ le 1 stat ++ le 5 fin ++ zeros 1 ++ le 6 ticks ++ zeros 6 ++
    (r.imp.map fun v => le 8 (v / 4294967296)).flatten ++ (r.exp.map fun v => le 8 (v / 4294967296)).flatten ++
    (r.tot.map fun v => le 8 (v / 4294967296)).flatten ++ leInt 8 (r.charge / 4294967296) ++ le 5 at_ ++ zeros 3

/-- A session record (Table TAR.5). -/
def sessionBytes (s : State) (id : Nat) (x : Session) : Bytes :=
  regRecord id x.mp x.tenant (sessionFlags x) x.start (x.stat + 32 * x.cause) (x.closed.getD 0) x.ticks
    (min (settledTo s x.mp) (x.closed.getD (nowCycle s))) x.regs

/-- Archive the final records that have settled. -/
def archiveSessions (s : State) : State :=
  ((sessions s).filter (fun p => !p.2.archived && p.2.closed.elim false (fun b => decide (b ≤ settledTo s p.2.mp)))).foldl
    (fun a p => archive (setSession a p.1 { p.2 with archived := true }) 4 p.2.tenant p.1 (sessionBytes a p.1 p.2)) s

/-- The tariff engine's work at a boundary. -/
def tariffBoundary (s : State) : State :=
  let s1 := (span 0 256).foldl plugMp (markUntrusted s)
  let s2 := calendarBoundary (archiveSessions s1)
  if nowCycle s % 4096 = 0 then saveTariff s2 else s2

/-! ### Restore at a CHIP start (R267, R274) -/

/-- Book an MP's legal register increase since the record to the session and rate recorded in it, flagged REBUILT. -/
def rebuildMp (s : State) (m : Nat) (old : List Nat) : State :=
  let inc := (List.zipWith (fun a b => a - b) (legalTotals s m) old).map (· * 4294967296)
  match openSession s m with
  | none => s
  | some (id, x) =>
    let t := x.tenant
    let c := calOf s t (nowCycle s)
    let price := fun (k rate : Nat) => (cfg s (slotKey k false) (32 + 16 * rate) 4, cfg s (slotKey k false) (36 + 16 * rate) 4)
    let rate := (calState s c).rate
    let rate0 := (calState s 0).rate
    let ch := chargeOf (price c rate) (nth 0 inc 0) (nth 0 inc 1)
    let ch0 := chargeOf (price 0 rate0) (nth 0 inc 0) (nth 0 inc 1)
    if inc.all (· == 0) then s
    else
      let s1 := setSession s id { x with regs := addRegs x.regs rate inc ch, rebuilt := true }
      let s2 := setBill s1 t { bill s1 t with regs := addRegs (bill s1 t).regs rate inc ch, flags := (bill s1 t).flags ||| 16 }
      setMpRegs s2 m (addRegs (mpRegs s2 m) rate0 inc ch0)

/-- Restore the last tariff state record (R274); without one, each calendar begins with DEFAULT_RATE, and EV_TAR_SWITCH
carries RESUMED (R267). -/
def restoreTariff (s : State) : State :=
  match s.tar.saved with
  | some (_, rc, mps) =>
    let s1 := { s with tar := { s.tar with live := rc } }
    let s2 := rc.est.foldl (fun a p => setMp a p.1 { mpOf a p.1 with est := p.2 }) s1
    mps.foldl (fun a p => rebuildMp a p.1 p.2) s2
  | none =>
    (span 0 33).foldl (fun a c =>
      if calPresent a c false then
        let r := cfg a (slotKey c false) 21 1
        tarEvent (setCal a c { calState a c with rate := r, hist := [(0, 0, r)] }) 0x480 0 [(c : Nat), (r : Nat), (r : Nat), 0, 2]
      else a) s

/-! ### Commands (R268, R269, R275, R518) -/

/-- The stamp a command with STAMP 0 asks for, or its own. -/
def stampOr (s : State) (stamp : Stamp) : Stamp := if stamp = 0 then boundaryAfter s 1 else stamp

/-- The checks of a stamped REPORT_CUT. -/
def cutChecks (s : State) (stamp : Stamp) (owner : Nat) : List (Bool × Nat) :=
  let c := cueCheck s cueReport (stampOr s stamp)
  let r := cueRoom s owner
  [(c.isNone, c.getD 0), (r.isNone, r.getD 0)]

/-- SESSION_OPEN (R268, R518). -/
def execSessionOpen (d : Desc) (m t sflags : Nat) (stamp : Stamp) (s : State) : Out :=
  .next (hostCmd s d 0x0501 false fun s =>
    checked s d ([by0 d, (decide (m < 256), stBadArg), (!mpAbsent s m, stMpAbsent), (tenantDefined s t, stTenantUnknown),
      (!mpTaken s m, stMpBound), (decide (s.tar.nextId ≤ 0xFFFFFFFE), stSessionExhausted)] ++ cutChecks s stamp 0) fun s =>
      match takeSessionId s with
      | none => reply s d stSessionExhausted []
      | some (id, s1) =>
        let b := stampOr s stamp
        let s2 := setSession s1 id { mp := m, tenant := t, start := Stamp.cycle b, nonPerishable := bit sflags 0 }
        reply (createCue s2 cueReport b 0 0).1 d stOk (le 4 id ++ le 7 b))

/-- SESSION_CLOSE (R269, R518). -/
def execSessionClose (d : Desc) (id : Nat) (stamp : Stamp) (s : State) : Out :=
  .next (hostCmd s d 0x0502 false fun s =>
    let x := sessionById s id
    checked s d ([by0 d, (x.elim false Session.isOpen, stNotFound)] ++ cutChecks s stamp 0) fun s =>
      match x with
      | none => reply s d stNotFound []
      | some y =>
        let b := stampOr s stamp
        let at_ := match y.closeAt with
          | some c => min c.1 (Stamp.cycle b)
          | none => Stamp.cycle b
        reply (createCue (setSession s id { y with closeAt := some (at_, 0) }) cueReport b 0 0).1 d stOk (le 7 b))

/-- SESSION_LIST (R518). -/
def execSessionList (d : Desc) (tenant first count : Nat) (s : State) : Out :=
  .next (hostCmd s d 0x0503 true fun s =>
    checked s d [(d.tenant == 0 || tenant == d.tenant, stNotPermitted), (within 1 count 256, stBadArg),
      (tenant == 0xFF || tenantDefined s tenant, stTenantUnknown)] fun s =>
      let l := (sessions s).filter fun p => p.2.isOpen && decide (first ≤ p.1) && (tenant == 0xFF && d.tenant == 0 || p.2.tenant == tenant)
      replyOut s d ((l.take count).map fun p => sessionBytes s p.1 p.2).flatten (le 4 (((l.drop count).head?).elim 0 (·.1))))

/-- BILL_END (R275, R518). -/
def execBillEnd (d : Desc) (tenant : Nat) (stamp : Stamp) (s : State) : Out :=
  .next (hostCmd s d 0x0504 false fun s =>
    let b := stampOr s stamp
    let ends := (bill s tenant).ends
    checked s d ([(d.tenant == 0 || (tenant == d.tenant && selfEnd s tenant), stNotPermitted), (tenantDefined s tenant, stTenantUnknown)] ++
      cutChecks s stamp d.tenant ++
      [(ends.all fun e => decide (e + 1 < Stamp.cycle b ∨ Stamp.cycle b + 1 < e), stCueConflict)]) fun s =>
      let x := bill s tenant
      let s1 := setBill s tenant { x with ends := x.ends ++ [Stamp.cycle b] }
      reply (createCue s1 cueReport b d.tenant 0).1 d stOk
        (le 7 b ++ le 4 (x.period + (x.ends.filter (fun e => decide (e < Stamp.cycle b))).length)))

/-- The MP carries an open session of a tenant. -/
def mpOfTenant (s : State) (m t : Nat) : Bool := (openSession s m).elim false fun p => p.2.tenant == t

/-- The bytes that BILL_READ returns (R518): snapshots from period `id` on, the running period's registers, a session, or an MP's set. -/
def billOut (s : State) (what tenant id count : Nat) : Bytes :=
  let x := bill s tenant
  let now : Snap := { cycle := nowCycle s, cause := 0, flags := x.flags, period := x.period, stat := clkTt s, ticks := nowTick s,
                      nsess := ((sessions s).filter (fun p => p.2.tenant == tenant && p.2.isOpen)).length, regs := x.regs,
                      calId := cfg s (slotKey (calOf s tenant (nowCycle s)) false) 4 4 }
  match what with
  | 0 => ((((x.snaps.reverse).filter (fun p => decide (id ≤ p.period))).take count).map (snapBytes tenant)).flatten
  | 1 => snapBytes tenant now
  | 2 => (sessionById s id).elim [] (sessionBytes s id)
  | _ => regRecord 0xFFFFFFFF id (mpTenant s id) 0 0 0 0 0 (settledTo s id) (mpRegs s id)

/-- BILL_READ (R518): 0 snapshots, 1 tenant registers, 2 session, 3 MP. -/
def execBillRead (d : Desc) (what tenant id count : Nat) (s : State) : Out :=
  .next (hostCmd s d 0x0505 true fun s =>
    let x := bill s tenant
    let ses := sessionById s id
    let own := d.tenant == 0 || (tenant == d.tenant && (match what with
      | 2 => ses.elim false (fun y => y.tenant == d.tenant)
      | 3 => mpOfTenant s id d.tenant
      | _ => true))
    let found := match what with
      | 0 => x.snaps.any fun p => p.period == id
      | 2 => ses.elim false Session.isOpen
      | _ => true
    checked s d [(own, stNotPermitted), (within 0 what 3 && within 1 count 24 && (what != 3 || decide (id < 256)), stBadArg),
      (tenantDefined s tenant, stTenantUnknown), (found, stNotFound)] fun s =>
      replyOut s d (billOut s what tenant id count) [])

end Sys2Proof.Machine
end

