-- ==== Sys2Proof/Machine/Annunciator.lean ====
section
/-!
DEFINITION. The annunciator's channels: their states, plays and their stack, tones and PCM (17_annunciator.md).  The
commands stand in AnnCommands.lean, since an aborted warning acts on relay sequences.
-/
namespace Sys2Proof.Machine

/-! ### Channels and their states (R439, Table ANN.1) -/

/-- Ticks of a number of milliseconds, rounded up. -/
def msTicks (n : Nat) : Nat := (n * 32768 + 999) / 1000

/-- A channel. -/
def annChan (s : State) (c : Nat) : AnnChan := if c = 0 then s.ann.ch0 else s.ann.ch1

/-- Replace a channel. -/
def setAnnChan (s : State) (c : Nat) (x : AnnChan) : State :=
  if c = 0 then { s with ann := { s.ann with ch0 := x } } else { s with ann := { s.ann with ch1 := x } }

/-- Codes of Table ANN.7. -/
def annCode : AnnState → Nat
  | .off => 0
  | .starting => 1
  | .run => 2
  | .stopping => 3
  | .muted => 4
  | .retry => 5
  | .latched => 6
  | .thermal => 7
  | .uvlo => 8
  | .linkLost => 9

/-- ENABLE of a channel (Table ANN.3). -/
def annEnabled (s : State) (c : Nat) : Bool := bit (annField s c 1) 0

/-- A channel is available (R451). -/
def annAvailable (s : State) (c : Nat) : Bool :=
  annEnabled s c && !s.ann.mute &&
    ((annChan s c).state == .off || (annChan s c).state == .starting || (annChan s c).state == .run)

/-- Change a channel's state, with EV_ANN_STATE (R439). -/
def setAnnState (s : State) (c : Nat) (st : AnnState) (cause : Nat) : State :=
  let x := annChan s c
  if x.state = st then s
  else
    inform (setAnnChan s c { x with state := st, since := nowTick s, clean := if st = .run then nowTick s else x.clean })
      { id := 0x7F0, data := le 1 c ++ le 1 (annCode x.state) ++ le 1 (annCode st) ++ le 1 (Config.annCause cause) }

/-- PCM sounds on a channel (R449, Table ANN.3). -/
def pcmOn (s : State) (c : Nat) : Bool :=
  s.ann.pcm && (bit (annField s 7 1) 0 || bit (annField s 7 1) (1 + c))

/-- A channel has a source. -/
def annSource (s : State) (c : Nat) : Bool := !(annChan s c).stack.isEmpty || !(annChan s c).tones.isEmpty || pcmOn s c

/-- A channel sounds: its loop runs and it has a source (R440, R441). -/
def annSounds (s : State) (c : Nat) : Bool :=
  ((annChan s c).state == .starting || (annChan s c).state == .run || (annChan s c).state == .stopping) && annSource s c

/-- A second of a channel that sounds ends: EV_ANN_CLIP when some of it was clipped (R444).  The measured VSPK that clipping
depends on is in no command, so the number of clipped samples is a free value (DESIGN CHOICE, log entry 56). -/
def clipSecond (s : State) (c : Nat) : State :=
  if annSounds s c then
    let (v, s1) := takeFree s
    if v % 4294967296 = 0 then s1 else inform s1 { id := 0x7F9, data := le 1 c ++ le 4 v }
  else s

/-- A source starts an OFF channel when it may run (Table ANN.1). -/
def annStart (s : State) (c : Nat) : State :=
  if (annChan s c).state = .off ∧ annEnabled s c ∧ !s.ann.mute ∧ s.ann.vspkGood ∧ s.ann.linkGood ∧ annSource s c then
    setAnnState s c .starting 0
  else s

/-- A source has ended: the idle time runs from now when it was the last. -/
def annIdle (s : State) (c : Nat) : State := if annSource s c then s else setAnnChan s c { annChan s c with idle := nowTick s }

/-! ### Plays (R445–R448) -/

/-- EV_ANN_PLAY of one owner (Table ANN.6). -/
def playEvent (s : State) (c clip what : Nat) (o : PlayOwner) : State :=
  inform s { id := 0x7F1, data := le 1 c ++ le 1 clip ++ le 1 what ++ le 2 o.tag }

/-- EV_ANN_PLAY of every owner of a clip. -/
def playEvents (s : State) (c what : Nat) (y : Sounding) : State := y.owners.foldl (fun a o => playEvent a c y.clip what o) s

/-- LEN and CFLAGS of a clip (Table ANN.4). -/
def clipLen (s : State) (k : Nat) : Nat := cfg s (objCode objClip 0) (8 * k + 4) 3
def clipAlarm (s : State) (k : Nat) : Bool := bit (cfg s (objCode objClip 0) (8 * k + 7) 1) 0

/-- Ticks that a pass of a clip lasts: 16,000 samples a second (R450). -/
def clipTicks (len : Nat) : Nat := (len * 32768 + 15999) / 16000

/-- The instant from which a channel's sources sound: step 3 of STARTING (R440). -/
def soundFrom (s : State) (c : Nat) : Nat :=
  if (annChan s c).state = .starting then max (nowTick s) ((annChan s c).since + msTicks 3) else nowTick s

/-- Hold the clip that plays, with its position (R445). -/
def holdTop (s : State) (c : Nat) : State :=
  match (annChan s c).stack with
  | y :: rest =>
    if y.held.isNone ∧ y.started then
      playEvents (setAnnChan s c { annChan s c with stack := { y with held := some (nowTick s - y.since) } :: rest }) c 1 y
    else s
  | [] => s

/-- Let the clip at the top of the stack sound: it starts, or resumes where it was held. -/
def soundTop (s : State) (c : Nat) : State :=
  match (annChan s c).stack with
  | y :: rest =>
    (match y.started, y.held with
      | false, _ =>
        playEvents (setAnnChan s c { annChan s c with stack := { y with started := true, since := soundFrom s c, held := none } :: rest }) c 0 y
      | true, some p => playEvents (setAnnChan s c { annChan s c with stack := { y with since := nowTick s - p, held := none } :: rest }) c 2 y
      | true, none => s)
  | [] => annIdle s c

/-- Where a new clip goes in the stack: below every clip of higher rank, above its equals (R445). -/
def insertClip (y : Sounding) : List Sounding → List Sounding
  | [] => [y]
  | z :: r => if z.alarm && !y.alarm then z :: insertClip y r else y :: z :: r

/-- A stack of more than 4 clips drops its lowest play (R445). -/
def dropFifth (s : State) (c : Nat) : State :=
  let x := annChan s c
  match x.stack.drop 4 with
  | y :: _ => playEvents (setAnnChan s c { x with stack := x.stack.take 4 }) c 5 y
  | [] => s

/-- Why a play is refused, if it is (R447, R451). -/
def playRefusal (s : State) (c clip : Nat) : Option Nat :=
  if clipLen s clip = 0 then some stAnnClip else if !annAvailable s c then some stAnnUnavailable else none

/-- Start, stack or join a play that is not refused (R445, R446). -/
def playClip (s : State) (c clip : Nat) (alarm : Bool) (o : PlayOwner) : State :=
  let x := annChan s c
  if x.stack.any (fun y => y.clip == clip) then
    playEvent (setAnnChan s c { x with stack := x.stack.map fun y => if y.clip = clip then { y with owners := y.owners ++ [o] } else y }) c clip 0 o
  else
    let y : Sounding := { clip := clip, alarm := alarm, len := clipLen s clip, owners := [o], since := nowTick s, started := false }
    let st := insertClip y x.stack
    let top := (st.head?).elim false (fun z => z.clip == clip)
    let s1 := if top then holdTop s c else s
    let x1 := annChan s1 c
    let s2 := annStart (setAnnChan s1 c { x1 with stack := insertClip y x1.stack }) c
    let s3 := if top then soundTop s2 c else playEvent s2 c clip 1 o
    dropFifth s3 c

/-- End the plays of the owners that `gone` names, with a code of Table ANN.6; a clip without owners leaves the stack and
what was beneath it resumes. -/
def endPlays (s : State) (c what : Nat) (gone : Nat → PlayOwner → Bool) : State :=
  let x := annChan s c
  let ended := x.stack.flatMap fun y => (y.owners.filter (gone y.clip)).map fun o => (y.clip, o)
  let st := (x.stack.map fun y => { y with owners := y.owners.filter (fun o => !gone y.clip o) }).filter (fun y => !y.owners.isEmpty)
  if ended.isEmpty then s
  else ended.foldl (fun a p => playEvent a c p.1 what p.2) (soundTop (setAnnChan s c { x with stack := st }) c)

/-- The MPs whose warnings sound or are held on a channel. -/
def warned (s : State) (c : Nat) : List Nat :=
  (annChan s c).stack.flatMap fun y => (y.owners.filter (fun o => decide (2 ≤ o.src))).map fun o => o.src - 2

/-- A channel that is no longer available ends its plays as ABORTED (R451). -/
def abortPlays (s : State) (c : Nat) : State := if annAvailable s c then s else endPlays s c 6 (fun _ _ => true)

/-- Stop a warning of an MP wherever it sounds: 3 at its switching stamp, 4 when its sequence is abandoned (R448). -/
def stopWarning (s : State) (m what : Nat) : State :=
  [0, 1].foldl (fun a c => endPlays a c what (fun _ o => o.src == 2 + m)) s

/-! ### Keypad tones (R280, Table ANN.2) -/

/-- Sound a keypad tone on generator 3: 0 ACCEPT, 1 REJECT, 2 LOCKED. -/
def keyTone (s : State) (kind : Nat) : State :=
  let c := toneCh s
  let ms := if kind = 0 then 150 else if kind = 1 then 400 else 600
  let tone : Tone := { freq := if kind = 0 then 1000 else 400, att := 24, till := some (soundFrom s c + msTicks ms) }
  if annAvailable s c then annStart (setAnnChan s c { annChan s c with tones := tput (annChan s c).tones 3 tone }) c else s

end Sys2Proof.Machine
end

