-- ==== Sys2Proof/Machine/Credit.lean ====
section
/-!
DEFINITION. Tokens, the keypad and its lockout, and credit accounts (11_credit_relays.md).
-/
namespace Sys2Proof.Machine

/-! ### Tokens (R281–R285) -/

/-- The low 33 bits mask's modulus. -/
def half33 : Nat := 8589934592

/-- The round function F(i, X) (R282). -/
def tokenRound (key i x : Nat) : Nat :=
  leVal (((Config.aes128 key ([0x54, BitVec.ofNat 8 i] ++ le 5 x ++ zeros 9)).take 5)) % half33

/-- Decipherment of C (R285). -/
def tokenPlain (key c : Nat) : Nat :=
  let r := [3, 2, 1, 0].foldl (fun (p : Nat × Nat) i => (p.2 ^^^ tokenRound key i p.1, p.1)) (c / half33, c % half33)
  r.1 * half33 + r.2

/-- The token MAC (R284). -/
def tokenMac (key p : Nat) : Nat :=
  fld (be 16 (Config.cmac key ([0x4D, 0x41, 0x43] ++ le 8 Config.deviceId ++ le 7 (p / 16384)))) 0 2 % 16384

/-- Fields of P (Table CRD.2). -/
def tokClass (p : Nat) : Nat := p / 2 ^ 62 % 16
def tokSub (p : Nat) : Nat := p / 2 ^ 58 % 16
def tokTenant (p : Nat) : Nat := p / 2 ^ 50 % 256
def tokAmount (p : Nat) : Nat := p / 2 ^ 30 % 1048576
def tokId (p : Nat) : Nat := p / 2 ^ 14 % 65536

/-- Reserved class or fields (Table CRD.2). -/
def tokReserved (p : Nat) : Bool :=
  match tokClass p with
  | 0 => decide (1 < tokSub p)
  | 1 => tokSub p != 0 || tokAmount p != 0
  | 2 => tokSub p != 0 || tokAmount p != 0
  | _ => true

/-- A tenant's account. -/
def account (s : State) (t : Nat) : Credit := tget {} s.crd.accounts t

/-- Replace an account. -/
def setAccount (s : State) (t : Nat) (x : Credit) : State := { s with crd := { s.crd with accounts := tput s.crd.accounts t x } }

/-- The token key of a tenant as slot and generation: the TOKEN slot it owns, unless that is being erased (R327, R340). -/
def tokenKey (s : State) (t : Nat) : Option (Nat × Nat) :=
  match tokenSlot s t with
  | some k => if slotErasing s k then none else some (k, (keySlot s k).kgen)
  | none => none

/-- The window belongs to the tenant's token key: at a change of that key, floor and window are reset (R287). -/
def refreshWindow (s : State) (t : Nat) : State :=
  let x := account s t
  match tokenKey s t with
  | none => s
  | some k => if x.key = some k then s else setAccount s t { x with key := some k, floor := 0, used := [] }

/-- Check an ID against the window (R286). -/
def idCheck (x : Credit) (id : Nat) : Option Nat :=
  if id < x.floor then some stTokenOld
  else if id ≤ x.floor + 4095 ∧ x.used.contains id then some stTokenUsed
  else none

/-- Take an accepted ID into the window (R286). -/
def idTake (x : Credit) (id : Nat) : Credit :=
  let f := if x.floor + 4095 < id then id - 4095 else x.floor
  { x with floor := f, used := id :: x.used.filter (fun u => decide (f ≤ u)) }

/-- Decode and check a token of 20 digits for a tenant (R285): a status, and P when it was deciphered. -/
def decodeToken (s : State) (t : Nat) (digits : List Nat) : Nat × Option Nat :=
  let c := digits.foldl (fun a d => 10 * a + d) 0
  if 2 ^ 66 ≤ c then (stTokenFormat, none)
  else
    match tokenKey s t with
    | none => (stNoTokenKey, none)
    | some (k, _) =>
      let p := tokenPlain (material s k) c
      if p % 16384 ≠ tokenMac (material s k) p then (stTokenMac, none)
      else if tokTenant p ≠ t then (stTokenTenant, some p)
      else if tokReserved p then (stTokenClass, some p)
      else ((idCheck (account s t) (tokId p)).getD 0, some p)

/-- Credit of a CREDIT token in µCU (R287). -/
def tokCredit (p : Nat) : Nat :=
  if tokClass p ≠ 0 then 0 else tokAmount p * (if tokSub p = 0 then 10000 else 1000000)

/-- Check a token and record it in the credit state (R285–R287): the status, P, and the new state. -/
def runToken (s0 : State) (t : Nat) (digits : List Nat) : (Nat × Option Nat) × State :=
  let s := refreshWindow s0 t
  let r := decodeToken s t digits
  match r with
  | (0, some p) =>
    if s.cis.readOnly.contains 2 then ((stArchive, some p), raise s { id := 0x684 })
    else
      let x := idTake (account s t) (tokId p)
      (r, setAccount s t { x with due := x.due + (tokCredit p : Nat), ecDue := x.ecDue || tokClass p == 1 })
  | _ => (r, s)

/-- EV_CRD_TOKEN (R280): MP or 0xFFFF, token ID when deciphered, status; `t` is the tenant of the session on the MP, or 0 (R388). -/
def tokenEvent (s : State) (t m : Nat) (id : Option Nat) (status : Nat) : State :=
  raise s { id := 0x484, src := m, tenant := t, data := Config.eventData 0x484 [(m : Nat), ((id.getD 0xFFFF : Nat) : Int), (status : Nat)] }

/-! ### Lockout (R288) -/

/-- Ticks in seconds, as the lockout record counts. -/
def nowSec (s : State) : Nat := nowTick s / 32768

/-- The keypad is locked. -/
def keypadLocked (s : State) : Bool := s.bkd.ret.lockUntil != 0 && decide (nowSec s < s.bkd.ret.lockUntil)

/-- Replace the lockout record. -/
def setLock (s : State) (till : Nat) (bad : List Nat) : State :=
  { s with bkd := { s.bkd with ret := { s.bkd.ret with lockUntil := till, bad := bad } } }

/-- Clear VALID on the entries that are 600 s old (R288). -/
def freshBad (s : State) : List Nat :=
  s.bkd.ret.bad.map fun e => if 32768 ≤ e ∧ 600 ≤ (nowSec s + 32768 - e % 32768) % 32768 then e % 32768 else e

/-- A rejected keypad token counts; after the fifth within 600 s a lockout starts with the next key press (R288). -/
def keypadBad (s : State) : State :=
  let bad := freshBad s
  match (span 0 4).find? (fun i => nth 0 bad i < 32768) with
  | some i => setLock s s.bkd.ret.lockUntil (setNth bad i (32768 + nowSec s % 32768))
  | none => { s with crd := { s.crd with lockDue := true } }

/-- The lockout that is due starts with this key press, for LOCK_S (R288). -/
def startLock (s : State) : State :=
  if !s.crd.lockDue then s
  else
    let s1 := setLock s (nowSec s + lockS s) [0, 0, 0, 0]
    tamper (raise { s1 with crd := { s1.crd with lockSaid := true, lockDue := false } } { id := 0x485, data := Config.eventData 0x485 [1] })
      tamperDevice 9

/-- The lockout ends, with EV_CRD_LOCK (R288). -/
def unlockKeypad (s : State) : State :=
  if s.bkd.ret.lockUntil = 0 then s
  else raise { setLock s 0 s.bkd.ret.bad with crd := { s.crd with lockSaid := false } } { id := 0x485, data := Config.eventData 0x485 [0] }

/-- KEYPAD_LOCK_END (R288): LOCK_S has passed. -/
def execKeypadLockEnd (s : State) : Out :=
  .next (whenRunning s fun s => if s.bkd.ret.lockUntil ≠ 0 ∧ s.bkd.ret.lockUntil ≤ nowSec s then unlockKeypad s else s)

/-- KEYPAD_BAD_EXPIRE (R288): an entry that is 600 s old counts no more. -/
def execKeypadBadExpire (s : State) : Out :=
  .next (whenRunning s fun s => setLock s s.bkd.ret.lockUntil (freshBad s))

/-- KEYPAD_UNLOCK (R288). -/
def execKeypadUnlock (d : Desc) (s : State) : Out :=
  .next (hostCmd s d 0x0605 false fun s => checked s d [by0 d] fun s => reply (unlockKeypad s) d stOk [])

/-! ### Accounts (R290–R293) -/

/-- EC_LIMIT and LOW_TH of a tenant, µCU. -/
def ecLimit (s : State) (t : Nat) : Nat := creditField s t 12 8
def lowTh (s : State) (t : Nat) : Nat := creditField s t 4 8

/-- BALANCE in 2^-32 µCU from the CHARGE that stands (R290). -/
def balanceOf (s : State) (t : Nat) (x : Credit) : Int := x.creditIn * 4294967296 - ((bill s t).regs.charge - x.chargeBase)

/-- Debt in 2^-32 µCU, 0 while there is none (R293). -/
def debtOf (s : State) (t : Nat) (x : Credit) : Int :=
  max 0 ((if x.ec then -((ecLimit s t : Int) * 4294967296) else 0) - x.balance)

/-- The state that Table CRD.3 gives. -/
def creditState (s : State) (t : Nat) (x : Credit) : Nat :=
  if (lowTh s t : Int) * 4294967296 < x.balance then 0
  else if 0 < x.balance then 1
  else if x.ec ∧ -((ecLimit s t : Int) * 4294967296) < x.balance then 2
  else 3

/-- Why EC is refused to a tenant, if it is (R292, R519). -/
def ecRefusal (s : State) (t : Nat) : Option Nat :=
  let x := account s t
  firstFail [(prepaid s t, stNotPrepaid), (ecLimit s t != 0, stEcNone), (!x.ecUsed, stEcUsed),
    (x.state == 3 && decide (-((ecLimit s t : Int) * 4294967296) < x.balance), stBadState)]

/-- Set a credit state, with EV_CRD_STATE on a change (R291). -/
def setCreditState (s : State) (t st : Nat) : State :=
  let x := account s t
  if x.state = st then s
  else raise (setAccount s t { x with state := st }) { id := 0x486, data := Config.eventData 0x486 [(t : Nat), (x.state : Nat), (st : Nat)] }

/-- EC becomes active (R292). -/
def grantEc (s : State) (t : Nat) : State := setCreditState (setAccount s t { account s t with ec := true, ecUsed := true, ecDue := false }) t 2

/-- EV_CRD_DEBT when debt begins and at each further multiple of DEBT_STEP (R293). -/
def debtStep (s : State) (t : Nat) : State :=
  let x := account s t
  let debt := debtOf s t x
  let k := (debt / 4294967296 / ((creditField s t 20 4 : Int) * 1000000)).toNat
  if debt ≤ 0 then setAccount s t { x with debtSaid := none }
  else
    let say := match x.debtSaid with
      | none => true
      | some n => decide (n < k)
    if say then raise (setAccount s t { x with debtSaid := some k }) { id := 0x487, data := Config.eventData 0x487 [(t : Nat), debt / 4294967296] }
    else s

/-- CREDIT_STATE_EVALUATION of one PREPAID tenant at a boundary (R287, R290–R293). -/
def creditTenant (s0 : State) (t : Nat) : State :=
  let s := refreshWindow s0 t
  let x := account s t
  let x1 := { x with creditIn := x.creditIn + x.due, due := 0, cycle := nowCycle s, stat := clkTt s }
  let bal := balanceOf s t x1
  let x2 := { x1 with balance := bal }
  let limit : Int := (ecLimit s t : Int) * 4294967296
  let auto := bit (creditField s t 1 1) 0 && decide (bal ≤ 0) && decide (x.state ≤ 1) && decide (0 < limit)
  let asked := x.ecDue && decide (bal ≤ 0) && !x.ecUsed && decide (0 < limit) && decide (-limit < bal)
  let x3 := if 0 < bal then { x2 with ec := false, ecUsed := false, ecDue := false }
    else if auto || asked then { x2 with ec := true, ecUsed := true, ecDue := false }
    else { x2 with ecDue := false }
  debtStep (setCreditState (setAccount s t x3) t (creditState s t x3)) t

/-- The accounts' work at a boundary. -/
def creditBoundary (s : State) : State :=
  (span 0 256).foldl (fun a t => if prepaid a t then creditTenant a t else a) s

/-- A commit of the credit object: a tenant made PREPAID records CHARGE_BASE, and CREDIT_IN starts at 0 (R290). -/
def creditCommit (s : State) : State :=
  (span 0 256).foldl (fun a t =>
    let x := account a t
    if prepaid a t ∧ !x.prepaid then
      setAccount a t { x with prepaid := true, creditIn := 0, due := 0, chargeBase := (bill a t).regs.charge, state := 0, ec := false,
                              ecUsed := false, debtSaid := none }
    else if !prepaid a t ∧ x.prepaid then setAccount a t { x with prepaid := false }
    else a) s

/-! ### Keypad entries (R279) -/

/-- Replace the entry. -/
def setKeypad (s : State) (k : Keypad) : State := { s with crd := { s.crd with keypad := { k with last := nowTick s } } }

/-- Abort the entry, with its tone (R279, R280). -/
def keypadAbort (s : State) : State := keyTone (setKeypad s {}) (if keypadLocked s then 2 else 1)

/-- The number that digits spell. -/
def digitsVal (l : List Nat) : Nat := l.foldl (fun a d => 10 * a + d) 0

/-- The tenant that an MP's tokens are for: its open session's, or tenant 0 (R279). -/
def keyTenant (s : State) (m : Nat) : Nat := mpTenant s m

/-- The # that ends the MP number: it is refused when no such MP is present (R279). -/
def keypadMp (s : State) (k : Keypad) (next : State → Nat → State) : State :=
  if k.mp.isEmpty then keypadAbort s
  else
    let m := digitsVal k.mp
    if keypadLocked s then next s m
    else if 255 < m ∨ mpAbsent s m then tokenEvent (keyTone (setKeypad s { phase := 4 }) 1) 0 m none stMpAbsent
    else next s m

/-- A complete token entry (R279, R280, R288). -/
def keypadToken (s : State) (k : Keypad) : State :=
  let s1 := setKeypad s {}
  if keypadLocked s1 then keyTone s1 2
  else
    let m := digitsVal k.mp
    let t := keyTenant s1 m
    let (r, s2) := if prepaid s1 t then runToken s1 t k.digits else ((stNotPrepaid, none), s1)
    let s3 := keyTone s2 (if r.1 = 0 then 0 else 1)
    let s4 := if r.1 = 0 ∨ r.1 = stNotPrepaid then s3 else keypadBad s3
    tokenEvent s4 t m (r.2.map tokId) r.1

/-- A complete emergency-credit entry (R279, R292). -/
def keypadEc (s : State) (m : Nat) : State :=
  let s1 := setKeypad s {}
  if keypadLocked s1 then keyTone s1 2
  else
    let t := keyTenant s1 m
    if (ecRefusal s1 t).isNone then keyTone (grantEc s1 t) 0 else keyTone s1 1

/-- KEYPAD_KEY (R278, R279): keys 0 to 9, then A, B, C, D, * and # as 10 to 15. -/
def execKeypadKey (key : Nat) (s : State) : Out :=
  .next (whenRunning s fun s0 =>
    let s := startLock s0
    let k := s.crd.keypad
    if key = 14 then setKeypad s {}
    else if k.phase = 0 ∨ k.phase = 4 then
      if key = 10 then setKeypad s { phase := 1 } else if key = 11 then setKeypad s { phase := 3 } else s
    else if key < 10 then
      if k.phase = 2 then (if k.digits.length < 20 then setKeypad s { k with digits := k.digits ++ [key] } else keypadAbort s)
      else if k.mp.length < 3 then setKeypad s { k with mp := k.mp ++ [key] }
      else keypadAbort s
    else if key = 15 then
      match k.phase with
      | 1 => keypadMp s k fun s _ => setKeypad s { k with phase := 2 }
      | 2 => if k.digits.length = 20 then keypadToken s k else keypadAbort s
      | _ => keypadMp s k fun s m => keypadEc s m
    else keypadAbort s)

/-- KEYPAD_ENTRY_TIMEOUT (R279): 30 s without a key. -/
def execKeypadEntryTimeout (s : State) : Out :=
  .next (whenRunning s fun s =>
    let k := s.crd.keypad
    if k.phase = 0 ∨ nowTick s < k.last + secs 30 then s
    else if k.phase = 4 then setKeypad s {}
    else keypadAbort s)

/-! ### Commands (R289, R292, R519) -/

/-- A function's rejected submissions within the last 600 s (R289). -/
def funcBad (s : State) (f : Nat) : List Nat := (tget [] s.crd.funcBad f).filter fun t => decide (nowTick s < t + secs 600)

/-- A rejected submission counts; the fifth locks the function out for LOCK_S (R289). -/
def funcReject (s : State) (f : Nat) : State :=
  let l := funcBad s f
  if l.length < 4 then { s with crd := { s.crd with funcBad := tput s.crd.funcBad f (l ++ [nowTick s]) } }
  else { s with crd := { s.crd with funcBad := tput s.crd.funcBad f [], funcLock := tput s.crd.funcLock f (nowTick s + secs (lockS s)) } }

/-- TOKEN_SUBMIT (R289, R519). -/
def execTokenSubmit (d : Desc) (t : Nat) (ascii : Bytes) (s : State) : Out :=
  .next (hostCmd s d 0x0601 false fun s =>
    checked s d [(d.tenant == 0 || t == d.tenant, stNotPermitted), (tenantDefined s t, stTenantUnknown), (prepaid s t, stNotPrepaid),
      (decide (tget 0 s.crd.funcLock d.tenant ≤ nowTick s), stTokenLocked)] fun s =>
      let ok := ascii.length == 20 && ascii.all fun b => decide (48 ≤ b.toNat ∧ b.toNat ≤ 57)
      let (r, s1) := if ok then runToken s t (ascii.map fun b => b.toNat - 48) else ((stTokenFormat, none), s)
      let s2 := tokenEvent (if r.1 = 0 then s1 else funcReject s1 d.tenant) 0 0xFFFF (r.2.map tokId) r.1
      match r with
      | (0, some p) => reply s2 d stOk (le 2 (tokId p) ++ le 1 (tokClass p) ++ le 1 (tokSub p) ++ zeros 4 ++ le 8 (tokCredit p))
      | _ => reply s2 d r.1 [])

/-- EC_GRANT (R292, R519). -/
def execEcGrant (d : Desc) (t : Nat) (s : State) : Out :=
  .next (hostCmd s d 0x0602 false fun s =>
    let e := ecRefusal s t
    checked s d [(d.tenant == 0 || t == d.tenant, stNotPermitted), (tenantDefined s t, stTenantUnknown), (e.isNone, e.getD 0)] fun s =>
      reply (grantEc s t) d stOk [])

/-- A credit account as read (Table CRD.8). -/
def accountBytes (s : State) (t : Nat) : Bytes :=
  let x := account s t
  let p := prepaid s t
  le 1 t ++ le 1 (if p then x.state else 0xFF) ++ le 1 (flag x.ec 0 + flag x.ecUsed 1 + flag x.rebuilt 2) ++ zeros 1 ++ le 5 x.cycle ++
    le 1 x.stat ++ le 2 x.floor ++ leInt 8 (x.balance / 4294967296) ++ leInt 8 x.creditIn ++ leInt 8 (x.chargeBase / 4294967296) ++
    leInt 8 (if p then debtOf s t x / 4294967296 else 0) ++ zeros 4

/-- CREDIT_READ (R519). -/
def execCreditRead (d : Desc) (t : Nat) (s : State) : Out :=
  .next (hostCmd s d 0x0606 true fun s =>
    checked s d [(d.tenant == 0 || t == d.tenant, stNotPermitted), (tenantDefined s t, stTenantUnknown)] fun s =>
      replyOut s d (accountBytes s t) [])

end Sys2Proof.Machine
end

