-- ==== Sys2Proof/Machine/Relays.lean ====
section
/-!
DEFINITION. Outlet switching: relay cues and their arms, the warned de-energise sequence, the disconnect policy and the
relay states (11_credit_relays.md; 02_cycle_clock.md, R54 to R58; 04_plynury_ring.md, R115 to R117).
-/
namespace Sys2Proof.Machine

/-! ### Relay records -/

/-- Replace the relay of an MP. -/
def setRelay (s : State) (m : Nat) (r : Relay) : State := { s with crd := { s.crd with relays := tput s.crd.relays m r } }

/-- The de-energise sequence of an MP. -/
def seqOf (s : State) (m : Nat) : Option RelSeq := (relay s m).seq

/-- Replace or end the sequence of an MP. -/
def setSeq (s : State) (m : Nat) (q : Option RelSeq) : State := setRelay s m { relay s m with seq := q }

/-- MPs that have relays (Table CRD.6). -/
def relayMps : List Nat := span 0 256

/-- Argument of a RELAY_SWITCH cue: the MP, and the command from bit 16 (log entry 21). -/
def relayArg (m cmd : Nat) : Nat := m + 65536 * cmd

/-- Operate delay of a command, µs: T_CLOSE as adapted, T_OPEN (R298, R299). -/
def tClose (s : State) (m : Nat) : Nat := (relay s m).tClose.getD (relayField s m 4 4)
def operateDelay (s : State) (m cmd : Nat) : Nat := if cmd = 1 then tClose s m else relayField s m 8 4

/-- Stamp units of a number of µs at the tracked frequency. -/
def usAngle (s : State) (us : Nat) : Nat := (2 * us * s.clk.freq + 1000000) / 2000000

/-- Coil instant of a switching stamp (R298). -/
def coilStamp (s : State) (m cmd : Nat) (switch : Stamp) : Stamp := switch - usAngle s (operateDelay s m cmd)

/-- Action frame and offset of a coil instant (R48, R54). -/
def armPlace (s : State) (coil : Stamp) : Nat × Nat := framePlace (stampFrames s coil)

/-! ### Relay states (R300, Table CRD.4) -/

/-- The fault states of Table CRD.4. -/
def relayFault (st : RelayState) : Bool := st == .faultWelded || st == .faultNoclose

/-- EV_RLY_STATE: MP, old and new state, cause, CLK, and WARN_FAILED (R295, R300). -/
def relayEvent (s : State) (m : Nat) (old new : RelayState) (cause : Nat) (warnFailed : Bool) : State :=
  raise s { id := 0x500, src := m, tenant := mpTenant s m, star := relayFault new,
            data := Config.eventData 0x500 [m, relayCode old, relayCode new, cause, clk s, flag warnFailed 0] }

/-- Move a relay to a state, with its event and its custody record (R300, R312). -/
def setRelayState (s : State) (m : Nat) (st : RelayState) (cause : Nat) (switch : Stamp) : State :=
  let r := relay s m
  if r.state = st then s
  else
    let s1 := setRelay s m { r with state := st, since := none }
    relayEvent (dueRelay s1 m (relayCode r.state) (relayCode st) cause switch) m r.state st cause (r.seq.elim false (·.warnFailed))

/-- The phases of an MP whose bus voltage on the head is at least 50 V RMS (R300). -/
def judgedPhases (s : State) (m : Nat) : List Nat :=
  (mpPhases s m).filter fun p => (rmsUv s (vChan m p)).elim false fun v => decide (50000000 ≤ v)

/-- AUX closed and load side present on every phase judged. -/
def contactClosed (s : State) (m : Nat) : Bool :=
  bit (relay s m).fb 1 && (judgedPhases s m).all fun p => bit (relay s m).fb (2 + p)

/-- AUX open and load side absent on every phase judged. -/
def contactOpen (s : State) (m : Nat) : Bool :=
  !bit (relay s m).fb 1 && (judgedPhases s m).all fun p => !bit (relay s m).fb (2 + p)

/-- The lasting condition that moves a relay state, with how many ticks it must last (Table CRD.4). -/
def persistOf (s : State) (m : Nat) : Option (RelayState × Nat) :=
  let coil := bit (relay s m).fb 0
  match (relay s m).state with
  | .opened => if !coil && !contactOpen s m then some (.faultWelded, 3277) else none
  | .closed => if coil && !contactClosed s m then some (.faultNoclose, 3277) else none
  | .faultWelded => if contactOpen s m && !coil then some (.opened, 32768) else none
  | .faultNoclose => if contactClosed s m && coil then some (.closed, 32768) else none
  | _ => none

/-- Judge the feedback that stands: a movement completes, or a lasting condition starts or ends (Table CRD.4). -/
def judgeRelay (s0 : State) (m : Nat) : State :=
  let r0 := relay s0 m
  let s := match r0.state with
    | .unknown => setRelayState s0 m (if bit r0.fb 1 then .closed else .opened) 3 0
    | .closing => if contactClosed s0 m then setRelayState s0 m .closed 3 0 else s0
    | .opening => if contactOpen s0 m then setRelayState s0 m .opened 3 0 else s0
    | _ => s0
  let r := relay s m
  match persistOf s m with
  | some _ => if r.since.isSome then s else setRelay s m { r with since := some (nowTick s) }
  | none => setRelay s m { r with since := none }

/-- A feedback byte of an ACTIVE head (R300). -/
def relayFeedback (s : State) (m fb : Nat) : State := judgeRelay (setRelay s m { relay s m with fb := fb }) m

/-- While the head of an MP is not ACTIVE the relay state is UNKNOWN (R301). -/
def relaysUnknown (s : State) : State :=
  s.crd.relays.foldl (fun a p =>
    if p.2.state != .unknown && (head a (p.1 / 4)).state != .active then setRelayState a p.1 .unknown 4 0 else a) s

/-- RELAY_LIMIT_EXPIRE (R300): a movement has passed its time limit. -/
def execRelayLimitExpire (m : Nat) (s : State) : Out :=
  .next (whenRunning s fun s =>
    let r := relay s m
    if nowTick s < r.limit then s
    else match r.state with
      | .closing => judgeRelay (setRelayState s m .faultNoclose 3 0) m
      | .opening => judgeRelay (setRelayState s m .faultWelded 3 0) m
      | _ => s)

/-- RELAY_FEEDBACK_PERSIST (R300): feedback has disagreed for 100 ms, or recovered for 1 s; a fault state entered from OPEN or
CLOSED counts as RELAY_UNCOMMANDED (Table EVT.5). -/
def execRelayFeedbackPersist (m : Nat) (s : State) : Out :=
  .next (whenRunning s fun s =>
    match persistOf s m, (relay s m).since with
    | some (st, ticks), some t =>
      if t + ticks ≤ nowTick s then
        let s1 := setRelayState s m st 3 0
        judgeRelay (if relayFault st && !relayFault (relay s m).state then tamper s1 m 7 else s1) m
      else s
    | _, _ => s)

/-! ### Arms (R54–R58, R115–R117) -/

/-- The frames among `l` that lie in the four frames from `a`. -/
def armFrames (l : List Nat) (a : Nat) : Nat := ((span a 4).filter fun f => l.contains f).length

/-- An arm sent in frame `f` keeps the limits: it is not past, its frame holds fewer than 4 arms, and of any 4 consecutive
frames at most 2 hold arms (R115). -/
def armFits (s : State) (others : List Arm) (f : Nat) : Bool :=
  let l := others.map (·.send)
  decide (nextFrame s < f ∧ (l.filter (· == f)).length < 4) && (span (f - 3) 4).all fun a => decide (armFrames (f :: l) a ≤ 2)

/-- Two relay cues on one MP within 2 cycles of each other. -/
def relayConflict (s : State) (m : Nat) (stamp : Stamp) : Bool :=
  s.clk.cues.any fun p => cuePending p.2 && p.2.kind == cueRelay && p.2.arg % 65536 == m &&
    decide (p.2.stamp ≤ stamp + 2 * angleBits ∧ stamp ≤ p.2.stamp + 2 * angleBits)

/-- Create a RELAY_SWITCH cue and reserve its arm's lane; with `search`, the first of the stamps one cycle apart whose arm
meets the limits (R54, R115). -/
def placeSwitch : Nat → State → Nat → Nat → Stamp → Nat → Bool → Except Nat (State × Nat × Stamp)
  | 0, _, _, _, _, _, _ => .error stCueConflict
  | n + 1, s, m, cmd, stamp, cause, search =>
    let coil := coilStamp s m cmd stamp
    let (act, off) := armPlace s coil
    if relayConflict s m stamp then .error stCueConflict
    else if !armFits s s.ply.arms (act - armLead s) then
      if search then placeSwitch n s m cmd (stamp + angleBits) cause search else .error stCueConflict
    else match cueRoom s 0 with
      | some st => .error st
      | none =>
        let (s1, i) := createCue s cueRelay stamp 0 (relayArg m cmd)
        let a : Arm := { id := s1.ply.armSeq, head := m / 4, send := act - armLead s, act := act, offset := off, mp := m, cmd := cmd,
                         cue := i, cause := cause, coil := coil, delay := operateDelay s m cmd, state := .reserved, cancel := 0,
                         cancelFrame := 0 }
        .ok ({ s1 with ply := { s1.ply with arms := s1.ply.arms ++ [a], armSeq := s1.ply.armSeq + 1 } }, i, stamp)

/-- The arm of a cue. -/
def armOf (s : State) (i : Nat) : Option Arm := s.ply.arms.find? fun a => a.cue == i && a.state != .ended

/-- Cancel a pending cue. -/
def cancelCue (s : State) (i : Nat) : State := if cuePending (cue s i) then setCue s i { cue s i with state := .cancelled } else s

/-- EV_CANCEL_LATE with the outcome: 1 ACTED, 2 NOT_ACTED (R57, R58). -/
def cancelLate (s : State) (a : Arm) (outcome : Nat) : State :=
  raise s { id := 0x501, src := a.mp, tenant := mpTenant s a.mp,
            data := Config.eventData 0x501 [a.mp, a.id, outcome, relayCode (relay s a.mp).state] }

/-- Cancel a switching: before its arm is sent the lane is given back; afterwards a CANCEL goes out, or nothing once the
action frame has come (R56–R58). -/
def cancelSwitch (s : State) (i : Nat) : State :=
  match armOf s i with
  | none => cancelCue s i
  | some a =>
    if a.state = .reserved then cancelCue { s with ply := { s.ply with arms := s.ply.arms.erase a } } i
    else if a.act ≤ s.ply.frame then (if a.cancel = 0 then cancelLate s a 1 else s)
    else if a.cancel = 0 then sendShort (setArm s { a with cancel := 1 }) a.head 2 (le 4 a.id)
    else s

/-- Reserved arms take the projection from the latest boundary, until they are sent (R48, R54). -/
def reprojectArms (s : State) : State :=
  s.ply.arms.foldl (fun st a =>
    if a.state = .reserved then
      let (act, off) := armPlace st a.coil
      if armFits st (st.ply.arms.erase a) (act - armLead st) then setArm st { a with act := act, offset := off, send := act - armLead st }
      else st
    else st) s

/-! ### The warned sequence (R295–R297) -/

/-- The first stamp at an angle whose projected tick lies at or after `t`, counting cycles from `n`. -/
def stampFrom (s : State) (angle t : Nat) : Nat → Nat → Stamp
  | 0, n => mkStamp n angle
  | k + 1, n => if t ≤ stampTicks s (mkStamp n angle) then mkStamp n angle else stampFrom s angle t k (n + 1)

/-- 60 s in ticks (R295). -/
def warnTicks : Nat := 1966080

/-- Argument of the warning's ANN_START cue: the WARN clip on TONECH, looped (Table ANN.5). -/
def warnArg (s : State) : Nat := warnClip s % 64 + 256 * toneCh s + 512

/-- Steps 1 to 3 of the sequence (R295): W, the switching stamp, and the two cues; the new state and the RELAY_SWITCH cue. -/
def startOpen (s : State) (m : Nat) (operator credit : Bool) (asked : Stamp) : Except Nat (State × Nat × Stamp) :=
  let w := boundaryAfter s 1
  let t := stampTicks s w + warnTicks
  let first := stampFrom s (relayField s m 2 2) t 8 (Stamp.cycle w + warnTicks * s.clk.freq / 2147483648 - 2)
  let own := decide (asked ≤ first)
  match placeSwitch 64 s m 2 (if own then first else asked) (if operator then 1 else 0) own with
  | .error st => .error st
  | .ok (s1, i, stamp) =>
    match cueRoom s1 0 with
    | some st => .error st
    | none =>
      let (s2, j) := createCue s1 cueAnn w 0 (warnArg s)
      .ok (setSeq s2 m (some ⟨operator, credit, .cued, w, stamp, j, i, false, asked⟩), i, stamp)

/-- End a sequence: its warning stops with the code of Table ANN.6, and its cues are withdrawn. -/
def dropSeq (s : State) (m : Nat) (q : RelSeq) : State :=
  cancelSwitch (cancelCue (stopWarning (setSeq s m none) m 4) q.annCue) q.cue

/-- Abandon the credit side of a sequence; an operator's part goes on (R296). -/
def abandonCredit (s : State) (m : Nat) : State :=
  match seqOf s m with
  | none => s
  | some q => if !q.credit then s else if q.operator then setSeq s m (some { q with credit := false }) else dropSeq s m q

/-- EV_CRD_NO_WARN, and the sequence waits for the annunciator (R295); an operator's proceeds with WARN_FAILED. -/
def warnFailed (s : State) (m : Nat) : State :=
  match seqOf s m with
  | none => s
  | some q =>
    if q.operator then setSeq s m (some { q with warnFailed := true, phase := .cued })
    else
      let s1 := cancelSwitch (cancelCue (setSeq s m (some { q with phase := .held })) q.annCue) q.cue
      mpEvent s1 0x48A m []

/-- Held sequences start again at step 1 once the annunciator is available (R295). -/
def resumeHeld (s : State) : State :=
  if !annAvailable s (toneCh s) || s.clk.cycle.isNone || clipLen s (warnClip s) == 0 then s
  else s.crd.relays.foldl (fun a p =>
    match seqOf a p.1 with
    | some q =>
      if q.phase = .held then
        match startOpen a p.1 q.operator q.credit q.asked with
        | .ok (b, _, _) => b
        | .error _ => setSeq a p.1 none
      else a
    | none => a) s

/-- A channel that is no longer available ends its plays as ABORTED, and the warnings among them count as refused at W
(R451). -/
def abortChannel (s : State) (c : Nat) : State :=
  if annAvailable s c then s else (warned s c).foldl warnFailed (abortPlays s c)

/-- The switching stamp has come: the sequence is done and its warning ends (R448). -/
def finishSeq (s : State) (m : Nat) : State := stopWarning (setSeq s m none) m 3

/-- WARN_PLAY_END (R448). -/
def execWarnPlayEnd (m : Nat) (s : State) : Out :=
  .next (whenRunning s fun s =>
    match seqOf s m with
    | some q => if q.phase ≠ .held ∧ q.switch ≤ nowStamp s ∧ s.clk.cycle.isSome then finishSeq s m else s
    | none => s)

/-- Schedule a close at the first CLOSE_ANGLE that meets the lead (R298). -/
def startClose (s : State) (m cause : Nat) : Except Nat (State × Nat × Stamp) :=
  let angle := relayField s m 0 2
  let least := nowStamp s + cueLead s cueRelay
  placeSwitch 64 s m 1 (mkStamp ((least + (angleBits - 1) - angle) / angleBits) angle) cause true

/-! ### The arm frame and the coil instant (R54, R295, R300, R301) -/

/-- A tenant is EXHAUSTED (R291). -/
def exhausted (s : State) (t : Nat) : Bool := prepaid s t && (account s t).state == 3

/-- A relay cue whose arm frame has come (R54): the last credit check (R295), a head that is not ACTIVE (R301), else the arm
goes out in this frame and the cue is ARMED. -/
def armDue (s : State) (a : Arm) : State :=
  let stale := match seqOf s a.mp with
    | some q => q.cue == a.cue && q.credit && !q.operator && !exhausted s (mpTenant s a.mp)
    | none => false
  if stale then abandonCredit s a.mp
  else if (head s a.head).state ≠ .active then
    let s1 := cancelCue { s with ply := { s.ply with arms := s.ply.arms.erase a } } a.cue
    let s2 := match seqOf s1 a.mp with
      | some q => if q.cue = a.cue then dropSeq s1 a.mp q else s1
      | none => s1
    relayEvent s2 a.mp (relay s2 a.mp).state (relay s2 a.mp).state 4 false
  else if cuePending (cue s a.cue) then setCue s a.cue { cue s a.cue with state := .armed }
  else s

/-- The coil instant of an arm that the head has accepted or reported ACTED (Table CRD.4). -/
def coilInstant (s : State) (a : Arm) : State :=
  let s1 := { s with ply := { s.ply with arms := s.ply.arms.erase a } }
  let r := relay s1 a.mp
  let from_ := relayFault r.state || (if a.cmd = 1 then r.state == .opened else r.state == .closed)
  let s2 := setRelay s1 a.mp { r with
    limit := nowTick s + (a.delay * 32768 + 999999) / 1000000 + 3277,
    coil := if a.cmd = 1 then some a.coil else none, byCredit := a.cmd == 2 && a.cause == 0 }
  if from_ then setRelayState s2 a.mp (if a.cmd = 1 then .closing else .opening) a.cause (cue s a.cue).stamp else s2

/-- The head still holds an arm: it is ACTIVE in the session in which the arm was sent (R59). -/
def armHeld (s : State) (a : Arm) : Bool :=
  (head s a.head).state == .active && (head s a.head).session.elim false fun st => decide (st ≤ a.send)

/-- The arms that fall due to be sent in frame `f` (R54); none goes out while the service cores are down (R118). -/
def armsDue (s : State) (f : Nat) : State :=
  if s.pwr.serviceDown then s else (s.ply.arms.filter fun a => a.state == .reserved && a.send == f).foldl armDue s

/-- The arms that act in frame `f` (R117, R300). -/
def armsAct (s : State) (f : Nat) : State :=
  (s.ply.arms.filter fun a => a.act == f).foldl (fun st a =>
    if !armHeld st a then st
    else match a.state with
      | .sent => plyEvent st 0x18C a.head [a.mp, a.id]
      | .accepted => if a.cancel = 2 then st else coilInstant st a
      | _ => st) s

/-- The arms' work at the start of frame `f`. -/
def armsAt (s : State) (f : Nat) : State := armsAct (armsDue s f) f

/-- RELAY_SWITCH (R51, R52, R54): a relay cue at its arm frame is armed; at its stamp it is done. -/
def execRelaySwitch (i : Nat) (s : State) : Out :=
  .next (whenRunning s fun s =>
    if cueDue s i cueRelay then
      let m := (cue s i).arg % 65536
      let late := decide ((cue s i).state = .pending)
      let s1 := finishCue s i late
      match seqOf s1 m with
      | some q => if q.cue = i then finishSeq s1 m else s1
      | none => s1
    else match armOf s i with
      | some a => if (cue s i).kind = cueRelay ∧ a.state = .reserved ∧ a.send = nextFrame s then armDue s a else s
      | none => s)

/-- Arms that could not go out during a SERVICE reset are placed again at the first frame that fits, and their cues are
late (R52, R53). -/
def replaceArms (s : State) : State :=
  s.ply.arms.foldl (fun st a =>
    if a.state = .reserved ∧ a.send < nextFrame st then
      let base := nextFrame st + 1
      let send := ((span base 16).find? fun f => armFits st (st.ply.arms.erase a) f).getD base
      let s1 := setArm st { a with send := send, act := send + armLead st }
      finishCue s1 a.cue true
    else st) s

/-! ### Replies of the heads (R57, R59, R117) -/

/-- An arm of a head by its ARM_ID. -/
def armById (s : State) (p id : Nat) : Option Arm := s.ply.arms.find? fun a => a.head == p && a.id % 2 ^ 32 == id && a.state != .reserved

/-- An arm that will not act: its cue is cancelled and its sequence ends. -/
def armGone (s : State) (a : Arm) : State :=
  let s1 := cancelCue { s with ply := { s.ply with arms := s.ply.arms.erase a } } a.cue
  match seqOf s1 a.mp with
  | some q => if q.cue = a.cue ∧ q.phase ≠ .held then stopWarning (setSeq s1 a.mp none) a.mp 4 else s1
  | none => s1

/-- Feedback that a reply carries. -/
def replyFeedback (s : State) (p m fb : Nat) : State := if (head s p).state = .active then relayFeedback s m fb else s

/-- One ARM_ACK entry (Table PLY.9). -/
def ackEntry (s : State) (p : Nat) (e : Bytes) : State :=
  match armById s p (fld e 0 4) with
  | none => s
  | some a =>
    let s1 := if fld e 4 1 ≠ 0 then armGone s a
      else if a.state ≠ .sent then s
      else if a.act ≤ s.ply.frame then (if a.cancel = 2 then setArm s { a with state := .accepted } else coilInstant s a)
      else setArm s { a with state := .accepted }
    replyFeedback s1 p a.mp (fld e 5 1)

/-- ARM_ACK (R117). -/
def execArmAck (pos : Nat) (box : Bytes) (s : State) : Out :=
  .next (whenRunning s fun s => upstream s pos 0x85 box fun s m =>
    (span 0 (min 7 (m.length / 12))).foldl (fun a n => ackEntry a pos (slice m (12 * n) 12)) s)

/-- One ARM_RESULT entry: 0 CANCELLED, 1 ACTED, 2 NOT_ACTED, 3 ARM_DISCARDED (R56, R57, R59). -/
def resultEntry (s : State) (p : Nat) (e : Bytes) : State :=
  let code := fld e 4 1
  match armById s p (fld e 0 4) with
  | none => if code = 3 then plyEvent s 0x203 p [fld e 0 4, code, fld e 6 4] else s
  | some a =>
    let s1 := match code with
      | 0 => armGone s a
      | 1 => if a.cancel = 0 then coilInstant s a else cancelLate (coilInstant s a) a 1
      | 2 => if a.cancel = 0 then armGone s a else cancelLate (armGone s a) a 2
      | _ => plyEvent (armGone s a) 0x203 p [a.mp, fld e 0 4, code, fld e 6 4]
    replyFeedback s1 p a.mp (fld e 5 1)

/-- ARM_RESULT (R56, R57, R59). -/
def execArmResult (pos : Nat) (box : Bytes) (s : State) : Out :=
  .next (whenRunning s fun s => upstream s pos 0x86 box fun s m =>
    (span 0 (min 7 (m.length / 12))).foldl (fun a n => resultEntry a pos (slice m (12 * n) 12)) s)

/-! ### The disconnect policy (R294, R296, R297, R301) -/

/-- The outlet may be live: a credit decision has something to switch off. -/
def energised (st : RelayState) : Bool := st == .closed || st == .closing || st == .faultNoclose

/-- A sequence of an MP takes in a further decision, or a new one starts when the outlet is energised (R294, R301). -/
def creditOpen (s : State) (m : Nat) : State :=
  match seqOf s m with
  | some q => setSeq s m (some { q with credit := true })
  | none =>
    if energised (relay s m).state ∧ s.clk.cycle.isSome then
      match startOpen s m false true 0 with
      | .ok (s1, _, _) => s1
      | .error _ => s
    else s

/-- The policy for one open session of an EXHAUSTED tenant (R294, R297). -/
def policySession (s : State) (id : Nat) (x : Session) : State :=
  if x.overridden then s
  else if x.nonPerishable || x.consent then creditOpen s x.mp
  else if x.protectedSaid then s
  else mpEvent (setSession s id { x with protectedSaid := true }) 0x488 x.mp [id]

/-- A session whose tenant is not EXHAUSTED, or that has closed: its credit sequence is abandoned and the episode's marks
end (R296, R297). -/
def leaveSession (s : State) (id : Nat) (x : Session) : State :=
  let s1 := abandonCredit s x.mp
  if x.overridden ∨ x.protectedSaid then setSession s1 id { x with overridden := false, protectedSaid := false } else s1

/-- RECONNECT_AUTO (R296): an MP opened by credit closes again when credit has returned. -/
def reconnect (s : State) (m : Nat) : State :=
  let r := relay s m
  if !r.byCredit || r.state != .opened || r.seq.isSome then s
  else match openSession s m with
    | none => setRelay s m { r with byCredit := false }
    | some (_, x) =>
      if exhausted s x.tenant ∨ !bit (creditField s x.tenant 1 1) 1 then s
      else match startClose s m 0 with
        | .ok (s1, _, _) => setRelay s1 m { relay s1 m with byCredit := false }
        | .error _ => s

/-- The policy's work at a boundary, after the accounts' (R294, R296, R301). -/
def relayBoundary (s : State) : State :=
  let s1 := (sessions s).foldl (fun a p =>
    match sessionById a p.1 with
    | some x =>
      if !x.isOpen then a
      else if exhausted a x.tenant then policySession a p.1 x else leaveSession a p.1 x
    | none => a) (resumeHeld s)
  let s2 := s1.crd.relays.foldl (fun a p =>
    match seqOf a p.1, openSession a p.1 with
    | some q, none => if q.credit then abandonCredit a p.1 else a
    | _, _ => a) s1
  s2.crd.relays.foldl (fun a p => reconnect a p.1) s2

/-! ### Adaptation of T_CLOSE (R299) -/

/-- The first released output after the coil instant, on any phase, whose current magnitude exceeds 4 × START_I. -/
def inrush (s : State) (m : Nat) (coil : Stamp) : Option Stamp :=
  let done := fun (o : OutSample) => (mpOf s m).front.elim false fun f => decide (o.cycle < f.1 ∨ o.cycle = f.1 ∧ o.k < f.2)
  let hits := (mpPhases s m).flatMap fun p =>
    ((chan s (iChan s m p)).outs.filter fun o => done o && decide (coil < mkStamp o.cycle (512 * o.k)) &&
      decide (4000 * (mpField s m 48 4 : Rat) < max (calibrated s (iChan s m p) o.val) (-calibrated s (iChan s m p) o.val))).map fun o => mkStamp o.cycle (512 * o.k)
  match hits with
  | [] => none
  | h :: r => some (r.foldl min h)

/-- T_CLOSE moves by one eighth of the error, at most 2 ms, when the inrush lies within 5 ms of it (R299). -/
def adaptClose (s : State) (m : Nat) : State :=
  match (relay s m).coil with
  | none => s
  | some coil =>
    if !bit (relayField s m 12 1) 0 then setRelay s m { relay s m with coil := none }
    else match inrush s m coil with
      | some st =>
        let us : Int := ((st - coil) * 1000000 / max 1 s.clk.freq : Nat)
        let err := us - (tClose s m : Nat)
        let s1 := setRelay s m { relay s m with coil := none }
        if err < -5000 ∨ 5000 < err then s1
        else
          let t := ((tClose s m : Nat) : Int) + max (-2000) (min 2000 (roundDiv err 8))
          mpEvent (setRelay s1 m { relay s1 m with tClose := some t.toNat }) 0x502 m [(tClose s m : Nat), t]
      | none =>
        let done := (mpOf s m).front.elim false fun f => decide (coil + usAngle s (tClose s m + 5000) < mkStamp f.1 (512 * f.2))
        if done then setRelay s m { relay s m with coil := none } else s

/-- A commit of the relay object sets T_CLOSE anew where it changes it. -/
def relayCommit (old new : State) : State :=
  new.crd.relays.foldl (fun a p =>
    if relayField old p.1 4 4 = relayField new p.1 4 4 then a else setRelay a p.1 { relay a p.1 with tClose := none }) new

/-! ### Commands (R294, R296, R297, R519, R520) -/

/-- A session that is open, by ID. -/
def liveSession (s : State) (id : Nat) : Option Session := (sessionById s id).bind fun x => if x.isOpen then some x else none

/-- CONSENT_DISCONNECT (R294). -/
def execConsentDisconnect (d : Desc) (id : Nat) (s : State) : Out :=
  .next (hostCmd s d 0x0603 false fun s =>
    checked s d [by0 d, ((liveSession s id).isSome, stNotFound)] fun s =>
      match liveSession s id with
      | some x =>
        let s1 := setSession s id { x with consent := true }
        reply (if exhausted s x.tenant then policySession s1 id { x with consent := true } else s1) d stOk []
      | none => s)

/-- CONSENT_REVOKE (R294, R296). -/
def execConsentRevoke (d : Desc) (id : Nat) (s : State) : Out :=
  .next (hostCmd s d 0x0604 false fun s =>
    checked s d [by0 d, ((liveSession s id).isSome, stNotFound)] fun s =>
      match liveSession s id with
      | some x =>
        let s1 := setSession s id { x with consent := false }
        reply (if x.nonPerishable then s1 else abandonCredit s1 x.mp) d stOk []
      | none => s)

/-- RESULT of RELAY_SET: the switching stamp and the RELAY_SWITCH cue. -/
def switchResult (stamp : Stamp) (i : Nat) : Bytes := le 7 stamp ++ le 2 i

/-- A RELAY_SET CLOSE (R297, R298): on an EXHAUSTED tenant's MP it abandons the credit sequence and sets OVERRIDE. -/
def relayClose (s : State) (d : Desc) (m : Nat) (stamp : Stamp) : State :=
  let r := if stamp = 0 then startClose s m 1 else placeSwitch 1 s m 1 stamp 1 false
  match r with
  | .error st => reply s d st []
  | .ok (s1, i, sw) =>
    let s2 := match openSession s1 m with
      | some (id, x) =>
        if exhausted s1 x.tenant then
          let s2 := abandonCredit s1 m
          setSession s2 id { x with overridden := true }
        else s1
      | none => s1
    reply s2 d stOk (switchResult sw i)

/-- A RELAY_SET OPEN (R295, R520): a sequence that runs keeps its earlier stamp; a held one starts again for the operator. -/
def relayOpen (s : State) (d : Desc) (m : Nat) (stamp : Stamp) : State :=
  match seqOf s m with
  | some q =>
    if q.phase ≠ .held then
      let s1 := setSeq s m (some { q with operator := true })
      reply s1 d stOk (switchResult q.switch q.cue)
    else match startOpen s m true q.credit stamp with
      | .error st => reply s d st []
      | .ok (s1, i, sw) => reply s1 d stOk (switchResult sw i)
  | none =>
    match startOpen s m true false stamp with
    | .error st => reply s d st []
    | .ok (s1, i, sw) => reply s1 d stOk (switchResult sw i)

/-- RELAY_SET (R520). -/
def execRelaySet (d : Desc) (m cmd : Nat) (stamp : Stamp) (s : State) : Out :=
  .next (hostCmd s d 0x0701 false fun s =>
    let c := if stamp = 0 then none else cueCheck s cueRelay stamp
    checked s d [by0 d, (decide (m < 256 ∧ (cmd = 1 ∨ cmd = 2)), stBadArg), (!mpAbsent s m, stMpAbsent),
      (c.isNone, c.getD 0)] fun s =>
      if cmd = 1 then relayClose s d m stamp else relayOpen s d m stamp)

/-- The warning of an MP sounds now. -/
def warnSounds (s : State) (m : Nat) : Bool :=
  [0, 1].any fun c => match (annChan s c).stack with
    | y :: _ => y.started && y.held.isNone && y.owners.any fun o => o.src == 2 + m
    | [] => false

/-- The pending switching stamp of an MP, or 0. -/
def pendingSwitch (s : State) (m : Nat) : Stamp :=
  let l := (s.clk.cues.filter fun p => cuePending p.2 && p.2.kind == cueRelay && p.2.arg % 65536 == m).map (·.2.stamp)
  l.foldl min (l.headD 0)

/-- A relay status entry (Table CMD.19). -/
def relayEntry (s : State) (m : Nat) : Bytes :=
  let x := openSession s m
  le 2 m ++ le 1 (relayCode (relay s m).state) ++ le 1 (relay s m).fb ++
    le 1 (flag (seqOf s m).isSome 0 + flag (warnSounds s m) 1 + flag (x.elim false (·.2.overridden)) 2 + flag (x.elim false (·.2.consent)) 3) ++
    zeros 3 ++ le 7 (pendingSwitch s m) ++ zeros 1 ++ le 4 (tClose s m) ++ zeros 4

/-- RELAY_READ (R520): tenant 0, or a tenant for the MPs of its own open sessions. -/
def execRelayRead (d : Desc) (m count : Nat) (s : State) : Out :=
  .next (hostCmd s d 0x0702 true fun s =>
    checked s d [(d.tenant == 0 || ((span m (min count 256)).all fun k => mpOfTenant s k d.tenant), stNotPermitted),
      (decide (1 ≤ count ∧ m + count ≤ 256), stBadArg)] fun s =>
      replyOut s d ((span m count).flatMap (relayEntry s)) [])

end Sys2Proof.Machine
end

