-- ==== Sys2Proof/Machine/AnnCommands.lean ====
section
/-!
DEFINITION. The annunciator's commands: plays and tones, the channel states of Table ANN.1, protection, MUTE, the power die
and PCM (17_annunciator.md).
-/
namespace Sys2Proof.Machine

/-- Both channels. -/
def bothChans (s : State) (f : State → Nat → State) : State := f (f s 0) 1

/-- A channel that has come back to OFF: what still holds takes it on at once, else its sources start it, and a held sequence
may go on (Table ANN.1, R295). -/
def annOff (s : State) (c cause : Nat) : State :=
  let s1 := setAnnState s c .off cause
  let s2 := if 3 ≤ s1.ann.band then setAnnState s1 c .thermal 4
    else if !s1.ann.vspkGood then setAnnState s1 c .uvlo 5
    else if !s1.ann.linkGood then setAnnState s1 c .linkLost 6
    else annStart s1 c
  resumeHeld s2

/-- Take a channel out of service into a state: its plays end as ABORTED (R451). -/
def annOut (s : State) (c : Nat) (st : AnnState) (cause : Nat) : State := abortChannel (setAnnState s c st cause) c

/-- Every channel but a LATCHED one goes to a state (Table ANN.1). -/
def annAllOut (s : State) (st : AnnState) (cause : Nat) : State :=
  bothChans s fun a c => if (annChan a c).state = .latched then a else annOut a c st cause

/-- Channels in a state return to OFF. -/
def annBack (s : State) (st : AnnState) (cause : Nat) : State :=
  bothChans s fun a c => if (annChan a c).state = st then annOff a c cause else a

/-! ### Cue, plays and tones (R447) -/

/-- Fields of a cue argument (Table ANN.5). -/
def argClip (a : Nat) : Nat := a % 64
def argChan (a : Nat) : Nat := a / 256 % 2
def argLoop (a : Nat) : Bool := bit a 9
def argTag (a : Nat) : Nat := a / 65536 % 65536

/-- The MP whose warning a cue starts (R295). -/
def warnOfCue (s : State) (i : Nat) : Option Nat :=
  ((s.crd.relays.find? fun p => p.2.seq.elim false fun q => q.phase == .cued && q.annCue == i)).map (·.1)

/-- W of a sequence (R295): the WARN clip plays as an ALARM clip with EV_CRD_WARN, or the annunciator's refusal counts. -/
def warnStart (s : State) (m arg : Nat) : State :=
  let c := argChan arg
  match seqOf s m with
  | none => s
  | some q =>
    if (playRefusal s c (argClip arg)).isSome then warnFailed s m
    else
      let s1 := playClip (setSeq s m (some { q with phase := .warning })) c (argClip arg) true ⟨2 + m, argTag arg, true⟩
      mpEvent s1 0x489 m [q.warnAt, q.switch]

/-- ANN_START (R447): a due cue starts its play; a play that is refused does not sound. -/
def execAnnStart (i : Nat) (s : State) : Out :=
  .next (whenRunning s fun s =>
    if cueDue s i cueAnn then
      let arg := (cue s i).arg
      let late := decide (cueInstant (cue s i).stamp < mkStamp (nowCycle s) 0)
      let w := warnOfCue s i
      let s1 := finishCue s i late
      match w with
      | some m => warnStart s1 m arg
      | none =>
        if (playRefusal s1 (argChan arg) (argClip arg)).isSome then s1
        else playClip s1 (argChan arg) (argClip arg) (clipAlarm s1 (argClip arg)) ⟨1, argTag arg, argLoop arg⟩
    else s)

/-- ANN_PLAY (R447, R525); reserved bits of the argument are ignored (R9). -/
def execAnnPlay (d : Desc) (arg : Nat) (s : State) : Out :=
  .next (hostCmd s d 0x0C01 false fun s =>
    let r := playRefusal s (argChan arg) (argClip arg)
    checked s d [by0 d, (r.isNone, r.getD 0)] fun s =>
      reply (playClip s (argChan arg) (argClip arg) (clipAlarm s (argClip arg)) ⟨0, argTag arg, argLoop arg⟩) d stOk [])

/-- ANN_STOP (R447): the plays that tenant 0 started end as STOPPED. -/
def execAnnStop (d : Desc) (c clip : Nat) (s : State) : Out :=
  .next (hostCmd s d 0x0C02 false fun s =>
    checked s d [by0 d, (decide (c < 2 ∧ (clip < 64 ∨ clip = 255)), stBadArg)] fun s =>
      let gone := fun k (o : PlayOwner) => (clip == 255 || k == clip) && decide (o.src < 2)
      let n := nsum ((annChan s c).stack.map fun y => (y.owners.filter (gone y.clip)).length)
      reply (endPlays s c 4 gone) d stOk (le 1 n))

/-- Set or stop a tone generator; a generator sounds on one channel at a time. -/
def setTone (s : State) (g c : Nat) (t : Option Tone) : State :=
  let s1 := bothChans s fun a k =>
    if (tfind (annChan a k).tones g).isSome then annIdle (setAnnChan a k { annChan a k with tones := tdel (annChan a k).tones g }) k else a
  match t with
  | none => s1
  | some t => annStart (setAnnChan s1 c { annChan s1 c with tones := tput (annChan s1 c).tones g t }) c

/-- ANN_TONE (R447, R525): ATT 0xFF stops the generator; DUR 0 sounds until it is stopped. -/
def execAnnTone (d : Desc) (g c freq att dur : Nat) (s : State) : Out :=
  .next (hostCmd s d 0x0C03 false fun s =>
    checked s d [(d.tenant == 0 && g != 3, stNotPermitted), (decide (g < 3 ∧ c < 2 ∧ (att = 255 ∨ 20 ≤ freq ∧ freq ≤ 20000)), stBadArg),
      (att == 255 || annAvailable s c, stAnnUnavailable)] fun s =>
      let t : Tone := { freq := freq, att := att, till := if dur = 0 then none else some (soundFrom s c + msTicks dur) }
      reply (setTone s g c (if att = 255 then none else some t)) d stOk [])

/-- ANN_RESET (R525, Table ANN.1): a LATCHED channel returns to OFF. -/
def execAnnReset (d : Desc) (c : Nat) (s : State) : Out :=
  .next (hostCmd s d 0x0C04 false fun s =>
    checked s d [by0 d, (decide (c < 2), stBadArg)] fun s =>
      let s1 := if (annChan s c).state = .latched then annOff (setAnnChan s c { annChan s c with retries := 8 }) c 7 else s
      reply s1 d stOk (le 1 (annCode (annChan s1 c).state)))

/-- CLIP_END (R446): a pass ends; its loop owners start it again with the data in force, the others are COMPLETED. -/
def execClipEnd (c : Nat) (s : State) : Out :=
  .next (whenRunning s fun s =>
    match (annChan s c).stack with
    | y :: _ =>
      if !y.started || y.held.isSome || decide (nowTick s < y.since + clipTicks y.len) then s
      else
        let again := clipLen s y.clip != 0
        let s1 := endPlays s c 3 (fun k o => k == y.clip && !(o.loop && again))
        match (annChan s1 c).stack with
        | z :: rest =>
          if z.clip = y.clip then
            setAnnChan s1 c { annChan s1 c with stack := { z with since := y.since + clipTicks y.len, len := clipLen s z.clip } :: rest }
          else s1
        | [] => s1
    | [] => s)

/-- TONE_END (R447): a generator's duration or pattern has passed. -/
def execToneEnd (g : Nat) (s : State) : Out :=
  .next (whenRunning s fun s => bothChans s fun a c =>
    match tfind (annChan a c).tones g with
    | some t => if t.till.elim false fun e => decide (e ≤ nowTick a) then
        annIdle (setAnnChan a c { annChan a c with tones := tdel (annChan a c).tones g }) c else a
    | none => a)

/-! ### Start, stop and protection (R439–R443) -/

/-- STARTING_COMPLETE (R440): 23 ms after STARTING began. -/
def execStartingComplete (c : Nat) (s : State) : Out :=
  .next (whenRunning s fun s =>
    if (annChan s c).state = .starting ∧ (annChan s c).since + msTicks 23 ≤ nowTick s then setAnnState s c .run 1 else s)

/-- STOPPING_COMPLETE (R441): the 20 ms ramp and 1 ms at 0 are over. -/
def execStoppingComplete (c : Nat) (s : State) : Out :=
  .next (whenRunning s fun s =>
    if (annChan s c).state = .stopping ∧ (annChan s c).since + msTicks 21 ≤ nowTick s then
      let s1 := setAnnChan s c { annChan s c with toMuted := false }
      if (annChan s c).toMuted ∧ s.ann.mute then setAnnState s1 c .muted 3 else annOff s1 c 2
    else s)

/-- IDLE_TIMEOUT (R439): IDLE_S seconds in RUN without a source. -/
def execIdleTimeout (c : Nat) (s : State) : Out :=
  .next (whenRunning s fun s =>
    if (annChan s c).state = .run ∧ !annSource s c ∧ max (annChan s c).idle (annChan s c).since + secs (annField s 2 2) ≤ nowTick s then
      setAnnState s c .stopping 2
    else s)

/-- A shutdown (R442): a retry is consumed, or the channel latches with EV_ANN_LATCH; `what` is 0 current, 1 loop. -/
def annShut (s : State) (c what : Nat) (event : Nat → Bytes) : State :=
  let x := annChan s c
  if x.state ≠ .run ∧ x.state ≠ .starting then s
  else
    let left := x.retries - 1
    let s1 := raise (setAnnChan s c { x with retries := left }) { id := if what = 0 then 0x7F2 else 0x7F6, data := event left }
    if x.retries = 0 then raise (annOut s1 c .latched 9) { id := 0x7F3, data := le 1 c ++ le 1 what }
    else annOut s1 c .retry 8

/-- OVER_CURRENT_SHUTDOWN (R442). -/
def execOverCurrentShutdown (c half : Nat) (s : State) : Out :=
  .next (whenRunning s fun s => annShut s c 0 fun left => le 1 c ++ le 1 half ++ le 1 left)

/-- LOOP_FAULT_SHUTDOWN (R442). -/
def execLoopFaultShutdown (c : Nat) (s : State) : Out :=
  .next (whenRunning s fun s => annShut s c 1 fun left => le 1 c ++ le 1 left)

/-- RETRY_EXPIRE (R439): 200 ms in RETRY. -/
def execRetryExpire (c : Nat) (s : State) : Out :=
  .next (whenRunning s fun s =>
    if (annChan s c).state = .retry ∧ (annChan s c).since + msTicks 200 ≤ nowTick s then resumeHeld (setAnnState s c .starting 10) else s)

/-- RETRY_RESTORE (R442): 60 s in RUN without a shutdown. -/
def execRetryRestore (c : Nat) (s : State) : Out :=
  .next (whenRunning s fun s =>
    if (annChan s c).state = .run ∧ (annChan s c).clean + secs 60 ≤ nowTick s then setAnnChan s c { annChan s c with retries := 8 } else s)

/-- EV_ANN_THERMAL (R443): 0 WARN, 1 SHUTDOWN, 2 RESUME. -/
def thermalEvent (s : State) (what : Nat) : State :=
  raise s { id := 0x7F4, star := what == 1, data := le 1 what ++ le 1 s.ann.band }

/-- POWER_DIE_TEMP_BAND (R443): 0 below 140 °C, 1 from 140, 2 from 150, 3 from 165. -/
def execPowerDieTempBand (band : Nat) (s : State) : Out :=
  .next (whenRunning s fun s =>
    let s0 := { s with ann := { s.ann with band := band } }
    let s1 := if 2 ≤ band ∧ !s.ann.reduced then thermalEvent { s0 with ann := { s0.ann with reduced := true } } 0 else s0
    let hot := fun (a : State) c => (annChan a c).state == .thermal
    if 3 ≤ band then
      if s.ann.band < 3 then annAllOut (thermalEvent s1 1) .thermal 4 else s1
    else if band = 0 then
      let s2 := { s1 with ann := { s1.ann with reduced := false } }
      if hot s2 0 || hot s2 1 then annBack (thermalEvent s2 2) .thermal 4 else s2
    else s1)

/-- VSPK_UVLO (R439): VSPK below 7.2 V, with its value in mV. -/
def execVspkUvlo (mv : Nat) (s : State) : Out :=
  .next (whenRunning s fun s =>
    if s.ann.vspkGood then
      let s1 := raise { s with ann := { s.ann with vspkGood := false } } { id := 0x7F7, data := le 2 mv }
      annAllOut s1 .uvlo 5
    else s)

/-- VSPK_RECOVERED (R439): VSPK above 7.6 V for 100 ms. -/
def execVspkRecovered (s : State) : Out :=
  .next (whenRunning s fun s => annBack { s with ann := { s.ann with vspkGood := true } } .uvlo 5)

/-- ANN_LINK_LOST (R438): no valid duty word for 16 µs. -/
def execAnnLinkLost (s : State) : Out :=
  .next (whenRunning s fun s => if s.ann.linkGood then annAllOut { s with ann := { s.ann with linkGood := false } } .linkLost 6 else s)

/-- ANN_LINK_VALID (R438): the link has been valid for 1 ms after `us` µs without it. -/
def execAnnLinkValid (us : Nat) (s : State) : Out :=
  .next (whenRunning s fun s =>
    if s.ann.linkGood then s
    else annBack (raise { s with ann := { s.ann with linkGood := true } } { id := 0x7F5, data := le 4 us }) .linkLost 6)

/-! ### MUTE (R452) -/

/-- MUTE_RISE (R452): both channels go through STOPPING into MUTED, also one that is STOPPING already, and their plays end. -/
def execMuteRise (s : State) : Out :=
  .next (whenRunning s fun s =>
    bothChans { s with ann := { s.ann with mute := true } } fun a c =>
      if (annChan a c).state = .run ∨ (annChan a c).state = .starting then
        annOut (setAnnChan a c { annChan a c with toMuted := true }) c .stopping 3
      else abortChannel (if (annChan a c).state = .stopping then setAnnChan a c { annChan a c with toMuted := true } else a) c)

/-- MUTE_RELEASE (R439): MUTE low for 50 ms. -/
def execMuteRelease (s : State) : Out :=
  .next (whenRunning s fun s =>
    if s.ann.mute then
      let s1 := annBack { s with ann := { s.ann with mute := false } } .muted 3
      resumeHeld (bothChans s1 annStart)
    else s)

/-! ### PCM (R449, R502) -/

/-- The AUD ring that the object names (Table ANN.3). -/
def audRing (s : State) : Option Nat :=
  let i := annField s 8 1
  if i < 64 ∧ (ring s 0 i).typ = .aud ∧ (ring s 0 i).state = .active then some i else none

/-- A well-formed AUD entry (R502). -/
def audEntryOk (s : State) (p : HostPost) : Bool :=
  p.addr % 4 == 0 && decide (4 ≤ p.len ∧ p.len ≤ 65536) && p.len % (if bit (annField s 7 1) 0 then 4 else 2) == 0

/-- AUD_BUFFER_READ (R502): the buffer at the head has been read; its samples sound, and the head advances. -/
def execAudBufferRead (s : State) : Out :=
  .next (whenRunning s fun s =>
    match audRing s with
    | none => s
    | some i =>
      match (ring s 0 i).posts with
      | [] => s
      | p :: _ =>
        if !audEntryOk s p then ringError s 0 i 2
        else
          let s1 := consumeEntry s 0 i
          let s2 := { s1 with ann := { s1.ann with pcm := true, pcmAt := nowTick s, underrun := false } }
          bothChans s2 annStart)

/-- PCM_BUFFER_EMPTY (R449): silence sounds, and EV_ANN_UNDERRUN counts the samples missed once per episode. -/
def execPcmBufferEmpty (missed : Nat) (s : State) : Out :=
  .next (whenRunning s fun s =>
    if s.ann.pcm ∧ !s.ann.underrun then raise { s with ann := { s.ann with underrun := true } } { id := 0x7F8, data := le 4 missed } else s)

/-- PCM_IDLE_EXPIRE (R449): IDLE_S seconds without samples. -/
def execPcmIdleExpire (s : State) : Out :=
  .next (whenRunning s fun s =>
    if s.ann.pcm ∧ s.ann.pcmAt + secs (annField s 2 2) ≤ nowTick s then
      bothChans { s with ann := { s.ann with pcm := false, underrun := false } } annIdle
    else s)

/-! ### Restart and commits (R398, R450, R453) -/

/-- An annunciator restart (R453): every play ends as ABORTED and both channels end in OFF. -/
def annRestart (s : State) : State :=
  bothChans s fun a c =>
    let st := (annChan a c).state
    let a1 := (warned a c).foldl warnFailed (endPlays a c 6 (fun _ _ => true))
    let a2 := setAnnChan a1 c { annChan a1 c with tones := [], retries := 8 }
    if st = .run ∨ st = .starting then setAnnState a2 c .stopping 11 else if st = .stopping then a2 else annOff a2 c 11

/-- A commit of the annunciator or clip object. -/
def annCommit (s : State) : State := resumeHeld (bothChans (bothChans s abortChannel) annStart)

end Sys2Proof.Machine
end

