-- ==== Sys2Proof/Machine/KeyCommands.lean ====
section
/-!
DEFINITION. The key store's commands: generation, import, erase and attestation of slots, the programming of slot records, and
the completion of signatures (13_keys_counters.md; R315, R316, R522).
-/
namespace Sys2Proof.Machine

/-! ### Slot records (R332–R336) -/

/-- Writes of a slot that wait or run. -/
def slotWrites (s : State) (k : Nat) : Nat := (s.key.writes.filter (fun w => w.slot == k)).length

/-- The generation the next accepted write of a slot will have. -/
def nextGen (s : State) (k : Nat) : Nat := (keySlot s k).kgen + slotWrites s k + 1

/-- Slots that are never erased or rewritten (R335). -/
def fixedSlot (k : Nat) : Bool := k == 0 || k == 1 || k == 8

/-- The commands that wait for a write. -/
def writeCmds (s : State) (w : KeyWrite) : List OpenCmd := waitingCmds s w.opc w.token

/-- An aborted or refused signing operation of a slot that is being erased (R316, R340). -/
def abortOp (s : State) (op : SignOp) : State :=
  let s1 := { s with cus := { s.cus with ops := s.cus.ops.erase op } }
  if op.purpose = 0 then
    if op.opened then
      let s2 := mapChain s1 op.session fun c => { c with extend := true, firstSeq := (c.segment.head?).elim c.firstSeq (fun r => fld r 0 6) }
      cusEvent s2 op.session 0x582 [(op.token : Nat), stKeyAborted]
    else checkpointRefused s1 op.session ((chainOf s1 op.session).elim 0 fun c => c.waiting.getD 0) stNoSignKey
  else completeWaiting s1 0x0401 op.token (if op.opened then stKeyAborted else stNoSignKey) []

/-- KEY_ERASE at its commit point: every open operation of the slot is aborted, with EV_KEY_ABORT, and every waiting request
is refused (R335, R340). -/
def abortOps (s : State) (k : Nat) : Nat × State :=
  let mine := s.cus.ops.filter fun o => o.slot == k
  let n := (mine.filter (·.opened)).length
  let s1 := mine.foldl abortOp s
  (n, if n = 0 then s1 else raise s1 { id := 0x600, src := k, tenant := slotOwner s k, data := Config.eventData 0x600 [k, n] })

/-- Start programming the first write that still has its command: its commit point (R332). -/
def startWrite : Nat → State → State
  | 0, s => s
  | n + 1, s =>
    match s.key.writes with
    | [] => s
    | w :: rest =>
      if w.started then s
      else if (writeCmds s w).isEmpty then startWrite n { s with key := { s.key with writes := rest } }
      else if w.opc = 0x0902 ∧ w.record.kgen ≠ (keySlot s w.slot).kgen + 1 then
        startWrite n (completeWaiting { s with key := { s.key with writes := rest } } w.opc w.token stKeyWrap [])
      else
        let r := { w.record with kgen := (keySlot s w.slot).kgen + 1, stat := clkTt s, cycle := nowCycle s, ticks := nowTick s }
        let s1 := { s with key := { s.key with writes := { w with started := true, record := r } :: rest }
                           cmd := { s.cmd with opens := s.cmd.opens.map fun o => if o.opc = w.opc ∧ o.token = w.token then { o with committed := true } else o } }
        if r.valid then s1
        else
          let (a, s2) := abortOps s1 w.slot
          { s2 with key := { s2.key with writes := { w with started := true, record := r, aborted := a } :: rest } }

/-- Start whatever write may start. -/
def startWrites (s : State) : State := startWrite (s.key.writes.length + 1) s

/-- Queue a write for a command just accepted. -/
def queueWrite (s : State) (d : Desc) (opc k : Nat) (r : KeySlot) : State :=
  let (t, s1) := freshToken s
  let s2 := defer s1 d opc t [k] false [] []
  startWrites { s2 with key := { s2.key with writes := s2.key.writes ++ [{ slot := k, record := r, opc := opc, token := t }] } }

/-- The leases of an erased LOGGER slot become FREE (Table CMP.5); LEAVE cannot be sealed, so none is sent. -/
def dropLeases (s : State) (k : Nat) : State :=
  (s.cmp.leases.filter fun p => p.2.slot == k).foldl (fun a p =>
    raise { a with cmp := { a.cmp with leases := tdel a.cmp.leases p.1 } }
      { id := 0x703, data := le 8 p.2.eui ++ le 2 p.1 ++ le 1 2 }) s

/-- A record that has been read back becomes the slot's current generation; a new generation starts its counter, and a change of
a token key resets its tenant's window (R287, R332, R335, R341, R347). -/
def installRecord (s : State) (k : Nat) (r : KeySlot) : State :=
  let old := keySlot s k
  let s1 := if r.valid ∨ slotKind k ≠ some 9 then setKeySlot s k r else dropLeases (setKeySlot s k r) k
  let s2 := if r.valid ∧ signKind k then ctrEpoch s1 k r.kgen
    else if r.valid ∧ k = 4 then linkRekeyed s1
    else if r.valid ∧ slotKind k = some 9 then ctrEpoch s1 (512 + k) r.kgen else s1
  if slotKind k = some 8 then
    let s3 := if old.valid then setAccount s2 old.owner { account s2 old.owner with key := none, floor := 0, used := [] } else s2
    if r.valid then refreshWindow s3 r.owner else s3
  else s2

/-- Complete a command of the key store, with output bytes. -/
def keyComplete (s : State) (o : OpenCmd) (out result : Bytes) : State :=
  let s1 := { s with cmd := { s.cmd with opens := s.cmd.opens.filter (fun x => x != o) } }
  complete (if out.isEmpty then s1 else dma s1 o.desc.tenant o.desc.dptr out) o.desc o.sqhd stOk out.length result

/-- KEY_RECORD_READBACK (R332, R335): the record being programmed has been read back; the attestation of KEY_GENERATE waits for its
signature while the DRBG is down (R330). -/
def execKeyRecordReadback (s : State) : Out :=
  .next (whenRunning s fun s =>
    match s.key.writes with
    | [] => s
    | w :: rest =>
      if !w.started then s
      else
        let s1 := installRecord { s with key := { s.key with writes := rest } } w.slot w.record
        let result := le 2 w.record.kgen ++ (if w.opc = 0x0903 then le 2 w.aborted else [])
        if w.opc = 0x0901 ∧ !drbgUp s1 then
          startWrites (addSign { s1 with cmd := { s1.cmd with opens := s1.cmd.opens.map fun o =>
            if o.opc = w.opc ∧ o.token = w.token then { o with result := result } else o } }
            { purpose := 4, slot := 0, opened := true, mat := Config.deviceKey, token := w.token, body := attestHead s1 w.slot })
        else
        let (v, s2) := drbgValue s1
        let out := if w.opc = 0x0901 then attestation s2 w.slot v else []
        startWrites ((writeCmds s2 w).foldl (fun a o => keyComplete a o out result) s2))

/-! ### Commands (R522) -/

/-- The wrapped-keys partition takes writes (R365). -/
def keysWritable (s : State) : Bool := !s.cis.readOnly.contains 1

/-- KEY_GENERATE (R332, R522). -/
def execKeyGenerate (d : Desc) (k : Nat) (s : State) : Out :=
  .next (hostCmd s d 0x0901 true fun s =>
    checked s d [((d.tenant == 0 && !fixedSlot k) || k == signSlot d.tenant, stNotPermitted), (decide (k < 512), stBadArg),
      (signKind k, stKeyKind), (decide (nextGen s k ≤ 65535), stKeyExhausted), (drbgUp s, stRngFail), (keysWritable s, stArchive)] fun s =>
      if d.dlen < 160 then complete s d (ring s d.tenant d.ring).head stDataShort 160 []
      else
        let (v, s1) := drbgValue s
        queueWrite s1 d 0x0901 k { valid := true, owner := if 256 ≤ k then k - 256 else 0, origin := 1, mat := v })

/-- The length of a kind's material in an import blob, none for a kind that is not imported (Table KEY.4). -/
def importLen (kind : Nat) : Option Nat :=
  if kind = 8 ∨ kind = 9 then some 16 else if kind = 4 then some 32 else if kind = 2 then some 64 else none

/-- The material of a blob that passes the checks of R333 and R334. -/
def blobMaterial (b : Bytes) (kind len : Nat) : Option Nat :=
  if kind = 2 then
    let p := slice b 112 64
    if (slice b 32 77 ++ slice b 176 16).all (· == 0) && Config.pointOk p then some (beVal p) else none
  else match Config.unwrapBlob b with
    | some m => if m.length = len then some (leVal m) else none
    | none => none

/-- KEY_IMPORT (R333, R334); OWNER names the tenant of a TOKEN or LOGGER key (R463). -/
def execKeyImport (d : Desc) (b : Bytes) (s : State) : Out :=
  .next (hostCmd s d 0x0902 true fun s =>
    let k := fld b 2 2
    let kind := fld b 6 1
    let owner := fld b 7 1
    let len := (importLen kind).getD 0
    let mat := blobMaterial b kind len
    let second := kind == 8 && ((match tokenSlot s owner with
      | some x => x != k
      | none => false) || (s.key.writes.any fun w => w.slot != k && slotKind w.slot == some 8 && w.record.valid && w.record.owner == owner))
    checked s d [by0 d, (decide (128 ≤ b.length), stDataShort), (decide (fld b 0 2 = 0x4B49 ∧ k < 512), stBadArg),
      (!fixedSlot k, stNotPermitted), (!(kind == 8 || kind == 9) || tenantDefined s owner, stTenantUnknown), (slotKind k == some kind && (importLen kind).isSome, stKeyKind), (!second, stNotPermitted),
      (decide (nextGen s k ≤ 65535), stKeyExhausted),
      (decide (fld b 8 8 = Config.deviceId ∧ fld b 4 2 = nextGen s k ∧ fld b 16 1 = len ∧ b.length = 128 + len) && mat.isSome, stKeyWrap),
      (keysWritable s, stArchive)]
      fun s => queueWrite s d 0x0902 k { kgen := fld b 4 2, valid := true, owner := if kind = 8 ∨ kind = 9 then owner else 0, origin := 2, mat := mat.getD 0 })

/-- KEY_ERASE (R335). -/
def execKeyErase (d : Desc) (k : Nat) (s : State) : Out :=
  .next (hostCmd s d 0x0903 false fun s =>
    checked s d [((d.tenant == 0 && !fixedSlot k) || k == signSlot d.tenant, stNotPermitted), (decide (k < 512), stBadArg),
      ((slotKind k).isSome && slotKind k != some 7, stKeyKind), ((keySlot s k).valid || decide (0 < slotWrites s k), stKeyEmpty),
      (decide (nextGen s k ≤ 65535), stKeyExhausted), (keysWritable s, stArchive)] fun s =>
      queueWrite s d 0x0903 k { valid := false, owner := if 256 ≤ k then k - 256 else if k < 16 then 0 else 0xFF, origin := 0 })

/-- Slots a tenant may attest (R522). -/
def mayAttest (s : State) (t k : Nat) : Bool :=
  t == 0 || k == 1 || k == 3 || k == 5 || k == 8 || k == signSlot t || ((keySlot s k).valid && (keySlot s k).owner == t && decide (80 ≤ k))

/-- KEY_ATTEST (R337, R522): the statement waits for its signature with K0. -/
def execKeyAttest (d : Desc) (k : Nat) (s : State) : Out :=
  .next (if !signRoom s d.tenant then s else hostCmd s d 0x0904 true fun s =>
    checked s d [(mayAttest s d.tenant k, stNotPermitted), (decide (k < 512), stBadArg), (p256Slot k, stKeyKind), (slotReady s k, stKeyEmpty)]
      fun s =>
      if d.dlen < 160 then complete s d (ring s d.tenant d.ring).head stDataShort 160 []
      else
        let (t, s1) := freshToken s
        addSign (defer s1 d 0x0904 t [] false (le 2 (keySlot s k).kgen) (attestHead s k))
          { purpose := 3, slot := 0, opened := true, mat := Config.deviceKey, token := t, body := attestHead s k })

/-! ### Signatures (R315, R324, R325, R338, R339) -/

/-- What a signing operation leaves when its signature is ready. -/
def signed_ (s : State) (op : SignOp) (sig : Bytes) : State :=
  if op.purpose = 0 then
    let t := ((chainOf s op.session).map (·.tenant)).getD 0
    let s1 := archive s 2 t op.session (op.body ++ sig)
    let s2 := mapChain s1 op.session fun c => { c with segment := c.segment.filter fun r => decide (op.token < fld r 0 6) }
    cusEvent s2 op.session 0x581 [(op.token : Nat), (op.ctr : Nat), (op.kgen : Nat)]
  else
    let opc := if op.purpose = 1 then 0x0401 else if op.purpose = 2 then 0x0A02 else if op.purpose = 4 then 0x0901 else 0x0904
    (waitingCmds s opc op.token).foldl (fun a o => keyComplete a o (op.body ++ sig) o.result) s

/-- SIGNATURE_COMPLETE (R315, R330): the oldest open signing operation completes; none does while the DRBG is down. -/
def execSignatureComplete (s : State) : Out :=
  .next (whenRunning s fun s =>
    match s.cus.ops.find? (·.opened) with
    | none => s
    | some op =>
      if !drbgUp s then s
      else
        let (v, s1) := drbgValue { s with cus := { s.cus with ops := s.cus.ops.erase op } }
        signed_ s1 op (signBytes op.mat op.body v))

/-- The header of a signed reading (Table CUS.6). -/
def blobHeader (flags len slot ctr kgen tenant items : Nat) : Bytes :=
  le 2 0x5352 ++ [1] ++ le 1 flags ++ le 2 len ++ le 2 slot ++ le 8 Config.deviceId ++ le 4 ctr ++ le 2 kgen ++ le 1 tenant ++
    zeros 1 ++ le 2 items ++ zeros 6

/-- A blob's operation has opened: its command passes its commit point, and the bytes to sign are complete (R324, R325). -/
def blobOpened (s : State) (op : SignOp) (o : OpenCmd) : State :=
  let flags := nth 0 o.arg 0
  let body := blobHeader flags (96 + o.output.length) op.slot op.ctr op.kgen o.desc.tenant (nth 0 o.arg 1) ++ o.output
  let result := le 4 op.ctr ++ le 2 op.slot ++ le 2 op.kgen ++ le 2 (96 + o.output.length)
  addSign { s with cmd := { s.cmd with opens := s.cmd.opens.map fun x => if x = o then { x with committed := true, result := result } else x } }
    { op with body := body }

/-- Let the operations of a counter that wait for its reservation open, in order (R342). -/
def openWaiting (s : State) (k : Nat) : State :=
  (s.cus.ops.filter fun o => !o.opened && o.slot == k).foldl (fun a op =>
    let (op1, a1) := openSign a op
    let a2 := { a1 with cus := { a1.cus with ops := a1.cus.ops.erase op } }
    if op1.opened then
      if op.purpose = 0 then checkpointOpened a2 op.session ((chainOf a2 op.session).elim 0 fun c => c.waiting.getD 0) op1
      else match waitingCmds a2 0x0401 op.token with
        | o :: _ => blobOpened a2 op1 o
        | [] => a2
    else match openRefusal a1 k with
      | none => a1
      | some st =>
        if op.purpose = 0 then checkpointRefused a2 op.session ((chainOf a2 op.session).elim 0 fun c => c.waiting.getD 0) st
        else completeWaiting a2 0x0401 op.token st []) s

/-- Complete an open command with a status. -/
def endOpen (s : State) (o : OpenCmd) (status : Nat) : State :=
  complete { s with cmd := { s.cmd with opens := s.cmd.opens.filter (fun x => x != o) } } o.desc o.sqhd status 0 []

/-- Start the signed reading of a waiting command, its items being ready (R324, R517): the blob is sized, then the operation opens
or waits. -/
def startBlob (s : State) (o : OpenCmd) (slot flags : Nat) (items : List Bytes) : State :=
  let out := items.flatten
  if 1024 < 96 + out.length then endOpen s o stBlobSize
  else match openRefusal s slot with
    | some st => endOpen (if st = stKeyExhausted then (ctrTake s slot).2 else s) o st
    | none =>
      let o1 := { o with arg := [flags, items.length], output := out }
      let s1 := { s with cmd := { s.cmd with opens := s.cmd.opens.map fun x => if x = o then o1 else x } }
      let (op, s2) := openSign s1 { purpose := 1, slot := slot, token := o.token }
      if op.opened then blobOpened s2 op o1 else addSign s2 op

/-! ### The legal log (R250, R523) -/

/-- LEGAL_LOG_READ (R250, R523): entries by SEQ; the signed form waits for its signature with the seal key. -/
def execLegalLogRead (d : Desc) (first count flags : Nat) (s : State) : Out :=
  .next (if bit flags 0 && !signRoom s d.tenant then s else hostCmd s d 0x0A02 true fun s =>
    checked s d [by0 d, (decide (1 ≤ count ∧ count ≤ 4096), stBadArg)] fun s =>
      let all := logAll s
      let l := (all.filter fun e => decide (first ≤ fld e 0 4)).take count
      let out := l.flatten
      let result := le 4 ((l.head?).elim first fun e => fld e 0 4) ++ le 2 l.length ++ le 4 ((all.head?).elim s.lgl.seq fun e => fld e 0 4)
      if bit flags 0 then
        if d.dlen < out.length + 64 then complete s d (ring s d.tenant d.ring).head stDataShort (out.length + 64) []
        else
          let (t, s1) := freshToken s
          addSign (defer s1 d 0x0A02 t [] false result []) { purpose := 2, slot := 1, opened := true, mat := Config.sealKey, token := t, body := out }
      else replyOut s d out result)

end Sys2Proof.Machine
end

