-- ==== Sys2Proof/Machine/Readings.lean ====
section
/-!
DEFINITION. Register reads and the items of signed readings (07_energy_pulses.md, Table MET.6; 12_custody_chain.md, R324, R325,
Table CUS.8).
-/
namespace Sys2Proof.Machine

/-! ### READ_REGISTERS (R516, Table MET.6) -/

/-- STATUS of an MP's register record (Table MET.6). -/
def regStatus (s : State) (m : Nat) : Nat :=
  let x := mpOf s m
  flag x.noLoad 0 + flag x.run.isSome 1 + flag x.resLost 2 + flag x.unclean 3 + flag s.met.tempExt 4 + flag x.subst 5 + flag x.filled 6

/-- N, RES and ROLL of a count in the register's unit (R191, R194). -/
def regFields (s : State) (n res : Nat) : Bytes := le 8 n ++ le 4 res ++ le 4 (n / 10 ^ regDigits s)

/-- A register record: legal registers, or the EST counters in the same layout. -/
def metRecord (s : State) (m : Nat) (est : Bool) : Bytes :=
  le 2 m ++ le 2 (regStatus s m) ++ le 5 (nowCycle s) ++ le 1 (clkTt s) ++ zeros 6 ++ (span 0 28).flatMap fun x =>
    if est then le 8 (nth 0 (mpOf s m).est x / 4294967296) ++ zeros 8
    else regFields s (ladderValue s (ladderKey 0 (regLid m x))) (nth 0 (residuals s m) x)

/-- READ_REGISTERS (R187, R191, R516): FILLED is set until a read. -/
def execReadRegisters (d : Desc) (m count which : Nat) (s : State) : Out :=
  .next (hostCmd s d 0x0301 true fun s =>
    let l := span m (min count 257)
    checked s d [(d.tenant == 0 || l.all fun k => mpOfTenant s k d.tenant, stNotPermitted),
      (decide (1 ≤ count ∧ m + count ≤ 257 ∧ which < 2), stBadArg)] fun s =>
      let out := l.flatMap fun k => metRecord s k (which == 1)
      let s1 := replyOut s d out []
      if d.dlen < out.length then s1 else l.foldl (fun a k => setMp a k { mpOf a k with filled := false }) s1)

/-! ### The settled boundary (R324) -/

/-- b: the latest boundary whose cycles have all been released or withheld. -/
def settledBoundary (s : State) : Nat := (presentMps s).foldl (fun b m => min b (settledTo s m)) (nowCycle s)

/-- A register at boundary b, in its unit: what has been released, less the cycles from b on. -/
def regAt (s : State) (m x b : Nat) : Nat :=
  let y := mpOf s m
  let base := ladderValue s (ladderKey 0 (regLid m x)) * commitQuantum + nth 0 (residuals s m) x
  let later := nsum (((y.past.filter fun p => decide (b ≤ p.1)).map fun p => nth 0 p.2 x)) +
    (y.cur.elim 0 fun c => if b ≤ c.cycle then nth 0 c.e x else 0)
  (base * 4294967296 + nth 0 y.uncommitted x - later) / 4294967296

/-- Energy booked from boundary b on: import, export and charge, of the bookings that `who` selects, at one rate or at all. -/
def bookedSince (s : State) (b : Nat) (who : Booked → Bool) (rate : Booked → Bool) (charge : Booked → Int) : Nat × Nat × Int :=
  let l := s.tar.recent.filter fun y => decide (b ≤ y.cycle) && who y
  let r := l.filter rate
  (nsum (r.map fun y => nth 0 y.tot 0), nsum (r.map fun y => nth 0 y.tot 1), isum (l.map charge))

/-! ### Items (Table CUS.8) -/

/-- One item. -/
def tlv (t : Nat) (v : Bytes) : Bytes := le 1 t ++ le 1 v.length ++ v

/-- TIME: boundary b. -/
def itemTime (s : State) (b : Nat) : Bytes :=
  let e := logEntry s b
  tlv 1 (le 7 (mkStamp b 0) ++ le 6 ((e.map (·.ticks)).getD (nowTick s)) ++ le 1 (statByte s))

/-- LEGAL. -/
def itemLegal (s : State) : Bytes :=
  let st := match s.lgl.state with
    | .unsealed => 0
    | .sealed => 1
    | .broken => 2
  tlv 2 (le 4 (Config.legalFirmwareId % 2 ^ 32) ++ le 2 (sealCount s) ++ le 1 (flag (legalValid s) 0 + 2 * st) ++ zeros 1 ++ (calDigest s).take 16)

/-- REGISTER x of an MP. -/
def itemRegister (s : State) (b x m : Nat) : Bytes :=
  let v := regAt s m x b
  tlv 3 (le 2 m ++ le 1 x ++ zeros 1 ++ regFields s (v / commitQuantum) (v % commitQuantum) ++ le 2 (regStatus s m) ++ zeros 2)

/-- SESSION, with the last record of its chain. -/
def itemSession (s : State) (id : Nat) (x : Session) : Bytes :=
  let c := (chainOf s id).getD { tenant := x.tenant, mp := x.mp }
  tlv 4 (le 4 id ++ le 1 x.tenant ++ le 1 (sessionFlags x) ++ zeros 2 ++ le 6 (c.seq - 1) ++ zeros 2 ++ (sha256 c.last).take 16)

/-- BILLING of a register set from which the bookings since b are taken away. -/
def itemBilling (scope rate : Nat) (r : RegSet) (later : Nat × Nat × Int) : Bytes :=
  let imp := if rate = 255 then nsum r.imp else nth 0 r.imp rate
  let exp := if rate = 255 then nsum r.exp else nth 0 r.exp rate
  tlv 5 (le 1 scope ++ le 1 rate ++ zeros 2 ++ le 8 ((imp - later.1) / 4294967296) ++ le 8 ((exp - later.2.1) / 4294967296) ++
    leInt 8 ((r.charge - later.2.2) / 4294967296))

/-- CREDIT of a tenant at boundary b. -/
def itemCredit (s : State) (b t : Nat) : Bytes :=
  let x := account s t
  let later := bookedSince s b (fun y => y.tenant == t) (fun _ => true) (·.charge)
  let bal := x.creditIn * 4294967296 - ((bill s t).regs.charge - later.2.2 - x.chargeBase)
  tlv 6 (leInt 8 (bal / 4294967296) ++ leInt 8 (if prepaid s t then debtOf s t { x with balance := bal } / 4294967296 else 0) ++
    le 1 (if prepaid s t then x.state else 0xFF) ++ zeros 3)

/-- TEMPERATURE of a logger's binding, or of a probe of the MP's head as last verified. -/
def itemTemperature (s : State) (src idx : Nat) (x : Session) (id : Nat) : Bytes :=
  let (v, age, st) := if src = 1 then
      match (chainOf s id).bind fun c => tfind c.binds idx with
      | some y => (y.value, (nowTick s - y.evid) / 32768, if y.lseq.isNone then 1 else 0)
      | none => (0, 65535, 1)
    else match (head s (x.mp / 4)).probe with
      | some (p, f) => (fld p (2 * (idx - 1)) 2, (s.ply.frame - f) / 10240, fld p 4 1 / 4 ^ (idx - 1) % 4)
      | none => (0, 65535, 3)
  tlv 7 (le 1 src ++ le 1 idx ++ le 2 v ++ le 2 (min 65535 age) ++ le 1 st ++ zeros 1)

/-- Fields of a request (Table CMD.18). -/
def reqT (r : Bytes) : Nat := fld r 0 1
def reqA (r : Bytes) : Nat := fld r 1 1
def reqB (r : Bytes) : Nat := fld r 2 2
def reqC (r : Bytes) : Nat := fld r 4 4

/-- Whether a tenant may name what a request names (R324). -/
def reqPermitted (s : State) (t : Nat) (r : Bytes) : Bool :=
  let own := fun id => (sessionById s id).elim false fun x => x.tenant == t
  t == 0 || (match reqT r with
    | 3 => mpOfTenant s (reqB r) t
    | 4 => own (reqC r)
    | 5 => if reqA r = 0 then own (reqC r) else if reqA r = 1 then reqC r == t else mpOfTenant s (reqC r) t
    | 6 => reqC r == t
    | 7 => own (reqC r)
    | _ => false)

/-- A request is well formed (R517, Table CMD.18). -/
def reqWell (r : Bytes) : Bool :=
  match reqT r with
  | 3 => decide (reqA r < 28 ∧ reqB r ≤ 256 ∧ reqC r = 0)
  | 4 => decide (reqA r = 0 ∧ reqB r = 0)
  | 5 => decide (reqA r ≤ 2 ∧ (reqB r < 16 ∨ reqB r = 255) ∧ (reqA r = 0 ∨ reqC r < 256))
  | 6 => decide (reqA r = 0 ∧ reqB r = 0 ∧ reqC r < 256)
  | 7 => (reqA r == 1 && decide (reqB r < 4)) || (reqA r == 2 && (reqB r == 1 || reqB r == 2))
  | 8 => true
  | _ => false

/-- What a request names exists. -/
def reqFound (s : State) (r : Bytes) : Bool :=
  let live := fun id => (sessionById s id).elim false Session.isOpen
  match reqT r with
  | 3 => !mpAbsent s (reqB r)
  | 4 => live (reqC r)
  | 5 => if reqA r = 0 then live (reqC r) else if reqA r = 1 then tenantDefined s (reqC r) else true
  | 6 => tenantDefined s (reqC r)
  | 7 => live (reqC r) && (reqA r == 2 || ((chainOf s (reqC r)).bind fun c => tfind c.binds (reqB r)).isSome)
  | _ => true

/-- The item that answers a request at boundary b. -/
def itemFor (s : State) (b : Nat) (r : Bytes) : Bytes :=
  let ses := fun id => (sessionById s id).getD { mp := 0, tenant := 0, start := 0 }
  let rateIs := fun (f : Booked → Nat) (y : Booked) => reqB r == 255 || f y == reqB r
  match reqT r with
  | 3 => itemRegister s b (reqA r) (reqB r)
  | 4 => itemSession s (reqC r) (ses (reqC r))
  | 5 =>
    if reqA r = 0 then itemBilling 0 (reqB r) (ses (reqC r)).regs (bookedSince s b (fun y => y.session == some (reqC r)) (rateIs (·.rate)) (·.charge))
    else if reqA r = 1 then itemBilling 1 (reqB r) (bill s (reqC r)).regs (bookedSince s b (fun y => y.tenant == reqC r) (rateIs (·.rate)) (·.charge))
    else itemBilling 2 (reqB r) (mpRegs s (reqC r)) (bookedSince s b (fun y => y.mp == reqC r) (rateIs (·.rate0)) (·.charge0))
  | 6 => itemCredit s b (reqC r)
  | 7 => itemTemperature s (reqA r) (reqB r) (ses (reqC r)) (reqC r)
  | _ => []

end Sys2Proof.Machine
end

