-- ==== Sys2Proof/Machine/Archive.lean ====
section
/-!
DEFINITION. The archive's work: programs of the custody log, ladder increments, patrol, reads of the archive, and recovery at a CHIP
start (14_cistern.md; TAMPER_READ of R523).
-/
namespace Sys2Proof.Machine

/-! ### Programs (R354, R364, R376, R378) -/

/-- One unit of the tail's first item has been programmed; with its last unit the item is archived, and a waiting item takes its
place in the tail. -/
def programUnit (s : State) : State :=
  match s.cis.tail with
  | [] => s
  | it :: rest =>
    if s.cis.readOnly.contains 3 then s
    else if s.cis.prog + 1 < it.units then { s with cis := { s.cis with prog := s.cis.prog + 1 } }
    else admitWaiting (putItem { s with cis := { s.cis with tail := rest, prog := 0 } } it)

/-- The custody block in use has failed: its content is moved to the next logical block, and it is retired (R364). -/
def moveSeg (s : State) (b : Nat) : State :=
  let next := (((s.cis.segs.getLast?).elim 0 (·.1)) + 1) % 768
  let moved := s.cis.segs.map fun g => (if physOf s 3 g.1 == b then next else g.1, g.2.1, g.2.2)
  retireBlock { s with cis := { s.cis with segs := moved } } b

/-- FLASH_PROGRAM_COMPLETE (R364): the step that a block was being programmed with has been written, or has failed and goes to
the area's next page. -/
def execFlashProgramComplete (b : Nat) (ok : Bool) (s : State) : Out :=
  .next (whenRunning s fun s =>
    let custody := (blockOf s b).part == 3
    if ok then (if custody then programUnit s else s)
    else
      let s1 := raise s { id := 0x684, data := Config.eventData 0x684 [b] }
      if custody then moveSeg s1 b else retireBlock s1 b)

/-! ### Ladders (R368–R371) -/

/-- A bit of a ladder reads weak: it is counted, reported, and programmed once more (R368). -/
def weakBit (s : State) (k n : Nat) : State :=
  let l := ladder s k
  let s1 := raise (setLadder s k { l with weak := l.weak + n }) { id := 0x682, data := Config.eventData 0x682 [(k / 65536 : Nat), (k % 65536 : Nat)] }
  if k < 65536 then legalLog s1 Config.weakBitType 0 0xFFFF (le 2 k) else s1

/-- LADDER_INCREMENT_COMPLETE (R368, R369): the first increment under way is durable; `weak` is 0 when its bit read good, 1 when it
read weak and good after the second program, 2 when it stayed weak. -/
def execLadderIncrementComplete (weak : Nat) (s : State) : Out :=
  .next (whenRunning s fun s =>
    match s.cis.incs with
    | [] => s
    | k :: rest =>
      let s0 := { s with cis := { s.cis with incs := rest } }
      let s1 := stepLadder s0 k
      if ladderValue s1 k = ladderValue s0 k then s1
      else
        let s2 := if k < 65536 then incDurable s1 k else s1
        let s3 := if weak = 0 then s2 else weakBit s2 k 1
        let s4 := if 2 ≤ weak then (if 0xFFFFFE ≤ (ladder s3 k).lgen then ladderEnd s3 k else succeed s3 k false) else s3
        let s5 := ladderReclaim s4 (k / 65536)
        if k / 65536 = 1 then openWaiting s5 (k % 65536) else s5)

/-- Recover one ladder at a CHIP start (R371): weak bits are counted and logged; a bad copy or a stray bit makes a succession at
the same value; a ladder whose first generation is bad in both copies has value 0. -/
def ladderRecover (s : State) (obs : FlashObs) (k : Nat) : State :=
  let s1 := match obs.weak.find? (fun p => p.1 == k) with
    | some p => weakBit s k p.2
    | none => s
  let l := ladder s1 k
  let s2 := if obs.lost.contains k then setLadder s1 k (if l.lgen ≤ 1 then { place := l.place } else { l with f := 0 }) else s1
  if obs.repair.contains k ∨ obs.lost.contains k then
    (if 0xFFFFFE ≤ (ladder s2 k).lgen then ladderEnd s2 k else succeed s2 k (ladder s2 k).parked)
  else s2

/-! ### Erase recovery (R362, R363) -/

/-- The highest count that a journal entry records for a block, or the highest in its partition (R363). -/
def estimatedCount (s : State) (b : Nat) : Nat :=
  match ((s.cis.journal.filter fun e => e.block == b).map (·.count)) with
  | [] => (s.cis.blocks.filter fun p => p.2.part == (blockOf s b).part).foldl (fun m p => max m p.2.count) 1
  | l => 1 + l.foldl max 0

/-- Undone intents are acted on in SEQ order: an erase counts as run and is queued anew, a retirement is completed (R362). -/
def recoverIntents (s : State) : State :=
  (s.cis.journal.filter fun e => !e.done).foldl (fun a e =>
    let x := blockOf a e.block
    if e.kind = 1 then
      let a1 := setBlock a e.block { x with count := e.count, state := .stale }
      if a1.cis.erases.any (fun q => q.1 == e.block) then a1 else queueErase a1 e.block x.part x.logical
    else intentDone (setBlock a e.block { x with state := .retired }) e.block) s

/-- A block without a good header and without an intent: a header is written when it is blank, else it is an orphan (R362, R363). -/
def recoverHeader (s : State) (b : Nat) (blank : Bool) : State :=
  let x := { blockOf s b with count := estimatedCount s b, est := true }
  if s.cis.journal.any (fun e => e.block == b && !e.done) then s
  else if blank then setBlock s b { x with state := .free, wticks := nowTick s }
  else queueErase (raise (setBlock s b { x with count := estimatedCount s b - 1, state := .stale }) { id := 0x685, data := Config.eventData 0x685 [b] })
    b x.part x.logical

/-- The archive's start-up (R377, R382). -/
def archiveStart (s : State) (obs : FlashObs) : State :=
  let s1 := obs.headers.foldl (fun a p => recoverHeader a p.1 p.2) (recoverIntents s)
  let s2 := (s1.cis.ladders.map (·.1)).foldl (fun a k => ladderRecover a obs k) (closeCustodyPage s1)
  { s2 with cis := { s2.cis with nextAseq := (highestAseq s2 / 65536 + 1) * 65536 } }

/-! ### Patrol (R353, R380) -/

/-- PATROL_READ (R380): one page of an area (page kinds of Table CIS.3; 11 a ladder page).  `index` names what the page holds: an
ASEQ of the custody log, a calibration copy, a ladder.  `found` is 0 clean, 1 corrected with 3 or 4 errors, 2 unreadable, 3 a weak
programmed bit, 4 a weak bit that stayed weak or a frontier that is not blank. -/
def execPatrolRead (area index found : Nat) (s : State) : Out :=
  .next (whenRunning s fun s =>
    let data := fun (ev : Nat) => Config.eventData ev [area, index]
    if area = 11 then
      if found < 3 then s
      else
        let s1 := if found = 3 then weakBit s index 1 else s
        if found = 4 then (if 0xFFFFFE ≤ (ladder s1 index).lgen then ladderEnd s1 index else succeed s1 index (ladder s1 index).parked) else s1
    else if found = 1 then raise s { id := 0x680, data := data 0x680 }
    else if found = 2 then
      let s1 := raise s { id := 0x681, data := data 0x681 }
      if area = 10 then { s1 with cis := { s1.cis with log := s1.cis.log.map fun i => if i.aseq = index then { i with damaged := true } else i } }
      else if area = 2 then
        { s1 with lgl := { s1.lgl with copy1 := if index = 1 then none else s1.lgl.copy1, copy2 := if index = 2 then none else s1.lgl.copy2 } }
      else s1
    else s)

/-! ### Reading (R381, R501, R523) -/

/-- A session is in a tenant's own scope: an open session of it, or one whose items the archive holds under it. -/
def ownSession (s : State) (t id : Nat) : Bool :=
  ((sessionById s id).elim false fun x => x.tenant == t) || (s.cis.log ++ s.cis.tail).any fun i => i.session == id && i.tenant == t

/-- ARCHIVE_READ (R381, R501, R523). -/
def execArchiveRead (d : Desc) (first count kinds rg flags session : Nat) (s : State) : Out :=
  .next (hostCmd s d 0x0A01 false fun s =>
    checked s d [(d.tenant == 0 || !bit flags 0 || ownSession s d.tenant session, stNotPermitted),
      (decide (1 ≤ count ∧ count ≤ 4096), stBadArg),
      (decide (rg < 64) && (ring s d.tenant rg).typ == .str && (ring s d.tenant rg).state == .active, stRingParam)] fun s =>
      pumpReads (defer s d 0x0A01 0 [first, count, kinds, rg, flags, session, 0, 0, 0] false (readResult s []) []) d.tenant rg)

/-- TAMPER_READ (R523). -/
def execTamperRead (d : Desc) (scope m : Nat) (s : State) : Out :=
  .next (hostCmd s d 0x0A03 true fun s =>
    checked s d [(d.tenant == 0 || (scope == 0 && mpOfTenant s m d.tenant), stNotPermitted),
      (decide (scope = 0 ∧ m < 256 ∨ scope = 1), stBadArg)] fun s =>
      replyOut s d (tamperPage s (if scope = 1 then tamperDevice else m)) [])

end Sys2Proof.Machine
end

