-- ==== Sys2Proof/Machine/Time.lean ====
section
/-!
DEFINITION. The backup domain: the supply switch, the tick counter and its compensation, the calendar view, alarms, the
oscillator-stopped flag, time sets and PWRON (03_backup_time.md; R515, R590, R591).
-/
namespace Sys2Proof.Machine

/-- Change the backup domain. -/
def setBkd (s : State) (f : Bkd → Bkd) : State := { s with bkd := f s.bkd }

/-! ### Supply switch (R61–R63) -/

/-- SUPPLY_SWITCH_OVER (R61–R63): to VBAT it is a switch-over, counted and recorded; back to VDD33 it is not. -/
def execSupplySwitchOver (toVbat : Bool) (s : State) : Out :=
  .next (settle (if !toVbat then setBkd s fun b => { b with onVbat := false }
    else if s.bkd.onVbat then s
    else
      let s1 := setBkd s fun b => { b with
        onVbat := true, swCount := satInc 32 b.swCount, swSat := b.swSat || b.swCount == 2 ^ 32 - 1,
        first := b.first.or (some (b.tick, b.modeB, tt s)) }
      if running s then
        raise (setBkd s1 fun b => { b with countShut := b.swCount }) { id := 0x100, data := Config.eventData 0x100 [(s1.bkd.swCount : Nat), 1] }
      else s1))

/-- CLEAR_FIRST_SWITCH (R63). -/
def execClearFirstSwitch (d : Desc) (s : State) : Out :=
  .next (hostCmd s d 0x0204 false fun s => checked s d [by0 d] fun s => reply (setBkd s fun b => { b with first := none }) d stOk [])

/-! ### The oscillator-stopped flag (R65, R76, R77) -/

/-- An OSF cause (bit 0 POR, 1 STOP, 2 VBAT) arises: it ends a nonce, and a new one raises EV_BKD_OSF and counts as
OSF while the hub runs (Table EVT.5). -/
def osfCause (s : State) (c : Nat) : State :=
  let fresh := !bit s.bkd.causes c
  let s1 := setBkd s fun b => { b with osf := true, causes := setBit b.causes c, nonce := none }
  if fresh ∧ running s then
    tamper (raise (setBkd s1 fun b => { b with causesShut := setBit b.causesShut c }) { id := 0x101, data := Config.eventData 0x101 [c] }) tamperDevice 6
  else s1

/-- VDD33 is present for R65: the rail is good and the reference clock runs. -/
def vddPresent (s : State) : Bool := !s.pwr.railBad && !s.pwr.refStopped

/-- CRYSTAL_STOP (R65): 2 ms without an edge sets OSF; ticks move to the reference crystal while VDD33 is present. -/
def execCrystalStop (s : State) : Out :=
  .next (settle (osfCause (setBkd s fun b => { b with crystalStopped := true, goodEdges := 0, fromRef := vddPresent s, corrN := if vddPresent s then 0 else b.corrN }) 1))

/-- CRYSTAL_RESUME (R65): 1,024 good edges have been seen; the return waits for a window start while ticks come from the reference. -/
def execCrystalResume (s : State) : Out := .next (setBkd s fun b => { b with crystalStopped := false, goodEdges := 1024 })

/-- VBAT_LOW (R76): VBAT has stood below 1.6 V for 50 ms, or has reached it again. -/
def execVbatLow (low : Bool) (s : State) : Out :=
  .next (settle (let s1 := setBkd s fun b => { b with vbatLow := low }
    if low ∧ (bit s.bkd.causes 2 ∨ s.bkd.vbatFrom + 1639 ≤ nowTick s) then osfCause s1 2 else s1))

/-- BKD_RESET (R60, Table PWR.4): every item takes its reset value, OSF stands with cause POR, and all that CHIP resets is reset. -/
def execBkdReset (s : State) : Out :=
  .next (let s1 := enterChipReset s 0 2 0xFF
    { s1 with bkd := { ({} : Bkd) with crystalStopped := s.bkd.crystalStopped, vbatLow := s.bkd.vbatLow, onVbat := s.bkd.onVbat }
              pwr := { s1.pwr with last := { counts := [(2, 1)] } } })

/-! ### Temperature compensation (R66–R69) -/

/-- A signed field of the compensation curve in force (Table BKD.8). -/
def curveField (b : Bkd) (o n : Nat) : Int := signed (8 * n) (fld b.curve o n)

/-- r(T): linear between the points −40 + 11 i °C, held beyond them; T in 1/64 °C. -/
def residual (b : Bkd) (t : Int) : Rat :=
  let p := fun (i : Nat) => ((curveField b (16 + 2 * i) 2 : Int) : Rat) / 1024
  if t ≤ -2560 then p 0
  else if 8000 ≤ t then p 15
  else
    let i := ((t + 2560) / 704).toNat
    let x : Rat := ((t + 2560 - 704 * (i : Int) : Int) : Rat) / 704
    p i + x * (p (i + 1) - p i)

/-- d(T) in ppm, before its clamp (R67). -/
def deviation (b : Bkd) (t : Int) : Rat :=
  let dt : Rat := ((t - curveField b 0 2 : Int) : Rat) / 64
  ((curveField b 4 4 : Int) : Rat) / 1024 + ((curveField b 8 4 : Int) : Rat) / 65536 * dt +
    ((curveField b 12 4 : Int) : Rat) / 1048576 * dt * dt + residual b t

/-- The clamp of d(T) to ±244 ppm. -/
def clampDev (x : Rat) : Rat := max (-244) (min 244 x)

/-- TEMP_SAMPLE (R66, R69): every 64 s, or every 8 s while the temperature moves faster than 1 °C/min. -/
def execTempSample (good : Bool) (temp : Int) (s : State) : Out :=
  .next (settle (let b := s.bkd
    let gap := if b.fast then 8 else 64
    if b.sampleAt ≠ 0 ∧ nowTick s < b.sampleAt + secs gap then s
    else if !good then
      let s1 := setBkd s fun b => { b with sensorFail := true, sampleAt := nowTick s }
      if b.sensorFail ∨ !running s then s1 else raise s1 { id := 0x106 }
    else
      let moved := match b.lastSample with
        | some l => decide (64 * (gap : Int) < 60 * (max (temp - l) (l - temp)))
        | none => false
      let calm := if moved then 0 else b.calm + 1
      let fast := moved || (b.fast && decide (calm < 8))
      setBkd s fun b => { b with samples := temp :: b.samples, lastSample := some temp, sampleAt := nowTick s, sensorFail := false,
                                 calm := if b.fast then calm else 0, fast := fast }))

/-- Edges of a compensation window (R68). -/
def windowEdges : Nat := 33554432

/-- N and C of a window from E (R68). -/
def correction (e : Rat) : Int × Rat :=
  let n := max (-8192) (min 8191 (roundRat e))
  (n, e - n)

/-- COMP_WINDOW_START (R65, R68, R69): a window of 33,554,432 edges has ended; the next one's correction is computed. -/
def execCompWindowStart (s : State) : Out :=
  .next (settle (if s.bkd.edge < windowEdges then s
    else
      let back := s.bkd.fromRef && !s.bkd.crystalStopped && decide (1024 ≤ s.bkd.goodEdges)
      let onRef := s.bkd.fromRef && !back
      let fresh := s.bkd.curveNext.isSome
      let b0 := { s.bkd with edge := s.bkd.edge - windowEdges, fromRef := onRef, samples := [], clamp := false,
                             curve := s.bkd.curveNext.getD s.bkd.curve, curveNext := none,
                             carry := if back || fresh then 0 else s.bkd.carry }
      let s0 := { s with bkd := b0 }
      if onRef then setBkd s0 fun b => { b with corrN := 0 }
      else if fld b0.curve 48 4 % 2 = 0 then setBkd s0 fun b => { b with corrN := 0, carry := 0 }
      else if s.bkd.sensorFail ∨ s.bkd.samples = [] then s0
      else
        let ds := s.bkd.samples.map (deviation b0)
        let clamped := ds.any fun x => decide (x ≠ clampDev x)
        let mean := (ds.map clampDev).foldl (· + ·) 0 / ((ds.length : Nat) : Rat)
        let (n, c) := correction (-mean * (33554432 / 1000000) + b0.carry)
        let s1 := setBkd s0 fun b => { b with corrN := n, carry := c, clamp := clamped }
        if clamped ∧ running s then raise s1 { id := 0x105 } else s1))

/-- Ticks that crystal edge number `e` of a window counts: 2 or 0 on the |N| edges that carry the correction (R68). -/
def edgeTicks (n : Int) (e : Nat) : Nat :=
  let k := n.natAbs
  if (e + 1) * k / windowEdges = e * k / windowEdges then 1 else if 0 ≤ n then 2 else 0

/-! ### RWS registers (R587, R590, R591) -/

/-- Change alarm 0 or 1. -/
def setAlarm (s : State) (n : Nat) (f : Alarm → Alarm) : State :=
  setBkd s fun b => if n = 0 then { b with alm0 := f b.alm0 } else { b with alm1 := f b.alm1 }

/-- An alarm. -/
def alarm (s : State) (n : Nat) : Alarm := if n = 0 then s.bkd.alm0 else s.bkd.alm1

/-- One RWS write takes effect; its reserved bits are dropped (R9). -/
def rwsApply (s : State) (p : Nat × Nat) : State :=
  let (o, v) := p
  if o = 0x3020 then setBkd s fun b => { b with modeB := bit v 0, vsw := v / 2 % 16 }
  else if o = 0x3044 then setBkd s fun b => { b with policy := v % 2, maxOff := v / 65536 % 65536 }
  else if o = 0x3048 then setBkd s fun b => { b with stepLimit := v % 131072 }
  else
    let n := if o < 0x3070 then 0 else 1
    setAlarm s n fun a => match o % 16 with
      | 0 => { a with time := v % 64 + 256 * (v / 256 % 64) + 65536 * (v / 65536 % 32) + 16777216 * (v / 16777216 % 8), since := nowTick s }
      | 4 => { a with date := v % 32 + 256 * (v / 256 % 16) + 65536 * (v / 65536 % 4096), since := nowTick s }
      | _ => { a with ctrl := v % 8 + 256 * (v / 256 % 128), since := nowTick s }

/-- Fields of an RWS write lie in their ranges (Table REG.5, R587); reserved bits are ignored (R9). -/
def rwsOk (o v : Nat) : Bool :=
  if o = 0x3020 then decide (v / 2 % 16 ≤ 12)
  else if o = 0x3044 then decide (1 ≤ v / 65536 % 65536)
  else if o = 0x3048 then decide (1 ≤ v % 131072 ∧ v % 131072 ≤ 86400)
  else match o % 16 with
    | 0 => decide (v % 64 ≤ 59 ∧ v / 256 % 64 ≤ 59 ∧ v / 65536 % 32 ≤ 23 ∧ 1 ≤ v / 16777216 % 8)
    | 4 => decide (1 ≤ v % 32 ∧ 1 ≤ v / 256 % 16 ∧ v / 256 % 16 ≤ 12 ∧ 2000 ≤ v / 65536 % 4096 ∧ v / 65536 % 4096 ≤ 2199)
    | _ => true

/-- A write to an RWS register: pending until the next tick, or ignored with EV_HIF_BAD_ACCESS (R587). -/
def rwsWrite (s : State) (o v : Nat) : State :=
  if rwsOk o v then setBkd s fun b => { b with rws := b.rws ++ [(o, v)] } else badAccessEvent s 0 0 o true

/-- BKD_SWITCH_CTRL (R590). -/
def execBkdSwitchCtrl (v : Nat) (s : State) : Out := .next (whenRunning s fun s => rwsWrite s 0x3020 v)

/-- BKD_PWRON_CTRL (R590). -/
def execBkdPwronCtrl (v : Nat) (s : State) : Out := .next (whenRunning s fun s => rwsWrite s 0x3044 v)

/-- BKD_TIME_CTRL (R590). -/
def execBkdTimeCtrl (v : Nat) (s : State) : Out := .next (whenRunning s fun s => rwsWrite s 0x3048 v)

/-- A write to ALMn_TIME, ALMn_DATE or ALMn_CTRL, registers 0 to 2 of alarm n (R591). -/
def execAlarmRegisterWrite (n reg v : Nat) (s : State) : Out :=
  .next (whenRunning s fun s => if n < 2 ∧ reg < 3 then rwsWrite s (0x3060 + 16 * n + 4 * reg) v else s)

/-- Advance the tick counter; at a change of tick the RWS writes before it take effect. -/
def advanceTick (s : State) (k : Nat) : State :=
  if k = 0 then s
  else s.bkd.rws.foldl rwsApply (setBkd s fun b => { b with tick := b.tick + k, rws := [] })

/-- One edge of the clock that the tick counter runs from: the 32 kHz crystal with its correction, or the reference crystal; none
while the crystal is stopped and VDD33 is absent (R64, R65, R68).  With it ends a second of the channels that sound (R444). -/
def crystalEdge (s : State) : State :=
  if s.bkd.crystalStopped ∧ !s.bkd.fromRef then s
  else
    let k := if s.bkd.fromRef then 1 else edgeTicks s.bkd.corrN s.bkd.edge
    let s1 := advanceTick (setBkd s fun b => { b with edge := b.edge + 1 }) k
    if (annSounds s 0 || annSounds s 1) && decide (s1.bkd.tick / 32768 ≠ s.bkd.tick / 32768) then
      whenRunning s1 fun s1 => clipSecond (clipSecond s1 0) 1
    else s1

/-! ### Alarms (R74, R75) -/

/-- The instant an alarm compares with, of a UTC second: UTC, or local time (Table REG.5 MODE). -/
def alarmTime (s : State) (a : Alarm) (sec : Int) : Int :=
  let utc := sec * 32768
  if bit a.ctrl 1 then (localAt s utc).1 else utc

/-- An enabled alarm matches a UTC second: each field matches or is masked. -/
def alarmAt (s : State) (a : Alarm) (sec : Int) : Bool :=
  let t := alarmTime s a sec
  if !bit a.ctrl 0 ∨ t < 0 ∨ (calendarEnd : Int) < t then false
  else
    let x := t.toNat
    let day := x / dayTicks
    let ok := fun (k v w : Nat) => bit a.ctrl (8 + k) || v == w
    ok 0 (secondOf x) (a.time % 64) && ok 1 (minuteOf x) (a.time / 256 % 64) && ok 2 (hourOf x) (a.time / 65536 % 32) &&
      ok 3 (weekday day) (a.time / 16777216 % 8) && ok 4 (dayOf day) (a.date % 32) && ok 5 (monthOf day) (a.date / 256 % 16) &&
      ok 6 (yearOf day) (a.date / 65536 % 4096)

/-- Some of the `n` seconds after `sec` matches an enabled alarm. -/
def alarmPassed (s : State) (a : Alarm) (sec : Int) : Nat → Bool
  | 0 => false
  | n + 1 => alarmAt s a (sec + n + 1) || alarmPassed s a sec n

/-- An alarm fires: EV_BKD_ALARM while the hub runs, and PWRON is released by a wake source (R74, R82). -/
def fireAlarm (s : State) (n : Nat) (stepped : Bool) : State :=
  let s1 := if bit (alarm s n).ctrl 2 then setBkd s fun b => { b with pwronLow := false } else s
  if running s then raise s1 { id := 0x104, data := Config.eventData 0x104 [(n : Nat), (tt s : Nat), if stepped then 1 else 0] } else s1

/-- The UTC second now. -/
def utcSecond (s : State) : Int := utcTicks s / 32768

/-- ALARM_MATCH (R74, R75, R591): the second has changed to a matching value, at a tick later than the alarm's last write took
effect. -/
def execAlarmMatch (n : Nat) (s : State) : Out :=
  .next (settle (let a := alarm s n
    let sec := utcSecond s
    if 2 ≤ n ∨ a.last = some sec ∨ !alarmAt s a sec ∨ sec * 32768 - s.bkd.epoch ≤ (a.since : Int) then s
    else
      let stepped := match s.bkd.stepBack with
        | some t => decide (sec * 32768 ≤ t)
        | none => false
      fireAlarm (setAlarm s n fun x => { x with last := some sec }) n stepped))

/-- What a time set does to an alarm (R75). -/
def stepAlarm (s : State) (n : Nat) (old new : Int) : State :=
  let a := alarm s n
  if new < old then setAlarm s n fun x => { x with last := none }
  else if bit a.ctrl 0 && alarmPassed s a (old / 32768) (new / 32768 - old / 32768).toNat then
    fireAlarm (setAlarm s n fun x => { x with last := some (new / 32768) }) n true
  else s

/-! ### The calendar view (R70–R73) -/

/-- Second, minute, hour and weekday of a clamped instant as SH2 shows them. -/
def timeWord (t : Nat) : Nat := secondOf t + 256 * minuteOf t + 65536 * hourOf t + 16777216 * weekday (t / dayTicks)

/-- Day, month and year as SH3 shows them. -/
def dateWord (t : Nat) : Nat := dayOf (t / dayTicks) + 256 * monthOf (t / dayTicks) + 65536 * yearOf (t / dayTicks)

/-- The six shadow words (Table REG.5), without SH_VALID. -/
def shadowWords (s : State) : List Nat :=
  let u := clampTime (utcTicks s)
  let l := localAt s (utcTicks s)
  let lt := clampTime l.1
  [nowTick s % 4294967296, nowTick s / 4294967296 % 65536 + flag (calRange s) 16, timeWord u, dateWord u,
   timeWord lt + flag l.2 27, dateWord lt + 268435456 * tt s + (if s.bkd.freeze.isSome then 2147483648 else 0)]

/-- An answer to a register read of the host. -/
def answer (s : State) (f v : Nat) : State := { s with hif := { s.hif with out := s.hif.out ++ [.read f v] } }

/-- BKD_RTC_SH0 (R73): a read captures all six shadows at one tick and starts the freeze. -/
def execBkdRtcSh0 (s : State) : Out :=
  .next (whenRunning s fun s =>
    let s1 := setBkd s fun b => { b with freeze := some (b.tick, []) }
    answer (setBkd s1 fun b => { b with freeze := some (b.tick, shadowWords s1) }) 0 (nth 0 (shadowWords s1) 0))

/-- SHADOW_FREEZE_EXPIRE (R73): 1 ms after the capture. -/
def execShadowFreezeExpire (s : State) : Out :=
  .next (match s.bkd.freeze with
    | some f => if f.1 + 33 ≤ nowTick s then setBkd s fun b => { b with freeze := none } else s
    | none => s)

/-- READ_TIME (R515): TICKS and STAMP at one instant; the calendar offsets when there is a buffer for them. -/
def execReadTime (d : Desc) (s : State) : Out :=
  .next (hostCmd s d 0x0201 true fun s =>
    let result := le 6 (nowTick s) ++ le 7 (nowStamp s) ++ le 1 (clkTt s) ++ le 1 (osfByte s (calRange s))
    if d.dlen = 0 then reply s d stOk result
    else replyOut s d (leInt 8 s.bkd.epoch ++ leInt 1 (signed 8 (calField s 0 1)) ++ le 1 (flag (localAt s (utcTicks s)).2 0) ++ zeros 6) result)

/-! ### Time set (R80, R81) -/

/-- TIME_CHALLENGE (R80, R515): a fresh nonce of 16 bytes. -/
def execTimeChallenge (d : Desc) (s : State) : Out :=
  .next (hostCmd s d 0x0202 false fun s =>
    checked s d [by0 d, (drbgUp s, stRngFail)] fun s =>
      let (v, s1) := drbgValue s
      let n := v % 2 ^ 128
      reply (setBkd s1 fun b => { b with nonce := some (n, b.tick) }) d stOk (le 16 n))

/-- An accepted time set (R75, R77, R80): EPOCH_OFFSET changes, OSF clears and VBAT is armed anew; the event, the legal log, the
chains, the alarms and the tariff engine follow. -/
def applyTime (s : State) (utc : Int) : State :=
  let old := utcTicks s
  let oldTt := tt s
  let was := s.bkd.epoch
  let s1 := setBkd s fun b => { b with
    epoch := utc - (b.tick : Int), osf := false, causes := 0, causesShut := 0, vbatFrom := b.tick,
    stepBack := if utc < old then some old else none }
  let s1 := { s1 with ril := { s1.ril with skewed := false } }
  let s2 := raise s1 { id := 0x102, data := Config.eventData 0x102 [was, s1.bkd.epoch, (nowTick s : Nat)] }
  let s3 := dueTimeSet (legalLog s2 0x10 0 0xFFFF (leInt 8 (utc - old))) (utc - old) oldTt
  let s4 := stepAlarm (stepAlarm s3 0 old utc) 1 old utc
  let s5 := { s4 with pqe := { s4.pqe with freqStart := none } }
  reevaluateAll s5 (if oldTt = 1 then 2 else 3)

/-- The operator key's verification of a message (R80): slot 2 holds it. -/
def operatorSigned (s : State) (msg sig : Bytes) : Bool :=
  slotReady s 2 && Config.ecdsaVerify (keySlot s 2).mat (Config.sha256 msg) sig

/-- The checks of a time set, with their statuses, in the order of R80. -/
def timeChecks (s : State) (b : Bytes) : List (Bool × Nat) :=
  let utc := fld b 28 8
  let step := max ((utc : Int) - utcTicks s) (utcTicks s - (utc : Int))
  [(operatorSigned s (b.take 36) (slice b 36 64) && decide (fld b 0 2 = 0x5453 ∧ fld b 4 8 = Config.deviceId), stTimeAuth),
   (match s.bkd.nonce with
    | some n => fld b 12 16 == n.1 && decide (nowTick s < n.2 + 327680)
    | none => false, stTimeNonce),
   (decide (utc ≤ calendarEnd), stTimeRange),
   (s.bkd.osf || decide (step ≤ (secs s.bkd.stepLimit : Int)) || bit (fld b 2 2) 0, stTimeStep)]

/-- TIME_SET (R80). -/
def execTimeSet (d : Desc) (b : Bytes) (s : State) : Out :=
  .next (hostCmd s d 0x0203 true fun s =>
    checked s d [by0 d, (decide (100 ≤ d.dlen ∧ 100 ≤ b.length), stDataShort)] fun s =>
      let s1 := if operatorSigned s (b.take 36) (slice b 36 64) then setBkd s fun x => { x with nonce := none } else s
      match firstFail (timeChecks s b) with
      | some st => reply (raise s1 { id := 0x103, data := Config.eventData 0x103 [st] }) d st []
      | none =>
        let utc : Int := (fld b 28 8 : Nat)
        reply (applyTime s1 utc) d stOk (leInt 8 (utc - utcTicks s) ++ le 6 (nowTick s)))

/-! ### PWRON (R82) -/

/-- PWRON_MAX_OFF_EXPIRE (R82): MAX_OFF minutes after PWRON was driven low. -/
def execPwronMaxOffExpire (s : State) : Out :=
  .next (if s.bkd.pwronLow ∧ s.bkd.lowSince + s.bkd.maxOff * minuteTicks ≤ nowTick s then setBkd s fun b => { b with pwronLow := false } else s)

end Sys2Proof.Machine
end

