-- ==== Sys2Proof/Machine/Radio.lean ====
section
/-!
DEFINITION. The Campion radio: airtime accounts, the transmit queue, beacons and band switches, received frames, leases, raw mode,
and the commands that use it (16_campion_radio.md; R309, R346–R348, R521, R524).
-/
namespace Sys2Proof.Machine

/-- Change the radio. -/
def setCmp (s : State) (f : Cmp → Cmp) : State := { s with cmp := f s.cmp }

/-- The hub's EUI is its DEVICE_ID. -/
def hubEui : Nat := Config.deviceId

/-! ### Airtime (R409) -/

/-- One bit in thirds of a µs, by RATE. -/
def bitTime (rate : Nat) : Nat := if rate = 0 then 60 else if rate = 1 then 30 else 20

/-- Bits of a PPDU of `n` PSDU octets (R409). -/
def ppduBits (fec : Bool) (preamble n : Nat) : Nat :=
  8 * (preamble + 2) + if fec then 2 * ((8 * (2 + n) + 3 + 7) / 8 * 8) else 8 * (2 + n)

/-- Airtime of a PSDU in a band at a rate, in thirds of a µs. -/
def airtime (s : State) (band rate n : Nat) : Nat :=
  ppduBits (bit (bandField s band 0 1) 2) (bandField s band 22 1) n * bitTime rate

/-! ### Accounts (R411, R412) -/

/-- The account of a band in thirds of a µs: the buckets of the last 3,600 s (R411). -/
def account3 (s : State) (band : Nat) : Nat :=
  nsum (((tget [] s.cmp.account band).filter fun p => decide (nowSec s < p.1 + 3600)).map (·.2))

/-- BUDGET of a band in ms; 0 means no limit. -/
def budget (s : State) (band : Nat) : Nat := bandField s band 12 4

/-- Whether a frame of a class may start (R411). -/
def mayStart (s : State) (band air : Nat) (custody : Bool) : Bool :=
  let b := budget s band * 3000
  b == 0 || (if custody then decide (account3 s band + air ≤ b)
             else decide ((account3 s band + air) * 100 ≤ b * (100 - bandField s band 3 1)))

/-- The duty account of a band in retention SRAM: per-minute sums, in ms rounded up (Table BKD.6). -/
def dutyAdd (s : State) (band sec : Nat) : State :=
  let m := sec / 60
  let d := tget {} s.bkd.ret.duty band
  let old := d.minStart / (60 * 32768)
  let bs := (span 0 60).map fun i =>
    if m = old ∧ d.defined then nth 0 d.buckets i
    else if (span (old + 1) (min 60 (m - old))).any (fun x => x % 60 == i) ∨ !d.defined then 0 else nth 0 d.buckets i
  let total := nsum (((tget [] s.cmp.account band).filter fun p => p.1 / 60 == m).map (·.2))
  { s with bkd := { s.bkd with ret := { s.bkd.ret with
    duty := tput s.bkd.ret.duty band ⟨true, m % 60, m * 60 * 32768, setNth bs (m % 60) ((total + 2999) / 3000)⟩ } } }

/-- Book a transmission in the bucket it started in (R411). -/
def bookAir (s : State) (band sec air : Nat) : State :=
  let l := tget [] s.cmp.account band
  let l1 := match l with
    | (x, v) :: r => if x = sec then (x, v + air) :: r else (sec, air) :: l
    | [] => [(sec, air)]
  dutyAdd (setCmp s fun c => { c with account := tput c.account band l1 }) band sec

/-- The bindings of leased loggers (R412): their RADIO_BUDGET gaps follow the operating band's HOLD. -/
def holdGaps (s : State) (spent : Bool) : State :=
  (openChains s).foldl (fun a id =>
    match chainOf a id with
    | none => a
    | some c => (c.binds.filter fun p => a.cmp.leases.any fun l => l.2.eui == p.2.eui).foldl (fun b p => radioGap b id p.1 spent) a) s

/-- Account in ms, as EV_CMP_BUDGET and CMP_ACCOUNT give it. -/
def accountMs (s : State) (band : Nat) : Nat := account3 s band / 3000

/-- A custody-class frame has been refused: the band enters HOLD (R412). -/
def enterHold (s : State) (band : Nat) : State :=
  if s.cmp.hold.contains band then s
  else
    let s1 := raise (setCmp s fun c => { c with hold := c.hold ++ [band] }) { id := 0x706, data := le 1 band ++ le 1 0 ++ le 4 (accountMs s band) }
    if band = s.cmp.band then holdGaps s1 true else s1

/-- A band in HOLD resumes once its account is at 0.9 × BUDGET or below (R412). -/
def leaveHold (s : State) (band : Nat) : State :=
  if s.cmp.hold.contains band ∧ account3 s band * 10 ≤ budget s band * 3000 * 9 then
    let s1 := raise (setCmp s fun c => { c with hold := c.hold.filter (· != band) })
      { id := 0x706, data := le 1 band ++ le 1 1 ++ le 4 (accountMs s band) }
    if band = s.cmp.band then holdGaps s1 false else s1
  else s

/-- ACCOUNT_BUCKET_EXPIRE (R411, R412): buckets older than 3,600 s slide out. -/
def execAccountBucketExpire (band : Nat) (s : State) : Out :=
  .next (whenRunning s fun s =>
    leaveHold (setCmp s fun c => { c with account := tput c.account band ((tget [] c.account band).filter fun p => decide (nowSec s < p.1 + 3600)) }) band)

/-! ### Frames (R415, Tables CMP.3, CMP.4) -/

/-- The 14-byte header. -/
def frameHeader (s : State) (typ : Nat) (sec ackreq : Bool) (src dst kref kg fc : Nat) : Bytes :=
  le 1 (typ + flag sec 4 + flag ackreq 5) ++ le 2 (radioField s 2 2) ++ le 2 src ++ le 2 dst ++ le 1 (radioField s 5 1 % 16) ++
    le 1 kref ++ le 1 kg ++ le 4 fc

/-- Header bytes under the MIC: TTL lies outside (R415). -/
def authBytes (h : Bytes) : Bytes := slice h 0 7 ++ slice h 8 6

/-- The CCM nonce of a frame (R347). -/
def radioNonce (eui fc : Nat) : Bytes := le 8 eui ++ le 4 fc ++ [0]

/-- The PSDU of a frame, sealed when it has a slot, with its FCS. -/
def framePsdu (s : State) (f : TxFrame) (fc : Nat) : Bytes :=
  if f.raw then f.payload
  else
    let b := match f.sealSlot with
      | some k =>
        let h := frameHeader s f.typ true false 0 f.dst (k - 144) ((keySlot s k).kgen % 256) fc
        let key := match f.eui with
          | some e => loggerKey s k e
          | none => groupKey s k
        h ++ f.pfx ++ Config.ccmSeal key (radioNonce hubEui fc) (authBytes h ++ f.pfx) f.payload
      | none => frameHeader s f.typ false false 0 f.dst 0xFF Config.plainKg fc ++ f.pfx ++ f.payload
    b ++ le 4 (crc32 b)

/-- PSDU octets of a frame: header, payload, MIC when sealed, and FCS. -/
def frameLen (f : TxFrame) : Nat :=
  if f.raw then f.payload.length else 14 + f.pfx.length + f.payload.length + (if f.sealSlot.isSome then 8 else 0) + 4

/-- Queue a frame; its random back-off runs (R427). -/
def queueFrame (s : State) (f : TxFrame) : State :=
  setCmp s fun c => { c with queue := c.queue ++ [{ f with id := c.nextId }], nextId := c.nextId + 1 }

/-- A frame leaves the queue unsent: EV_CMP_LBT_DROP, and its command completes (R412, R413, R524).  CAUSE 0 BUSY, 1 BUDGET. -/
def dropFrame (s : State) (f : TxFrame) (cause : Nat) : State :=
  let (v, s0) := if f.raw then takeFree s else (f.typ, s)
  let s1 := raise (setCmp s0 fun c => { c with queue := c.queue.filter fun x => x.id != f.id })
    { id := 0x707, data := le 1 s.cmp.band ++ le 1 v ++ le 1 cause }
  if f.opc = 0 then s1 else completeWaiting s1 f.opc f.id (if cause = 0 then stRadioBusy else stRadioBudget) []

/-- Remove a frame silently. -/
def forgetFrame (s : State) (f : TxFrame) : State := setCmp s fun c => { c with queue := c.queue.filter fun x => x.id != f.id }

/-- Replace a queued frame. -/
def putFrame (s : State) (f : TxFrame) : State := setCmp s fun c => { c with queue := c.queue.map fun x => if x.id = f.id then f else x }

/-- Start a transmission: the frame is sealed under the next counter value of its slot (R347), and its command passes its commit
point. -/
def startTx (s : State) (f : TxFrame) : State :=
  let go := fun (a : State) (fc : Nat) =>
    let p := framePsdu a f fc
    let a1 := setCmp (forgetFrame a f) fun c =>
      { c with air := some ⟨f, p, c.band, c.ch, nowTick a, airtime a c.band c.rate p.length⟩ }
    { a1 with cmd := { a1.cmd with opens := a1.cmd.opens.map fun o => if o.opc = f.opc ∧ o.token = f.id ∧ f.opc ≠ 0 then { o with committed := true } else o } }
  match f.sealSlot with
  | none => go s (f.fc % 4294967296)
  | some k =>
    if !slotReady s k then forgetFrame s f
    else match ctrTake s (512 + k) with
      | (.value v, s1) => go s1 v
      | (.wait, s1) => s1
      | (.exhausted, s1) => forgetFrame s1 f

/-- Try to send a queued frame (R411–R413): nothing while the hub is on the air or silent; `busy` says that the listen of LBT
reached LBT_TH. -/
def tryFrame (s : State) (f : TxFrame) (busy : Bool) : State :=
  let b := s.cmp.band
  if s.cmp.air.isSome ∨ nowTick s < s.cmp.silentTill ∨ s.cmp.mode = 0 then s
  else if f.custody ∧ s.cmp.hold.contains b then forgetFrame s f
  else if !mayStart s b (airtime s b s.cmp.rate (frameLen f)) f.custody then
    (if f.custody then forgetFrame (enterHold s b) f else putFrame s { f with refused := f.refused.or (some (nowTick s)) })
  else if bit (bandField s b 0 1) 1 && busy then
    (if 8 ≤ f.deferrals then dropFrame s f 0 else putFrame s { f with deferrals := f.deferrals + 1 })
  else startTx s f

/-- A queued frame by its number. -/
def queued (s : State) (i : Nat) : Option TxFrame := s.cmp.queue.find? fun f => f.id == i

/-- TX_BACKOFF_EXPIRE (R427): the back-off of a queued frame has run out. -/
def execTxBackoffExpire (i : Nat) (busy : Bool) (s : State) : Out :=
  .next (whenRunning s fun s => match queued s i with
    | some f => tryFrame s f busy
    | none => s)

/-- LBT_DEFER_EXPIRE (R413): a deferral ends and the hub listens again; after 8 deferrals a busy channel drops the frame. -/
def execLbtDeferExpire (i : Nat) (busy : Bool) (s : State) : Out :=
  .next (whenRunning s fun s => match queued s i with
    | some f => if 0 < f.deferrals then tryFrame s f busy else s
    | none => s)

/-- BAND_SILENCE_END (R413): OFF_MS after a transmission the first queued frame is attempted. -/
def execBandSilenceEnd (busy : Bool) (s : State) : Out :=
  .next (whenRunning s fun s => match s.cmp.queue with
    | f :: _ => tryFrame s f busy
    | [] => s)

/-- GENERAL_FRAME_TIMEOUT (R412): a general-class frame refused for budget is dropped after 60 s. -/
def execGeneralFrameTimeout (i : Nat) (s : State) : Out :=
  .next (whenRunning s fun s => match queued s i with
    | some f => match f.refused with
      | some t => if t + secs 60 ≤ nowTick s then dropFrame s f 1 else s
      | none => s
    | none => s)

/-- Preamble time of a band in ticks: from the start of a transmission to its SFD. -/
def preambleTicks (s : State) (band : Nat) : Nat := 8 * bandField s band 22 1 * bitTime s.cmp.rate * 32768 / 3000000

/-- TRANSMISSION_END (R411, R413, R524): the airtime is booked, OFF_MS of silence begins, and the command completes. -/
def execTransmissionEnd (s : State) : Out :=
  .next (whenRunning s fun s => match s.cmp.air with
    | none => s
    | some a =>
      let s1 := bookAir (setCmp s fun c => { c with air := none, silentTill := nowTick s + (bandField s a.band 20 2 * 32768 + 999) / 1000 })
        a.band (a.start / 32768) a.air
      if a.frame.opc = 0 then s1
      else completeWaiting s1 a.frame.opc a.frame.id stOk
        (if a.frame.raw then le 6 (a.start + preambleTicks s a.band) ++ le 4 (roundDiv a.air 3).toNat else []))

/-- The levels of PA_EN and LNA_EN (R406). -/
def paEn (s : State) : Bool := running s && s.cmp.air.isSome
def lnaEn (s : State) : Bool := running s && s.cmp.mode != 0 && s.cmp.air.isNone

/-! ### Beacons and band switches (R428, R429) -/

/-- LOGGER slots that have a lease. -/
def leasedSlots (s : State) : List Nat := (span 144 112).filter fun k => s.cmp.leases.any fun p => p.2.slot == k

/-- The BEACON of the running interval (Table CMP.8). -/
def beaconFrame (s : State) : TxFrame :=
  { id := 0, typ := 0, dst := 0xFFFF, custody := true, sealSlot := none, eui := none, fc := s.cmp.bseq % 4294967296, pfx := [],
    payload := le 4 s.cmp.bseq ++ le 1 (radioField s 4 1) ++ le 1 s.cmp.band ++ le 1 s.cmp.ch ++
      le 1 (flag (bit (radioField s 6 1) 0) 0 + flag (bit (bandField s s.cmp.band 0 1) 3) 1) ++ le 1 (radioField s 5 1) ++ zeros 3 }

/-- A NOTICE of a band switch for a slot (Table CMP.4). -/
def noticeFrame (s : State) (k at_ : Nat) : TxFrame :=
  { id := 0, typ := 5, dst := 0xFFFF, custody := false, sealSlot := some k, eui := none, fc := 0, pfx := [],
    payload := le 1 1 ++ le 1 (radioField s 1 1) ++ le 1 (bandField s (radioField s 1 1) 11 1) ++ le 1 (bandField s (radioField s 1 1) 1 1) ++ le 4 at_ }

/-- BAND, CH and RATE of the radio object in force. -/
def objBand (s : State) : Nat × Nat × Nat :=
  (radioField s 1 1, bandField s (radioField s 1 1) 11 1, bandField s (radioField s 1 1) 1 1)

/-- Move to the settings of the radio object; the gaps follow the new band's HOLD (R429, and "HOLD and a band switch at once"). -/
def switchBand (s : State) : State :=
  let (b, c, r) := objBand s
  let was := s.cmp.hold.contains s.cmp.band
  let s1 := raise (setCmp s fun x => { x with band := b, ch := c, rate := r, switch := none })
    { id := 0x708, data := le 1 s.cmp.band ++ le 1 s.cmp.ch ++ le 1 s.cmp.rate ++ le 1 b ++ le 1 c ++ le 1 r }
  let s2 := if was then holdGaps s1 false else s1
  if s2.cmp.hold.contains b then holdGaps s2 true else s2

/-- BEACON_INTERVAL (R428, R429): the sequence rises; a band switch that is due happens; NOTICEs go out in the three intervals after
the commit; no beacon is sent while the band is in HOLD. -/
def execBeaconInterval (s : State) : Out :=
  .next (whenRunning s fun s =>
    if s.cmp.mode ≠ 1 ∨ nowTick s < s.cmp.nextBeacon then s
    else
      let s1 := setCmp s fun c => { c with bseq := c.bseq + 1, nextBeacon := c.nextBeacon + secs (radioField s 4 1) }
      let s2 := match s1.cmp.switch with
        | some w =>
          if w.at_ ≤ s1.cmp.bseq then switchBand s1
          else if 0 < w.notices then
            (leasedSlots s1).foldl (fun a k => queueFrame a (noticeFrame a k w.at_))
              (setCmp s1 fun c => { c with switch := some { w with notices := w.notices - 1 } })
          else s1
        | none => s1
      if s2.cmp.hold.contains s2.cmp.band then s2 else queueFrame s2 (beaconFrame s2))

/-- Drop what is queued, completing the commands with ST_RADIO_MODE. -/
def flushQueue (s : State) : State :=
  s.cmp.queue.foldl (fun a f => if f.opc = 0 then a else completeWaiting a f.opc f.id stRadioMode []) (setCmp s fun c => { c with queue := [] })

/-- A committed radio object (R407, R429): MODE acts at once, with EV_CMP_STATE; in CAMPION mode a change of BAND, CH or RATE waits
for the beacon sequence of the commit plus 4. -/
def radioCommit (s : State) : State :=
  let m := radioField s 0 1
  let (b, c, r) := objBand s
  if m ≠ s.cmp.mode then
    let s1 := flushQueue s
    let s2 := setCmp s1 fun x => { x with mode := m, band := b, ch := c, rate := r, switch := none,
                                          nextBeacon := if m = 1 then nowTick s else x.nextBeacon }
    raise s2 { id := 0x700, data := le 1 s.cmp.mode ++ le 1 m }
  else if (b, c, r) = (s.cmp.band, s.cmp.ch, s.cmp.rate) then setCmp s fun x => { x with switch := none }
  else if m = 1 then setCmp s fun x => { x with switch := some ⟨x.bseq + 4, 3⟩ }
  else setCmp s fun x => { x with band := b, ch := c, rate := r }

/-! ### Raw records (R433, R434) -/

/-- One raw record (Table CMP.10). -/
def rawRecord (s : State) (f : RxFrame) (snoop : Bool) : Bytes :=
  le 6 (nowTick s) ++ le 7 (nowStamp s) ++ le 1 (clkTt s) ++ leInt 1 f.rssi ++
    le 1 (flag f.fcsOk 0 + flag f.fec 1 + 4 * f.rate + flag snoop 4) ++ le 1 s.cmp.ch ++ le 1 s.cmp.band ++ le 2 f.psdu.length ++ f.psdu

/-- Deliver a raw record to the RAW ring that RAW_RING names, or drop and count it. -/
def rawDeliver (s : State) (f : RxFrame) (snoop : Bool) : State :=
  let i := radioField s 12 1
  let q := ring s 0 i
  let r : StreamRec := ⟨0x30, 0, 0, 0, 0xFFFFFFFF, rawRecord s f snoop⟩
  let named := decide (i < 64) && q.typ == .raw && q.state == .active
  if named && q.dropping.isNone && mayStage s 0 (recSize r) then stageRec s 0 i r
  else
    let s1 := raise (setCmp s fun c => { c with rawDrops := c.rawDrops + 1 }) { id := 0x70A, data := le 4 (s.cmp.rawDrops + 1) }
    if named then stageRec s1 0 i r else s1

/-! ### Leases (R418–R420) -/

/-- The lease of an EUI: its short address and the lease. -/
def leaseOf (s : State) (eui : Nat) : Option (Nat × Lease) := s.cmp.leases.find? fun p => p.2.eui == eui

/-- LEASE_S in ticks. -/
def leaseTicks (s : State) : Nat := secs (radioField s 8 4)

/-- EV_CMP_LEASE: 0 EXPIRED, 1 RENEWED, 2 REVOKED. -/
def leaseEvent (s : State) (short : Nat) (l : Lease) (what : Nat) : State :=
  raise s { id := 0x703, data := le 8 l.eui ++ le 2 short ++ le 1 what }

/-- An opened frame restarts its sender's lease (Table CMP.5). -/
def renewLease (s : State) (eui : Nat) : State :=
  match leaseOf s eui with
  | none => s
  | some (h, l) =>
    let s1 := setCmp s fun c => { c with leases := tput c.leases h { l with state := 1, till := nowTick s + leaseTicks s } }
    if l.state = 2 then leaseEvent s1 h l 1 else s1

/-- LEASE_EXPIRE (Table CMP.5): LEASE_S without an opened frame. -/
def execLeaseExpire (short : Nat) (s : State) : Out :=
  .next (whenRunning s fun s => match tfind s.cmp.leases short with
    | some l => if l.state = 1 ∧ l.till ≤ nowTick s then
        leaseEvent (setCmp s fun c => { c with leases := tput c.leases short { l with state := 2, till := l.till + leaseTicks s } }) short l 0 else s
    | none => s)

/-- QUARANTINE_EXPIRE (Table CMP.5): LEASE_S further seconds. -/
def execQuarantineExpire (short : Nat) (s : State) : Out :=
  .next (whenRunning s fun s => match tfind s.cmp.leases short with
    | some l => if l.state = 2 ∧ l.till ≤ nowTick s then setCmp s fun c => { c with leases := tdel c.leases short } else s
    | none => s)

/-- The address a join is given (R418): when its tenant's range has a free address, the one the EUI has or last had unless another
node holds it, else the lowest free one of the range. -/
def freeShort (s : State) (eui tenant : Nat) : Option Nat :=
  let first := radioField s (272 + 4 * tenant) 2
  let count := radioField s (274 + 4 * tenant) 2
  let free := fun (h : Nat) => match tfind s.cmp.leases h with
    | some l => l.eui == eui
    | none => true
  match (span first count).find? free with
  | none => none
  | some lowest => match tfind s.cmp.lastShort eui with
    | some h => if free h then some h else some lowest
    | none => some lowest

/-! ### Received frames (R416, R417, R425, R348) -/

/-- EV_CMP_AUTH. -/
def authFail (s : State) (p : Bytes) (cause : Nat) : State :=
  raise s { id := 0x704, data := slice p 3 2 ++ slice p 8 1 ++ slice p 9 1 ++ le 1 (Config.radioAuthCause cause) }

/-- The slot a sealed frame names, or why it cannot be opened (R416): 0 GEN, 1 NOKEY. -/
def frameSlot (s : State) (p : Bytes) : Nat × Option Nat :=
  let k := 144 + fld p 8 1
  if 111 < fld p 8 1 ∨ !slotReady s k then (k, some 1) else if (keySlot s k).kgen % 256 ≠ fld p 9 1 then (k, some 0) else (k, none)

/-- Open a sealed frame of a sender (R415). -/
def openFrame (s : State) (p : Bytes) (k eui pfx : Nat) : Option Bytes :=
  Config.ccmOpen (loggerKey s k eui) (radioNonce eui (fld p 10 4)) (authBytes p ++ slice p 14 pfx) ((p.drop (14 + pfx)).take (p.length - 18 - pfx))

/-- The floor below which a sender's FC is refused, for the current generation of a slot (R348, R432). -/
def floorOf (s : State) (eui k : Nat) : Option Floor :=
  match tfind s.cmp.floors eui with
  | some f => if f.slot = k ∧ f.kgen = (keySlot s k).kgen then some f else none
  | none => none

/-- Whether an FC is accepted (R348). -/
def fcOk (s : State) (eui k fc : Nat) : Bool :=
  fc != 0xFFFFFFFF && (match floorOf s eui k with
    | some f => decide (f.fc < fc)
    | none => true)

/-- Accept an FC: the floor rises; near its end EV_KEY_COUNTER_LOW names the logger once (R348). -/
def acceptFc (s : State) (eui k fc : Nat) : State :=
  let f := (floorOf s eui k).getD ⟨k, (keySlot s k).kgen, 0, 0, false⟩
  let low := decide (0xFFF00000 ≤ fc)
  let s1 := setCmp s fun c => { c with floors := tput c.floors eui { f with fc := fc, low := f.low || low } }
  if low ∧ !f.low then raise s1 { id := 0x601, src := k, tenant := slotOwner s k, data := Config.eventData 0x601 [(k : Nat), ((keySlot s k).kgen : Nat), (eui : Nat)] } else s1

/-- The floor is archived with each custody record of its logger, and at a grant (R348, R420). -/
def archiveFloor (s : State) (eui : Nat) : State :=
  match tfind s.cmp.floors eui with
  | some f => setCmp s fun c => { c with floors := tput c.floors eui { f with archived := f.fc } }
  | none => s

/-- EV_CMP_REPLAY. -/
def replayed (s : State) (p : Bytes) (eui k : Nat) : State :=
  raise s { id := 0x705, data := slice p 3 2 ++ slice p 10 4 ++ le 4 ((floorOf s eui k).elim 0 (·.fc)) }

/-- JOIN_ACK (Table CMP.4); the spec gives SHORT and LEASE_S only for a grant, so they are free values in a refusal. -/
def joinAck (s : State) (k eui status : Nat) (relay : Bool) (short : Option Nat) : State :=
  let (v, s1) := match short with
    | some h => (h + 65536 * radioField s 8 4, s)
    | none => takeFree s
  queueFrame s1 { id := 0, typ := 2, dst := 0xFFFE, custody := false, sealSlot := some k, eui := some eui, fc := 0, pfx := le 8 eui,
                  payload := le 1 status ++ le 1 (flag relay 0) ++ le 2 v ++ le 4 (v / 65536) }

/-- JOIN_REJECT events: 0 FULL, 1 CLOSED, 2 AUTH (a fault). -/
def joinReject (s : State) (eui cause : Nat) : State := raise s { id := 0x702, star := cause == 2, data := le 8 eui ++ le 1 cause }

/-- A JOIN_REQ (R416, R418): it is opened, and a lease is granted or refused. -/
def takeJoin (s : State) (p : Bytes) : State :=
  let eui := fld p 14 8
  match frameSlot s p with
  | (_, some c) => joinReject (authFail s p c) eui 2
  | (k, none) =>
    match openFrame s p k eui 8 with
    | none => joinReject (authFail s p 3) eui 2
    | some body =>
      if !fcOk s eui k (fld p 10 4) then replayed s p eui k
      else
        let s1 := renewLease (acceptFc s eui k (fld p 10 4)) eui
        let owner := (keySlot s k).owner
        let relay := bit (fld body 0 1) 0 && bit (bandField s s.cmp.band 0 1) 3
        if !bit (radioField s 6 1) 0 then joinReject (joinAck s1 k eui 2 relay none) eui 1
        else if 4096 ≤ s1.cmp.leases.length ∧ (leaseOf s1 eui).isNone then joinReject (joinAck s1 k eui 1 relay none) eui 0
        else match freeShort s1 eui owner with
          | none => joinReject (joinAck s1 k eui 1 relay none) eui 0
          | some h =>
            let others := s1.cmp.leases.filter fun q => q.2.eui != eui
            let s2 := setCmp s1 fun c => { c with
              leases := tput others h ⟨eui, k, owner, 1, nowTick s + leaseTicks s⟩, lastShort := tput c.lastShort eui h }
            joinAck (raise (archiveFloor s2 eui) { id := 0x701, data := le 8 eui ++ le 2 h ++ le 2 k }) k eui 0 relay (some h)

/-- The readings of a DATA payload go to every chain the logger is bound to (R309, R427). -/
def takeReadings (s : State) (eui hops : Nat) (b : Bytes) : State :=
  (span 0 (fld b 0 1)).foldl (fun a r =>
    let o := 4 + 20 * r
    (openChains a).foldl (fun x id =>
      match chainOf x id with
      | none => x
      | some c => (c.binds.filter fun q => q.2.eui == eui).foldl (fun y q =>
          archiveFloor (loggerReading y id q.1 (fld b o 4) (fld b (o + 4) 4) (fld b (o + 8) 1) (slice b (o + 10) 8) (bit (fld b (o + 9) 1) 1)
            (decide (0 < hops))) eui) x) a) s

/-- A DATA frame (R416): opened under the EUI leased to SRC, checked against its floor, recorded and acknowledged. -/
def takeData (s : State) (p : Bytes) : State :=
  match frameSlot s p with
  | (_, some c) => authFail s p c
  | (k, none) =>
    match tfind s.cmp.leases (fld p 3 2) with
    | none => authFail s p 2
    | some l =>
      match openFrame s p k l.eui 0 with
      | none => authFail s p 3
      | some b =>
        if !fcOk s l.eui k (fld p 10 4) then replayed s p l.eui k
        else
          let s1 := renewLease (acceptFc s l.eui k (fld p 10 4)) l.eui
          if fld b 0 1 = 0 ∨ 6 < fld b 0 1 ∨ b.length < 4 + 20 * fld b 0 1 then s1
          else
            let s2 := takeReadings s1 l.eui (fld p 7 1 / 16) b
            let hi := (span 0 (fld b 0 1)).foldl (fun m r => max m (fld b (4 + 20 * r) 4)) 0
            if bit (fld p 0 1) 5 then
              queueFrame s2 { id := 0, typ := 4, dst := fld p 3 2, custody := true, sealSlot := some k, eui := some l.eui, fc := 0, pfx := [],
                              payload := slice p 10 4 ++ le 4 hi }
            else s2

/-- A Campion frame of this network (R415): its NET, a known TYPE, and the SEC of Table CMP.4. -/
def campion (s : State) (p : Bytes) : Bool :=
  let t := fld p 0 1 % 16
  decide (18 ≤ p.length) && fld p 1 2 == radioField s 2 2 && decide (t ≤ 7) && (bit (fld p 0 1) 4 == !(t == 0 || t == 6))

/-- The key of a frame in the seen cache (R425). -/
def seenKey (p : Bytes) : Nat × Nat × Nat × Nat :=
  (if fld p 3 2 = 0xFFFE then fld p 14 2 else fld p 3 2, fld p 9 1, fld p 10 4, fld p 0 1 % 16)

/-- Act on a received frame with the service cores up (R416–R418, R425, R433, R434). -/
def process (s : State) (f : RxFrame) : State :=
  let p := f.psdu
  if s.cmp.mode = 2 then rawDeliver s f false
  else if s.cmp.mode ≠ 1 then s
  else if !f.fcsOk ∨ !campion s p then
    let s1 := setCmp s fun c => { c with foreign := c.foreign + 1 }
    if bit (radioField s 6 1) 1 then rawDeliver s1 f true else s1
  else
    let live := s.cmp.seen.filter fun e => decide (nowTick s < e.2 + secs 60)
    if live.any fun e => e.1 == seenKey p then s
    else
      let s1 := setCmp s fun c => { c with seen := ((seenKey p, nowTick s) :: live).take 1024 }
      if fld p 5 2 ≠ 0 then s1
      else if fld p 0 1 % 16 = 1 then takeJoin s1 p
      else if fld p 0 1 % 16 = 3 then takeData s1 p else s1

/-- Receive a frame: processed, or queued while the service cores are down, up to 512 (R435). -/
def receive (s : State) (f : RxFrame) : State :=
  if s.cmp.mode = 0 ∨ s.cmp.air.isSome then s
  else if !s.pwr.serviceDown then process s f
  else if s.cmp.rxq.length < 512 then setCmp s fun c => { c with rxq := c.rxq ++ [f] }
  else raise (setCmp s fun c => { c with rxLost := c.rxLost + 1 }) { id := 0x709, data := le 4 (s.cmp.rxLost + 1) }

/-- The queued frames are processed when the service cores return. -/
def drainRx (s : State) : State := s.cmp.rxq.foldl process (setCmp s fun c => { c with rxq := [], rxLost := 0 })

/-- JOIN_REQ (R418): the PSDU of a logger's frame with a good FCS. -/
def execJoinReq (psdu : Bytes) (rssi : Int) (s : State) : Out :=
  .next (whenRunning s fun s => receive s ⟨psdu, rssi, true, bit (bandField s s.cmp.band 0 1) 2, s.cmp.rate⟩)

/-- DATA (R416): the PSDU of a logger's frame with a good FCS. -/
def execData (psdu : Bytes) (rssi : Int) (s : State) : Out :=
  .next (whenRunning s fun s => receive s ⟨psdu, rssi, true, bit (bandField s s.cmp.band 0 1) 2, s.cmp.rate⟩)

/-- RAW_PPDU (R408, R433, R434): a PPDU of any content; one that uses an unsupported option is counted and discarded. -/
def execRawPpdu (psdu : Bytes) (rssi : Int) (fcsOk supported : Bool) (s : State) : Out :=
  .next (whenRunning s fun s =>
    if !supported then setCmp s fun c => { c with badPhy := c.badPhy + 1 }
    else receive s ⟨psdu, rssi, fcsOk, bit (bandField s s.cmp.band 0 1) 2, s.cmp.rate⟩)

/-! ### Start (R420, R435) -/

/-- The account of a band as retention SRAM gives it: each minute's sum counts as spent at the end of its minute; a block that is not
valid is fully spent at the restart tick (R85, R435). -/
def accountFrom (s : State) (band : Nat) (valid : Bool) : List (Nat × Nat) :=
  let d := tget {} s.bkd.ret.duty band
  if !valid then [(nowSec s, budget s band * 3000)]
  else if !d.defined then []
  else
    let m := d.minStart / (60 * 32768)
    (span 0 60).filterMap fun j =>
      let v := nth 0 d.buckets ((m + 60 - j) % 60)
      if v = 0 ∨ m < j then none else some ((m - j) * 60 + 60, v * 3000)

/-- The radio at a CHIP start or a radio restart (R435), with the bands whose duty account is invalid; the transmit counters are advanced by the key store. -/
def radioStart (s : State) (bad : List Nat) : State :=
  let (b, c, r) := objBand s
  let m := radioField s 0 1
  let s1 := { s with cmp := {
    mode := m, band := b, ch := c, rate := r, nextBeacon := nowTick s, nextId := s.cmp.nextId
    account := (span 0 8).map fun i => (i, accountFrom s i (!bad.contains i))
    leases := tmap (fun _ l => { l with state := 1, till := nowTick s + leaseTicks s }) s.cmp.leases
    lastShort := s.cmp.lastShort
    floors := tmap (fun _ f => { f with fc := f.archived }) s.cmp.floors } }
  let full := decide (budget s b ≠ 0) && decide (budget s b * 3000 ≤ account3 s1 b)
  if m = 1 ∧ full then enterHold s1 b else s1

/-! ### Commands (R309, R419, R421, R431, R521, R524) -/

/-- A lease entry (Table CMD.20). -/
def leaseEntry (s : State) (h : Nat) (l : Lease) : Bytes :=
  le 8 l.eui ++ le 2 h ++ le 2 l.slot ++ le 1 l.tenant ++ le 1 l.state ++ le 4 ((l.till - nowTick s + 32767) / 32768) ++
    le 4 ((floorOf s l.eui l.slot).elim 0 (·.fc)) ++ zeros 2

/-- LEASE_LIST (R524): the leases in the issuer's scope from a short address on. -/
def execLeaseList (d : Desc) (first count : Nat) (s : State) : Out :=
  .next (hostCmd s d 0x0B01 true fun s =>
    checked s d [(decide (1 ≤ count ∧ count ≤ 4096), stBadArg)] fun s =>
      let l := s.cmp.leases.filter fun p => decide (first ≤ p.1) && (d.tenant == 0 || p.2.tenant == d.tenant)
      replyOut s d ((l.take count).flatMap fun p => leaseEntry s p.1 p.2) (le 2 (((l.drop count).head?).elim 0 (·.1))))

/-- CMP_REVOKE (R419): the lease becomes FREE; LEAVE is sent while the slot holds a key. -/
def execCmpRevoke (d : Desc) (eui : Nat) (s : State) : Out :=
  .next (hostCmd s d 0x0B02 false fun s =>
    checked s d [by0 d, ((leaseOf s eui).isSome, stNotFound)] fun s =>
      match leaseOf s eui with
      | none => s
      | some (h, l) =>
        let s1 := if s.cmp.mode = 1 ∧ slotReady s l.slot then
            queueFrame s { id := 0, typ := 7, dst := h, custody := false, sealSlot := some l.slot, eui := some eui, fc := 0, pfx := [], payload := zeros 4 }
          else s
        reply (leaseEvent (setCmp s1 fun c => { c with leases := tdel c.leases h }) h l 2) d stOk [])

/-- CMP_PUSH (R431, R524): an issuer's blob of at most 200 bytes (R489) goes out as REKEY, unopened; FC of that unsealed frame is a free value. -/
def execCmpPush (d : Desc) (short kslot : Nat) (data : Bytes) (s : State) : Out :=
  .next (hostCmd s d 0x0B03 true fun s =>
    if 200 < d.dlen then descBad s d 0x0B03 stDescFormat
    else
    let lease := tfind s.cmp.leases short
    checked s d [(slotKind kslot == some 9 && (keySlot s kslot).valid && (keySlot s kslot).owner == d.tenant, stNotPermitted),
      (decide (1 ≤ d.dlen ∧ d.dlen ≤ data.length), stDataShort), (lease.elim false fun l => l.slot == kslot, stNotFound),
      (s.cmp.mode == 1, stRadioMode)] fun s =>
      let (v, s1) := takeFree s
      let i := s1.cmp.nextId
      defer (queueFrame s1 { id := 0, typ := 6, dst := short, custody := false, sealSlot := none, eui := none, fc := v, pfx := [],
                             payload := data.take d.dlen, opc := 0x0B03 }) d 0x0B03 i [] false [] [])

/-- RADIO_TX (R433, R524): a raw PSDU of at most 255 bytes (R489), under general class, LBT and OFF_MS. -/
def execRadioTx (d : Desc) (data : Bytes) (s : State) : Out :=
  .next (hostCmd s d 0x0B04 true fun s =>
    if 255 < d.dlen then descBad s d 0x0B04 stDescFormat
    else
    checked s d [by0 d, (decide (1 ≤ d.dlen ∧ d.dlen ≤ data.length), stDataShort), (s.cmp.mode == 2, stRadioMode)] fun s =>
      let i := s.cmp.nextId
      defer (queueFrame s { id := 0, raw := true, typ := 0, dst := 0, custody := false, sealSlot := none, eui := none, fc := 0, pfx := [],
                            payload := data.take d.dlen, opc := 0x0B04 }) d 0x0B04 i [] false [] [])

/-- RADIO_TX_FAULT (R436): synthesiser unlock or PA overload. -/
def execRadioTxFault (kind : Nat) (s : State) : Out := .next (whenRunning s fun s => raise s { id := 0x70B, data := le 1 kind })

/-- The session of a custody command is open. -/
def custodyOpen (s : State) (id : Nat) : Bool :=
  (chainOf s id).elim false fun c => !c.closed && ((sessionById s id).elim false Session.isOpen)

/-- The issuer may act on a chain: tenant 0, or the session's tenant. -/
def custodyBy (s : State) (d : Desc) (id : Nat) : Bool × Nat :=
  (d.tenant == 0 || (chainOf s id).elim false fun c => c.tenant == d.tenant, stNotPermitted)

/-- CUSTODY_BIND (R309, R421, R521): a logger already bound is answered with its binding. -/
def execCustodyBind (d : Desc) (id short : Nat) (s : State) : Out :=
  .next (hostCmd s d 0x0801 false fun s =>
    let c := chainOf s id
    let binds := c.elim [] (·.binds)
    let lease := tfind s.cmp.leases short
    let bound := binds.find? fun p => p.2.short == short && (lease.elim true fun l => l.eui == p.2.eui)
    let mine := lease.elim false fun l => (keySlot s l.slot).owner == 0 || (keySlot s l.slot).owner == c.elim 0 (·.tenant)
    checked s d [custodyBy s d id, (custodyOpen s id, stNotFound), (!(c.elim false (·.full)), stBadState),
      (bound.isSome || mine, stNotPermitted), (bound.isSome || decide (binds.length < 4), stCusBindFull)] fun s =>
      match bound with
      | some p => reply s d stOk (le 1 p.1)
      | none =>
        let (s1, i) := bindLogger s id short (lease.elim 0 (·.eui))
        reply s1 d stOk (le 1 i))

/-- CUSTODY_UNBIND (R309, R521). -/
def execCustodyUnbind (d : Desc) (id i : Nat) (s : State) : Out :=
  .next (hostCmd s d 0x0802 false fun s =>
    let c := chainOf s id
    checked s d [custodyBy s d id, (decide (i < 4), stBadArg), (custodyOpen s id && c.elim false (fun x => thas x.binds i), stNotFound),
      (!(c.elim false (·.full)), stBadState)] fun s => reply (unbindLogger s id i) d stOk [])

end Sys2Proof.Machine
end

