-- ==== Sys2Proof/Machine/HostLink.lean ====
section
/-!
DEFINITION. The host link: the PCIe link and its functions, MSI-X, host contexts and their teardowns (18_host_tenants.md).
-/
namespace Sys2Proof.Machine

/-- Replace a function's configuration state. -/
def setFunc (s : State) (f : Nat) (x : Func) : State := { s with hif := { s.hif with funcs := tput s.hif.funcs f x } }

/-- Forget a function's configuration state, as its reset does; AER status is sticky. -/
def clearFunc (s : State) (f : Nat) : State := setFunc s f { aerCorr := (func s f).aerCorr, aerUncorr := (func s f).aerUncorr }

/-- The host can reach a function: it exists, and above function 7 only with ARI (R459, R460). -/
def reachable (s : State) (f : Nat) : Bool := funcExists s f && (s.hif.ari || decide (f ≤ 7))

/-! ### MSI-X (R462) -/

/-- MSIX_UNMASK (R462): a pending message is sent once. -/
def execMsixUnmask (f v : Nat) (s : State) : Out :=
  .next (whenRunning s fun s =>
    let x := func s f
    let s1 := setFunc s f { x with vmask := clearBit x.vmask v }
    if bit x.pending v && x.msixEnable && x.bme && !x.funcMask then sendMsi (setFunc s1 f { x with vmask := clearBit x.vmask v, pending := clearBit x.pending v }) f v
    else s1)

/-! ### The link (R457, R472) -/

/-- PERST_N_LOW (R472). -/
def execPerstNLow (s : State) : Out :=
  .next (let s1 := { s with hif := { s.hif with perst := false } }
    if running s ∧ s.hif.perst then settle (hifReset (inform s1 { id := 0x782, data := le 1 0 })) else s1)

/-- PERST_N_HIGH (R457): training starts within 20 ms, once start-up allows it. -/
def execPerstNHigh (s : State) : Out :=
  .next (let s1 := { s with hif := { s.hif with perst := true } }
    if running s ∧ !s.hif.perst then
      settle (inform { s1 with hif := { s1.hif with trainBy := some (nowTick s + trainTicks) } } { id := 0x782, data := le 1 1 })
    else s1)

/-- LINK_DOWN (R472). -/
def execLinkDown (s : State) : Out := .next (whenRunning s hifReset)

/-- HOT_RESET (R472). -/
def execHotReset (s : State) : Out := .next (whenRunning s hifReset)

/-- LINK_STATE_CHANGE (R457): EV_HIF_LINK at every change; a link that comes up below 8.0 GT/s or x2 is degraded, and used. -/
def execLinkStateChange (up : Bool) (rate width : Nat) (s : State) : Out :=
  .next (whenRunning s fun s =>
    if !s.hif.perst ∨ (up = s.hif.linkUp ∧ (!up ∨ (rate = s.hif.rate ∧ width = s.hif.width))) then s
    else if !up then hifReset s
    else
      let s1 := { s with hif := { s.hif with linkUp := true, rate := rate, width := width, trainBy := none } }
      let s2 := inform s1 { id := 0x780, data := le 1 1 ++ le 1 rate ++ le 1 width }
      if rate < 3 ∨ width < 2 then raise s2 { id := 0x781, data := le 1 rate ++ le 1 width } else s2)

/-! ### Functions (R459, R460, R464, R465) -/

/-- Remove the functions of VFs that cease to exist, with their teardowns (Table HIF.4). -/
def dropVfs (s : State) (num : Nat) : State :=
  (span (num + 1) (255 - num)).foldl (fun a f =>
    if funcExists s f then beginTeardown (clearFunc a f) f 0 3 false else a) s

/-- FLR (R465): of VF n, KIND 0; of PF0, KIND 1 for every tenant, with VF Enable cleared. -/
def execFlr (f : Nat) (s : State) : Out :=
  .next (whenRunning s fun s =>
    if !funcExists s f ∨ !s.hif.linkUp then s
    else
      let s1 := inform s { id := 0x783, data := le 2 f }
      if f = 0 then
        let s2 := beginTeardownAll s1 1 6
        { s2 with hif := { s2.hif with vfEnable := false, numVfs := 0, funcs := tmap (fun _ x => { aerCorr := x.aerCorr, aerUncorr := x.aerUncorr }) s2.hif.funcs } }
      else beginTeardown (clearFunc s1 f) f 0 0 false)

/-- BUS_MASTER_ENABLE_CLEARED (R465). -/
def execBusMasterEnableCleared (f : Nat) (s : State) : Out :=
  .next (whenRunning s fun s =>
    if funcExists s f && (func s f).bme then beginTeardown (setFunc s f { func s f with bme := false }) f 0 1 false else s)

/-- D3HOT_ENTRY (R465). -/
def execD3hotEntry (f : Nat) (s : State) : Out :=
  .next (whenRunning s fun s =>
    if funcExists s f && !(func s f).d3 then
      beginTeardown (inform (setFunc s f { func s f with d3 := true }) { id := 0x78C, data := le 2 f ++ le 1 3 }) f 0 2 false
    else s)

/-- VF_ENABLE_CHANGE (R459, R460): VFs come to exist, or cease and are torn down. -/
def execVfEnableChange (enable : Bool) (num : Nat) (ari : Bool) (s : State) : Out :=
  .next (whenRunning s fun s =>
    let keep := if enable then min 255 num else 0
    let s1 := dropVfs s keep
    let s2 := { s1 with hif := { s1.hif with vfEnable := enable, numVfs := min 255 num, ari := ari } }
    if enable ∧ !s.hif.vfEnable ∧ 7 < num ∧ !ari then raise s2 { id := 0x78D, data := le 2 num } else s2)

/-- FUNCTION_LIVE (R464): the function is in D0 with Memory Space Enable and Bus Master Enable set; a DETACHED tenant attaches. -/
def execFunctionLive (f : Nat) (msix : Bool) (vmask : Nat) (s : State) : Out :=
  .next (whenRunning s fun s =>
    if !reachable s f ∨ !s.hif.linkUp then s
    else
      let s1 := if (func s f).d3 then inform s { id := 0x78C, data := le 2 f ++ le 1 0 } else s
      let s2 := setFunc s1 f { func s1 f with d3 := false, mse := true, bme := true, msixEnable := msix, vmask := vmask }
      if (ctx s2 f).state = .detached then setCtxState s2 f .attached else s2)

/-! ### Teardown (R466–R468, R500) -/

/-- Records of a page ring that the host will not see: staged, placed in a page it never named, or dropped and not yet reported. -/
def ringLoss (g : Option GapNote) (r : Ring) (now : Nat) : Option GapNote :=
  let recs := (r.page.elim [] (·.recs)) ++ r.staged
  let g1 := (recs.filter fun x => x.sfl % 2 == 0 && x.rkind != 0x40).foldl (fun a x => some (gapAdd a x.aseq now)) g
  match r.dropping, g1 with
  | none, y => y
  | some d, none => some d
  | some d, some y => some ⟨if y.first = 0 then d.first else if d.first = 0 then y.first else min d.first y.first, max d.last y.last,
      y.dropped + d.dropped, y.unarch + d.unarch, min d.fromTicks y.fromTicks⟩

/-- Undelivered records of an EVT ring as a range of ESEQs. -/
def evtLoss (l : Option (Nat × Nat × Nat)) (r : Ring) : Option (Nat × Nat × Nat) :=
  let add := fun (a : Option (Nat × Nat × Nat)) (x : Nat × Nat × Nat) => match a with
    | none => some x
    | some y => some (min y.1 x.1, max y.2.1 x.2.1, y.2.2 + x.2.2)
  let l1 := match r.lost with
    | some x => add l x
    | none => l
  (r.held.filter fun e => !isRetract e).foldl (fun a e => add a (e.eseq, e.eseq, 1)) l1

/-- Discard a tenant's rings (R466 step 4), keeping what R395, R468 and R500 report later. -/
def discardRings (s : State) (t : Nat) : State :=
  let mine := (s.rng.rings.filter fun p => p.1 / 64 == t && p.2.state != .absent).map (·.2)
  let gap := (mine.filter fun r => r.typ == .str || r.typ == .raw).foldl (fun g r => ringLoss g r (nowTick s)) (tfind s.rng.ctxGap t)
  let evts := mine.filter fun r => r.typ == .evt
  let c := ctx s t
  let s1 := setCtx s t { c with lost := evts.foldl evtLoss c.lost, first := c.first ++ (evts.flatMap fun r => r.held.filter isRetract) }
  { s1 with rng := { s1.rng with
      rings := s1.rng.rings.filter fun p => p.1 / 64 != t
      ctxGap := match gap with
        | some g => tput s1.rng.ctxGap t g
        | none => s1.rng.ctxGap } }

/-- DATA of EV_HIF_CONTEXT_RESET (Table HIF.7). -/
def contextData (t : Nat) (d : Teardown) : Bytes :=
  le 2 t ++ le 1 d.kind ++ le 1 d.cause ++ le 4 d.applied.length ++ le 4 d.dropped ++ le 6 d.ticks ++ zeros 6 ++
    (span 0 4).flatMap fun i => le 2 (nth 0xFFFF d.applied i)

/-- The staging set of a tenant takes its reset value; SGEN rises (R466 step 4, R530). -/
def dropStage (s : State) (t : Nat) : State :=
  let x := tget {} s.slu.stages t
  if x.objs.isEmpty then s else { s with slu := { s.slu with stages := tput s.slu.stages t { sgen := x.sgen + 1 } } }

/-- TEARDOWN_COMPLETE (R466): the outstanding reads have drained. -/
def execTeardownComplete (t : Nat) (s : State) : Out :=
  .next (whenRunning s fun s =>
    match (ctx s t).teardown with
    | none => s
    | some d =>
      let s1 := dropStage (discardRings s t) t
      let s2 := setFunc s1 t { func s1 t with pending := 0 }
      let s3 := dueContextReset s2 (if d.kind = 0 then t else 0) d.kind d.dropped (some t)
      let s4 := issueBatch (if t = 0 then { s3 with rng := { s3.rng with def0 := zeros 40, def1 := zeros 40, bootState := 0, bootCode := 0, bootRseq := 0 } } else s3)
      let data := contextData t d
      let e : EvReq := { id := 0x784, data := data }
      let rcd := { recordOf s4 e 0 0xFF 0 0 with eseq := s4.ev.next }
      let s5 := issueBatch (inform s4 e)
      let s6 := setCtx s5 t { ctx s5 t with
        mbxState := 0, mbxCode := 0, mbxDef0 := zeros 40, mbxDef1 := zeros 40, teardown := none, report := data, first := (ctx s5 t).first ++ [rcd] }
      let s7 := sendMsi s6 t 0
      setCtxState s7 t (if d.undefine then .undefined else if live s7 t then .attached else .detached))

/-- A commit of the tenant object (R463, R464): new tenants are DETACHED, or ATTACHED above a live function; removed ones become
UNDEFINED, after a teardown when they hold rings. -/
def tenantCommit (s : State) : State :=
  (span 0 256).foldl (fun a t =>
    let st := (ctx a t).state
    if tenantDefined a t then
      (if st = .undefined then
        let b := setCtxState a t .detached
        if live b t then setCtxState b t .attached else b
      else a)
    else if st = .active ∨ st = .resetting then beginTeardown a t 0 5 true
    else setCtxState a t .undefined) s

/-- The contexts at a CHIP start (Table HIF.5). -/
def contextStart (s : State) : State :=
  (span 0 256).foldl (fun a t => if tenantDefined a t then setCtxState a t .detached else a) s

/-! ### Errors and silence (R470, R471, R473) -/

/-- DMA_FAULT (R470, R478): a fault of the tenant's domain; the ring whose memory it hit goes to ERROR. -/
def execDmaFault (f cause addr : Nat) (rg : Option Nat) (s : State) : Out :=
  .next (whenRunning s fun s =>
    if !funcExists s f then s
    else
      let s1 := raise s { id := 0x787, dom := some f, tenant := f, data := le 2 f ++ le 1 cause ++ le 8 addr }
      match rg with
      | some i => if (ring s1 f i).state = .active then ringError s1 f i 3 else s1
      | none => s1)

/-- AER_ERROR (R471): logged in AER; an uncorrectable error on a function's request belongs to its tenant, any other to HOST. -/
def execAerError (f : Nat) (correctable : Bool) (status : Nat) (onRequest : Bool) (s : State) : Out :=
  .next (whenRunning s fun s =>
    let x := func s f
    if correctable then raise (setFunc s f { x with aerCorr := x.aerCorr ||| status }) { id := 0x788, data := le 2 f ++ le 4 status }
    else raise (setFunc s f { x with aerUncorr := x.aerUncorr ||| status })
      { id := 0x789, dom := if onRequest then some f else none, tenant := if onRequest then f else 0, data := le 2 f ++ le 4 status })

/-- HOST_SILENT (R473): HOST_WD_S seconds without a doorbell of PF0. -/
def execHostSilent (s : State) : Out :=
  .next (whenRunning s fun s =>
    if hostWdS s = 0 ∨ s.hif.silent ∨ nowTick s < s.hif.lastDoorbell + secs (hostWdS s) then s
    else inform { s with hif := { s.hif with silent := true } } { id := 0x78A, data := le 4 (hostWdS s) })

end Sys2Proof.Machine
end

