-- ==== Sys2Proof/Machine/Sluice.lean ====
section
/-!
DEFINITION. The Sluice: staging sets, CHECK, commits and their effects, and the cascade agreement of agreed objects
(21_sluice.md, R514, R528–R539).
-/
namespace Sys2Proof.Machine

/-! ### Objects and candidates (R528, R529) -/

/-- Change the Sluice. -/
def setSlu (s : State) (f : Slu → Slu) : State := { s with slu := f s.slu }

/-- A tenant's staging set. -/
def stage (s : State) (t : Nat) : Stage := tget {} s.slu.stages t

/-- Replace a tenant's staging set. -/
def setStage (s : State) (t : Nat) (x : Stage) : State := setSlu s fun u => { u with stages := tput u.stages t x }

/-- A memory with the objects of some keys taken from another. -/
def overlay (base : Mem) (keys : List Nat) (top : Mem) : Mem :=
  keys.foldl (fun m k =>
    (top.filter fun p => p.1 / 1048576 == k).foldl (fun a p => Mem.write cfgDefault a p.1 p.2) (Mem.drop m (cfgAddr k 0) 1048576)) base

/-- Length of an object: its table's size; the clip object's own length. -/
def sizeOf (key clipLen : Nat) : Nat := if key % 65536 / 256 = objClip then max 512 clipLen else objSize (key % 65536)

/-- Bytes of an object of a memory. -/
def objBytes (m : Mem) (key clipLen : Nat) : Bytes := Mem.readAll cfgDefault m (cfgAddr key 0) (sizeOf key clipLen)

/-- The newest version of an object outside the staging set: the tenant's pending image, else in force (R529). -/
def newest (s : State) (t key : Nat) : Mem × Nat :=
  match tfind s.slu.images t with
  | some i => if i.objs.contains key then (i.mem, i.clipLen) else (s.slu.force, s.slu.clipLen)
  | none => (s.slu.force, s.slu.clipLen)

/-- The objects of a staged or frozen set laid over those in force. -/
def withObjects (s : State) (keys : List Nat) (m : Mem) (clipLen : Nat) : State :=
  setSlu s fun u => { u with
    force := overlay u.force keys m, clipLen := if keys.contains (objCode objClip 0) then clipLen else u.clipLen }

/-- The configuration that would be in force if the staging set were committed (Terms). -/
def candidate (s : State) (t : Nat) : State :=
  let s1 := match tfind s.slu.images t with
    | some i => withObjects s i.objs i.mem i.clipLen
    | none => s
  withObjects s1 (stage s t).objs (stage s t).mem (stage s t).clipLen

/-- Insert a key in rising order. -/
def insertKey (k : Nat) : List Nat → List Nat
  | [] => [k]
  | x :: r => if k < x then k :: x :: r else if k = x then x :: r else x :: insertKey k r

/-- The checks every staging command makes on its OBJ (R528). -/
def objChecks (d : Desc) (obj : Nat) (arg : Bool) : List (Bool × Nat) :=
  [(d.tenant == 0 || obj == objCode objSubscription 0, stNotPermitted), (arg, stBadArg), (objKnown obj, stObjUnknown)]

/-- SGEN rises by 1 (R530). -/
def bumpStage (x : Stage) : Stage := { x with sgen := (x.sgen + 1) % 2 ^ 32 }

/-! ### STAGE_WRITE, STAGE_READ, STAGE_DISCARD (R529, R530) -/

/-- A whole replacement has the object's size; a clip object any size of its range (R529). -/
def wholeOk (obj len : Nat) : Bool :=
  if obj / 256 = objClip then decide (512 ≤ len ∧ len ≤ 393728) else len == objSize obj

/-- The staging set with an object's new bytes. -/
def stagePut (x : Stage) (key off : Nat) (from_ : Mem × Nat) (whole : Bool) (data : Bytes) : Stage :=
  let held := x.objs.contains key
  let m0 := if whole then Mem.drop x.mem (cfgAddr key 0) 1048576
    else if held then x.mem else overlay x.mem [key] from_.1
  let clip := if key ≠ objCode objClip 0 then x.clipLen
    else if whole then data.length else if held then x.clipLen else from_.2
  bumpStage { x with objs := insertKey key x.objs, mem := Mem.writeAll cfgDefault m0 (cfgAddr key off) data, clipLen := clip }

/-- STAGE_WRITE (R529). -/
def execStageWrite (d : Desc) (obj off flags : Nat) (data : Bytes) (s : State) : Out :=
  .next (hostCmd s d 0x0101 true fun s =>
    let whole := bit flags 0
    let key := objKey d.tenant obj
    let x := stage s d.tenant
    let src := newest s d.tenant key
    let size := sizeOf key (if x.objs.contains key then x.clipLen else src.2)
    checked s d (objChecks d obj (!whole || off == 0) ++ [
        (if whole then wholeOk obj data.length else decide (off + data.length ≤ size), stObjSize)]) fun s =>
      let s1 := setStage s d.tenant (stagePut x key off src whole data)
      reply s1 d stOk (le 4 (stage s1 d.tenant).sgen))

/-- STAGE_READ (R507, R514): the object's bytes from OFFSET, as staged or in force. -/
def execStageRead (d : Desc) (obj off which : Nat) (s : State) : Out :=
  .next (hostCmd s d 0x0102 true fun s =>
    let key := objKey d.tenant obj
    let x := stage s d.tenant
    let src := if which = 0 then (x.mem, x.clipLen) else (s.slu.force, s.slu.clipLen)
    let size := sizeOf key src.2
    checked s d (objChecks d obj (decide (which ≤ 1)) ++ [(which == 1 || x.objs.contains key, stNotFound),
        (decide (off ≤ size), stObjSize)]) fun s =>
      replyOut s d (Mem.readAll cfgDefault src.1 (cfgAddr key off) (size - off)) [])

/-- STAGE_DISCARD (R530): one object, or all with OBJ 0xFFFF. -/
def execStageDiscard (d : Desc) (obj : Nat) (s : State) : Out :=
  .next (hostCmd s d 0x0103 false fun s =>
    let key := objKey d.tenant obj
    let x := stage s d.tenant
    checked s d (if obj = 0xFFFF then [] else objChecks d obj true) fun s =>
      let x1 := if obj = 0xFFFF then { x with objs := [], mem := [], clipLen := 0 }
        else { x with objs := x.objs.filter (· != key), mem := Mem.drop x.mem (cfgAddr key 0) 1048576 }
      let s1 := setStage s d.tenant (bumpStage x1)
      reply s1 d stOk (le 4 (stage s1 d.tenant).sgen))

/-! ### CHECK (R532, Table SLU.2) -/

/-- A tenant that a set removes still has an open session or owns a key slot (R463). -/
def tenantRemoves (old new : State) : Bool :=
  (span 1 255).any fun t => tenantDefined old t && !tenantDefined new t &&
    (((sessions old).any fun p => p.2.isOpen && p.2.tenant == t) || old.key.slots.any fun p => p.2.valid && p.2.owner == t)

/-- A bus section's incomer keeps R206. -/
def sectionsOk (c : State) : Bool :=
  (span 0 8).all fun k =>
    let inc := sectionField c k 0 2
    decide (256 < inc) || ((inc == 256 || mpRole c inc == 1) && mpSection c inc != k)

/-- Every MP of a head names the head's section or none (R220). -/
def headSectionsOk (c : State) : Bool :=
  (span 0 256).all fun m => mpAbsent c m || mpSection c m == 0xFF || mpSection c m == qualityField c (268 + m / 4) 1

/-- Capture memory of the enabled sets (R217). -/
def captureBytes (c : State) : Nat :=
  nsum ((span 0 16).map fun k => capSlots c k * captureField c k 0 1 * (capPre c k + capPost c k) * 640)

/-- The reference list names a channel, and none twice (REF_LIST). -/
def refListOk (c : State) : Bool := !(refList c).isEmpty && (refList c).eraseDups.length == (refList c).length

/-- The rules in ascending RULE with the OBJ that each names when it fails (Table SLU.2). -/
def checkRules (s : State) (t : Nat) : List (Nat × Nat × Bool) :=
  let x := stage s t
  let c := candidate s t
  let rd := fun key => cfgRd c key
  let first := (x.objs.headD 0) % 65536
  let mixed := (x.objs.map (· % 65536)).find? fun o => objAgreed o != objAgreed first
  [(0x0001, 0, !x.objs.isEmpty)] ++
  (x.objs.map fun k => (0x0002, k % 65536, fieldOk (k % 65536) (rd k))) ++
  (x.objs.map fun k => (0x0003, k % 65536, !(objCal k && s.lgl.state == .sealed))) ++
  [(0x0004, mixed.getD 0, !s.ril.cascEn || mixed.isNone),
   (0x0010, objCode objFilter 0, (span 0 1096).all fun i =>
     let k := rd (objCode objFilter 0) (16 * i + 1) 1
     k == 0 || rd (objCode objCoef k) 0 1 != 0),
   (0x0011, objCode objCf 0, (span 0 4).all fun p => decide (256 < rd (objCode objCf 0) (12 * p) 2) || !mpAbsent c (rd (objCode objCf 0) (12 * p) 2)),
   (0x0012, objCode objSection 0, sectionsOk c),
   (0x0013, objCode objQuality 0, headSectionsOk c),
   (0x0014, objCode objCapture 0, decide (captureBytes c ≤ 4194304)),
   (0x0015, objCode objClock 0, refListOk c)] ++
  ((x.objs.filter fun k => k / 256 == objSlot).map fun k => (0x0020, k, slotOk (k % 2 == 1) (rd k))) ++
  [(0x0021, objCode objBilling 0, (span 1 255).all fun u => !tenantDefined c u || slotPresent (cfgRd c (slotKey (tenantCal c u) false))),
   (0x0022, objCode objBinding 0, (span 0 256).all fun m => bindField c m 0 1 != 1 || tenantDefined c (bindField c m 1 1)),
   (0x0023, objCode objCredit 0, (span 0 256).all fun u => !prepaid c u || rd (objCode objClip 0) (8 * warnClip c + 4) 3 != 0),
   (0x0030, objCode objArchMask 0, archMaskOk mayBeFault (rd (objCode objArchMask 0))),
   (0x0031, objCode objTenant 0, !tenantRemoves s c),
   (0x0032, objCode objRadio 0, radioBandsOk (rd (objCode objRadio 0))),
   (0x0033, objCode objRadio 0, addrRangesOk (rd (objCode objRadio 0))),
   (0x0034, objCode objClip 0, clipsOk (sizeOf (objCode objClip 0) c.slu.clipLen) (rd (objCode objClip 0)))]

/-- The first failing rule: RULE and OBJ. -/
def checkFails (s : State) (t : Nat) : Option (Nat × Nat) := ((checkRules s t).find? fun r => !r.2.2).map fun r => (r.1, r.2.1)

/-- The commit digest of a staging set (R532). -/
def commitDigest (x : Stage) : Bytes :=
  sha256 (x.objs.flatMap fun k => le 2 k ++ le 4 (sizeOf k x.clipLen) ++ objBytes x.mem k x.clipLen)

/-- CHECK (R532, R241): a set that passes is stamped with its SGEN. -/
def execCheck (d : Desc) (s : State) : Out :=
  .next (hostCmd s d 0x0104 false fun s =>
    let t := d.tenant
    let x := stage s t
    let dig := (commitDigest x).take 8
    match checkFails s t with
    | none =>
      let s1 := setStage s t { x with stamped := some x.sgen, digest := commitDigest x }
      let s2 := raise s1 { id := 0x7C0, data := le 1 t ++ le 1 1 ++ le 4 x.sgen ++ zeros 4 ++ dig }
      reply s2 d stOk (le 4 x.sgen ++ dig ++ zeros 4)
    | some (rule, obj) =>
      let s1 := setStage s t { x with stamped := none, digest := [] }
      let s2 := raise s1 { id := 0x7C0, data := le 1 t ++ le 1 0 ++ le 4 x.sgen ++ le 2 obj ++ le 2 rule ++ zeros 8 }
      reply s2 d (if rule = 3 then stSealed else stCheckFail) (le 4 x.sgen ++ zeros 8 ++ le 2 obj ++ le 2 rule))

/-! ### Events of a commit and of a cascade change (Table SLU.4) -/

/-- EV_SLU_COMMIT: what 0 SCHEDULED, 1 APPLIED, 2 ABORTED. -/
def commitEvent (s : State) (t what cause : Nat) (stamp : Stamp) (cueId : Nat) : State :=
  raise s { id := 0x7C1, star := decide (what = 2 ∧ cause ≠ 0),
            data := le 1 t ++ le 1 what ++ le 1 cause ++ zeros 1 ++ le 7 stamp ++ le 2 cueId }

/-- EV_SLU_CASCADE: step 0 PREPARE, 1 AGREE, 2 DISAGREE, 3 COMMIT, 4 ABORT, 5 APPLIED, 6 ABORTED. -/
def cascadeEvent (s : State) (step member : Nat) (stamp : Stamp) (digest : Bytes) (silent : Bool) : State :=
  raise s { id := 0x7C2, star := silent || decide (step = 2), data := le 1 step ++ le 1 member ++ le 7 stamp ++ pad 8 digest }

/-- The agreed digest: SHA-256 over the agreed objects in force (Terms), each as in the commit digest. -/
def agreedDigest (s : State) : Bytes :=
  let keys := objCode objCalendar 0 :: (span 0 66).map (objCode objSlot) ++ [objCode objBilling 0, objCode objTenant 0, objCode objCascade 0]
  sha256 (keys.flatMap fun k => le 2 k ++ le 4 (objSize k) ++ objBytes s.slu.force k 0)

/-- STATUS from a member (R557, Table RIL.7). -/
def statusEntry (s : State) : Bytes :=
  let st := match s.ril.state with
    | .detached => 0
    | .joining => 1
    | .joined => 2
    | .isolated => 3
  le 1 s.ril.cascId ++ le 1 st ++ le 1 (flag s.slu.held 0 + flag s.ril.mismatch 1 + flag s.ril.skewed 2) ++ le 1 s.ril.refusal ++
    le 8 Config.deviceId ++ le 4 (Config.legalFirmwareId % 2 ^ 32) ++ (agreedDigest s).take 8 ++ le 4 s.ril.delay ++
    leInt 2 (phaseAvg s.ril) ++ leInt 2 (max (-32768) (min 32767 s.ril.skew))

/-- Send STATUS while JOINED. -/
def sendStatus (s : State) : State :=
  if s.ril.joined then toMaster (setRil s fun r => { r with statusAt := nowCycle s }) 0x13 (statusEntry s) else s

/-- Enter HELD (R539): cause 0 DISAGREE, 1 NO_ANSWER, 2 NO_DECISION, 3 ABORTED, 4 DIGEST. -/
def heldEnter (s : State) (cause : Nat) : State :=
  if s.slu.held then s
  else
    let s1 := raise (setSlu s fun u => { u with held := true, heldCause := cause }) {
      id := 0x7C3, star := true, data := le 1 0 ++ le 1 cause ++ (agreedDigest s).take 8 }
    sendStatus s1

/-- Leave HELD (R539). -/
def heldExit (s : State) : State :=
  if s.slu.held then
    sendStatus (raise (setSlu s fun u => { u with held := false }) { id := 0x7C3, data := le 1 1 ++ zeros 1 ++ (agreedDigest s).take 8 })
  else s

/-! ### COMMIT_AT and the agreement (R533, R538) -/

/-- The set holds agreed objects, which only tenant 0 stages (R528), while CASC_EN is strapped (R533). -/
def agreedSet (s : State) (t : Nat) : Bool := t == 0 && s.ril.cascEn && (stage s t).objs.any objAgreed

/-- The set holds calibration objects. -/
def calSet (keys : List Nat) : Bool := keys.any objCal

/-- The partitions an image is written to take writes: calibration objects to the legal partition, others to the application's
object store (R528, R533). -/
def imageDurable (s : State) (keys : List Nat) : Bool :=
  !(keys.any objCal && s.cis.readOnly.contains 0) && !(keys.any (fun k => !objCal k) && s.cis.readOnly.contains 2)

/-- The image a staging set freezes to. -/
def freeze (s : State) (t : Nat) (stamp : Stamp) (agreed : Bool) : Image :=
  let x := stage s t
  ⟨x.objs, x.mem, x.clipLen, stamp, 0xFFFF, imageDurable s x.objs, agreed⟩

/-- Empty a staging set at the acceptance of a commit, with one rise of SGEN, as the code of R533 counts it. -/
def emptyStage (x : Stage) : Stage := { bumpStage x with objs := [], mem := [], clipLen := 0 }

/-- Create a commit cue for an image (R533): the image waits, its staging set is empty. -/
def pendImage (s : State) (t kind : Nat) (i : Image) (gen : Nat) : State × Nat :=
  let s1 := if (stage s t).sgen = gen then setStage s t (emptyStage (stage s t)) else s
  let r := createCue s1 kind i.stamp t gen
  let s2 := setSlu r.1 fun u => { u with images := tput u.images t { i with cue := r.2 } }
  (commitEvent s2 t 0 0 i.stamp r.2, r.2)

/-- The checks of COMMIT_AT, in the order of R533. -/
def commitChecks (s : State) (t gen : Nat) (asked st : Stamp) (lead : Nat) : List (Bool × Nat) :=
  let x := stage s t
  [(x.stamped.isSome, stNotChecked), (x.stamped == some gen && x.sgen == gen, stGenChanged),
   (!thas s.slu.images t && (t != 0 || s.slu.agreement.isNone), stBadState),
   (!calSet x.objs || decide (64 < permFree s), stLogFull), (!(agreedSet s t && s.ril.cascId != 0), stCascadeRole),
   (asked.angle == 0, stCueAngle), (decide (nowStamp s + lead * angleBits ≤ st), stCuePast),
   (decide (st ≤ nowStamp s + 2147483648 * angleBits), stCueRange), (imageDurable s x.objs, stArchive),
   ((cueRoom s t).isNone, (cueRoom s t).getD stOk)]

/-- Complete the COMMIT_AT that waits for the agreement. -/
def commitReply (s : State) (status : Nat) (result : Bytes) : State := completeWaiting s 0x0105 0 status result

/-- End an agreement without a change (R538 step 3): ABORT to the members asked, of which some were silent, and the status. -/
def refuseAgreement (s : State) (a : Agreement) (asked silent : List Nat) (status : Nat) : State :=
  let s1 := setSlu s fun u => { u with agreement := none }
  let s2 := asked.foldl (fun b i => cascadeEvent (toMember b i 0x07 (le 7 a.image.stamp)) 4 i a.image.stamp a.digest (silent.contains i)) s1
  commitReply s2 status []

/-- Every member has agreed (R538 step 3): COMMIT goes out and the CASCADE_COMMIT cue is created.  A command that a teardown has
dropped, or a cue table that has filled meanwhile, ends the agreement. -/
def decideAgreement (s : State) (a : Agreement) : State :=
  let members := joinedMembers s
  if (waitingCmds s 0x0105 0).isEmpty then refuseAgreement s a members [] stAborted
  else if (cueRoom s 0).isSome then refuseAgreement s a members [] stCueFull
  else
    let s1 := setSlu s fun u => { u with agreement := none, confirming := some (a.image.stamp, members) }
    let s2 := members.foldl (fun b i => cascadeEvent (toMember b i 0x06 (le 7 a.image.stamp)) 3 i a.image.stamp a.digest false) s1
    let r := pendImage s2 0 cueCascade a.image a.gen
    commitReply r.1 stOk (le 7 a.image.stamp ++ le 2 r.2)

/-- COMMIT_AT (R514, R533). -/
def execCommitAt (d : Desc) (gen : Nat) (stamp : Stamp) (s : State) : Out :=
  .next (hostCmd s d 0x0105 false fun s =>
    let t := d.tenant
    let agreed := agreedSet s t
    let lead := if agreed then 16 else 8
    let st := if stamp = 0 then boundaryAfter s lead else stamp
    checked s d (commitChecks s t gen stamp st lead) fun s =>
      let i := freeze s t st agreed
      if agreed then
        let dig := (stage s t).digest
        let a : Agreement := ⟨i, gen, dig, joinedMembers s, nowCycle s⟩
        let s1 := defer (setSlu s fun u => { u with agreement := some a }) d 0x0105 0 [] false [] []
        let s2 := (joinedMembers s).foldl (fun b m => cascadeEvent (toMember b m 0x03 (le 7 st ++ pad 32 dig)) 0 m st dig false) s1
        if (joinedMembers s).isEmpty then decideAgreement s2 a else s2
      else
        let r := pendImage s t cueCommit i gen
        reply r.1 d stOk (le 7 st ++ le 2 r.2))

/-- COMMIT_CANCEL (R514, R536): the issuer's own pending commit cue, at least 1 cycle ahead. -/
def execCommitCancel (d : Desc) (i : Nat) (s : State) : Out :=
  .next (hostCmd s d 0x0106 false fun s =>
    let q := cue s i
    checked s d [(cuePending q && q.owner == d.tenant && (q.kind == cueCommit || q.kind == cueCascade) && decide (nowStamp s + angleBits ≤ q.stamp), stCuePast)] fun s =>
      let s1 := setCue s i { q with state := .cancelled }
      let s2 := setSlu s1 fun u => { u with images := tdel u.images d.tenant }
      reply (commitEvent s2 d.tenant 2 0 q.stamp i) d stOk [])

/-! ### The commit boundary (R534, R536, Table SLU.3) -/

/-- An object of the image, by type, is among its keys. -/
def touches (i : Image) (typ : Nat) : Bool := i.objs.any fun k => k % 65536 / 256 == typ

/-- CF pins take their objects in force; a changed one loses its accumulator and pending count (R203). -/
def pinsCommit (s : State) : State :=
  (span 0 4).foldl (fun a p =>
    let x := pinOf a p
    if x.cfg = pinCfg a p then a else setPin a p { x with cfg := pinCfg a p, acc := 0, pending := 0 }) s

/-- Baselines of channels whose scale entry changed are taken anew (R227). -/
def baselinesCommit (old new : State) : State :=
  let same := fun c => cfgBytes old (objCode objScale 0) (8 + 8 * c) 8 == cfgBytes new (objCode objScale 0) (8 + 8 * c) 8
  { new with pqe := { new.pqe with spares := tmap (fun _ x => { x with base := x.base.filter fun p => same p.1 }) new.pqe.spares } }

/-- Calibration objects (Table SLU.3): the legal log, the calibration copies, the CF pins. -/
def calCommit (old s : State) : State :=
  let s1 := rewriteCopies (legalLog s 0x06 0 0xFFFF ((calDigest s).take 8))
  baselinesCommit old (pinsCommit s1)

/-- The cycle clock object: NOMF is written to the backup domain, and a change interrupts the windows (R163). -/
def clockCommit (s : State) : State :=
  let nom := cfg s (objCode objClock 0) 5 1 == 1
  if nom = s.bkd.nominal60 then s
  else { s with bkd := { s.bkd with nominal60 := nom }, flt := { s.flt with nomSince := nowCycle s } }

/-- Calendars that a commit affects are re-evaluated at its boundary (Table TAR.2). -/
def tariffCommit (i : Image) (s : State) : State :=
  let all := touches i objCalendar || touches i objBilling
  (span 0 33).foldl (fun a c =>
    if (all || i.objs.contains (slotKey c false) || i.objs.contains (slotKey c true)) && (calPresent a c false || calPresent a c true) then
      tariffCue a c (nowCycle a) 0 true else a) s

/-- Every object takes effect together (R534, Table SLU.3). -/
def applyImage (s : State) (i : Image) : State :=
  let s0 := withObjects s i.objs i.mem i.clipLen
  let s1 := setSlu s0 fun u => { u with
    past := (s.slu.past.filter fun p => decide (nowCycle s ≤ p.1 + 64)) ++ [(nowCycle s, s.slu.force)] }
  let s2 := if calSet i.objs then calCommit s s1 else s1
  let s3 := if touches i objMp then closeRemoved s2 else s2
  let s4 := if touches i objClock then clockCommit s3 else s3
  let s5 := if touches i objComp then setBkd s4 fun b => { b with curveNext := some (cfgBytes s4 (objCode objComp 0) 0 56) } else s4
  let s6 := if touches i objCalendar then setBkd s5 fun b => { b with calendar := cfgBytes s5 (objCode objCalendar 0) 0 16 } else s5
  let s7 := tariffCommit i s6
  let s8 := if touches i objCredit then creditCommit s7 else s7
  let s9 := if touches i objRelay then relayCommit s s8 else s8
  let sA := if touches i objRadio then radioCommit s9 else s9
  let sB := if touches i objAnn || touches i objClip then annCommit sA else sA
  if touches i objTenant then tenantCommit sB else sB

/-- The head copies already sent for an image that does not apply are replaced by those in force (R184, R536). -/
def recallCopies (s : State) (i : Image) : State :=
  if calSet i.objs ∧ i.stamp.cycle ≤ nowCycle s + 1 then
    positions.foldl (fun a p =>
      if copyChanges (withObjects s i.objs i.mem i.clipLen) s p then
        let g := { a with ply := { a.ply with configGens := tput a.ply.configGens p (tget 0 a.ply.configGens p + 1) } }
        if (head g p).state = .active then sendConfig g s p (boundaryFrom g (g.ply.frame + 32)).2 else g
      else a) s
  else s

/-- CONFIRM from a member, or, when it cannot be sent, a change left unconfirmed (R538 step 4, R553). -/
def confirm (s : State) (stamp : Stamp) (result : Nat) : State :=
  if !s.ril.member then s
  else if s.ril.joined then
    cascadeEvent (toMaster s 0x08 (le 7 stamp ++ le 1 result ++ agreedDigest s)) (5 + result) s.ril.cascId stamp (agreedDigest s) false
  else setSlu s fun u => { u with unconfirmed := some stamp }

/-- The pending commit of a tenant ends without applying (R536): cause 1 LATE, 2 ARCHIVE, 3 LOG_FULL, 4 TENANT_REMOVE, 5 RESET.  A
member's cascade change then leaves it HELD; the master's puts every member that applied it into HELD (R539). -/
def abortCommit (s : State) (t : Nat) (i : Image) (cause : Nat) : State :=
  let s1 := commitEvent (setSlu s fun u => { u with images := tdel u.images t }) t 2 cause i.stamp i.cue
  let s2 := recallCopies s1 i
  if i.agreed ∧ s2.ril.member then heldEnter (confirm s2 i.stamp 1) 3 else s2

/-- A commit cue falls due (R533, R534, R52). -/
def commitDue (s : State) (q : Nat) : State :=
  let c := cue s q
  let late := decide (Stamp.cycle c.stamp < nowCycle s)
  match tfind s.slu.images c.owner with
  | none => finishCue s q late
  | some i =>
    let s1 := finishCue s q late
    let new := withObjects s1 i.objs i.mem i.clipLen
    if late then abortCommit s1 c.owner i 1
    else if !i.durable then abortCommit s1 c.owner i 2
    else if calSet i.objs ∧ permFree s ≤ 64 then abortCommit s1 c.owner i 3
    else if tenantRemoves s1 new then abortCommit s1 c.owner i 4
    else
      let s2 := applyImage (setSlu s1 fun u => { u with images := tdel u.images c.owner }) i
      let s3 := commitEvent s2 c.owner 1 0 i.stamp q
      if i.agreed ∧ s3.ril.member then confirm (setSlu s3 fun u => { u with verify := some i.stamp }) i.stamp 0 else s3

/-- CFG_COMMIT (R534). -/
def execCfgCommit (q : Nat) (s : State) : Out :=
  .next (whenRunning s fun s => if cueDue s q cueCommit then commitDue s q else s)

/-- CASCADE_COMMIT (R534, R538): the master's own cue. -/
def execCascadeCommit (q : Nat) (s : State) : Out :=
  .next (whenRunning s fun s => if cueDue s q cueCascade then commitDue s q else s)

/-- One cycle before a commit boundary, the heads whose copies it changes are sent them, to apply at the frame of that boundary
(R184, Table SLU.3; DESIGN CHOICE of the cycle, log entry 60). -/
def sendAhead (s : State) : State :=
  s.slu.images.foldl (fun a p =>
    let i := p.2
    if calSet i.objs ∧ i.stamp.cycle = nowCycle s + 1 then
      sendCopies a (withObjects a i.objs i.mem i.clipLen) (stampFrames a i.stamp / 65536)
    else a) s

/-! ### Images at a CHIP start (R537) -/

/-- Resolve each durable image: in force when its stamp is at or below the cycle of a valid retention anchor, else aborted. -/
def resolveImages (s : State) (anchor : Option Nat) : State :=
  s.slu.images.foldl (fun a p =>
    let i := p.2
    let b := setSlu a fun u => { u with images := tdel u.images p.1 }
    if i.durable ∧ anchor.elim false (fun n => decide (i.stamp.cycle ≤ n)) then
      let c := withObjects b i.objs i.mem i.clipLen
      if calSet i.objs then rewriteCopies c else c
    else commitEvent b p.1 2 5 i.stamp i.cue) s

end Sys2Proof.Machine
end

