-- ==== Sys2Proof/Machine/Cascade.lean ====
section
/-!
DEFINITION. The cascade: membership, the cycle clock and the time that a master gives its members, the cascade agreement's
messages, aggregates and the signed readings that hold them (22_rill_cascade.md, R538, R539, R517, R324).
-/
namespace Sys2Proof.Machine

/-! ### Keys and identities (R545) -/

/-- The master's DEVICE_ID as this hub knows it: its own, or the cascade object's entry 0, or what it knows otherwise. -/
def masterDevice (s : State) : Nat :=
  if s.ril.master then Config.deviceId else if cascadeField s 8 8 ≠ 0 then cascadeField s 8 8 else Config.masterId

/-- KS of a member, from the master's and the member's nonces (`mine`, `join`) and DEVICE_IDs. -/
def sessionKs (s : State) (mine join : Bytes) (master member : Nat) : Nat :=
  Config.kdf (material s 4) 0x52494C31 (mine ++ join ++ le 8 master ++ le 8 member)

/-- KG of a boot nonce. -/
def groupKg (s : State) (nonce : Bytes) (master : Nat) : Nat := Config.kdf (material s 4) 0x52494C47 (nonce ++ le 8 master)

/-- A master draws a BOOT_NONCE and starts KG afresh (R545). -/
def newBoot (s : State) : State :=
  if s.ril.master then
    let (v, s1) := drbgValue s
    setRil s1 fun r => { r with bootNonce := le 16 v, kg := groupKg s (le 16 v) Config.deviceId, txKg := 0 }
  else s

/-- EV_RIL_JOIN. -/
def joinEvent (s : State) (i dev start : Nat) : State := raise s { id := 0x7D1, data := le 1 i ++ le 8 dev ++ le 5 start }

/-! ### Joining (R546, R547, R549) -/

/-- Ask the hub upstream for the hop delay (R548). -/
def sendEcho (s : State) : State :=
  rilPut (setRil s fun r => { r with echoAt := nowCycle s }) 0 (rilPacket 0x20 s.ril.cascId 0xFE 1 0 0 0 [])

/-- Send JOIN (Table RIL.2), with a measurement of the hop; the member is then JOINING. -/
def sendJoin (s : State) : State :=
  if s.pwr.serviceDown ∨ s.clk.cycle.isNone ∨ !drbgUp s then s
  else
    let (v, s1) := drbgValue s
    let nonce := le 16 v
    let body := le 8 Config.deviceId ++ nonce ++ le 4 (Config.legalFirmwareId % 2 ^ 32) ++ be 32 (Config.legalFirmwareId / 2 ^ 32) ++
      pad 32 s.lgl.fwDigest ++ le 2 (keySlot s 4).kgen ++ le 5 (nowCycle s) ++ agreedDigest s
    let s2 := setRil s1 fun r => { r with state := .joining, lastJoin := some (nowCycle s), nonce := nonce, start := none,
                                          retryAt := none, retryNow := false }
    let s3 := rilPut s2 0 (rilPacket 0x10 s.ril.cascId 0 1 0 0 (material s 4) body)
    joinEvent (sendEcho s3) s.ril.cascId Config.deviceId 0

/-- JOIN on a BOUNDARY, at most once every 64 cycles. -/
def tryJoin (s : State) : State :=
  if s.ril.lastJoin.elim true (fun n => decide (n + 64 ≤ nowCycle s)) then sendJoin s else s

/-- Why the master refuses a JOIN, if it does, in the order of Table RIL.3. -/
def joinRefusal (s : State) (p : Bytes) : Option Nat :=
  let b := rilPayload p
  let e := rilEntry s (rilSrc p)
  let want := cascadeField s (8 + 8 * rilSrc p) 8
  firstFail [(slotReady s 4 && fld b 92 2 != 0 && rilTagOk (material s 4) p, 1), (!(e.state == 2 && e.deviceId != fld b 0 8), 2),
    (want == 0 || want == fld b 0 8, 3),
    (fld b 24 4 == Config.legalFirmwareId % 2 ^ 32 && slice b 28 32 == be 32 (Config.legalFirmwareId / 2 ^ 32), 4),
    (slice b 60 32 == pad 32 s.lgl.fwDigest, 5)]

/-- The master's own number for a boundary it would place as n, with the forward steps that are due by then. -/
def numberOf (s : State) (n : Nat) : Nat :=
  s.ril.steps.foldl (fun a p => if p.1 ≤ n then max a (p.2 + (n - p.1)) else a) n

/-- ADMIT (R546, R549): the keys, START at least 8 cycles away, and the step that a member ahead of the master forces. -/
def admitMember (s : State) (p : Bytes) : State :=
  let b := rilPayload p
  let i := rilSrc p
  let (v, s1) := drbgValue s
  let own := Stamp.cycle (boundaryAfter s 8)
  let natural := numberOf s own
  let projected := fld b 94 5 + (own - nowCycle s) + 1
  let number := max natural projected
  let s2 := if natural < projected then setRil s1 fun r => { r with steps := r.steps ++ [(own, number)] } else s1
  let s3 := setEntry s2 i {
    state := 1, deviceId := fld b 0 8, lfwVer := fld b 24 4, agreed := slice b 99 8, heard := nowCycle s, start := some number,
    key := sessionKs s (le 16 v) (slice b 8 16) Config.deviceId (fld b 0 8) }
  let s4 := rilPut s3 1 (rilPacket 0x11 0 i 0 0 0 (material s 4) (le 8 (fld b 0 8) ++ le 16 v ++ s.ril.bootNonce ++ le 5 number))
  joinEvent s4 i (fld b 0 8) number

/-- REFUSE (R546, R547). -/
def refuseMember (s : State) (p : Bytes) (cause : Nat) : State :=
  let b := rilPayload p
  let i := rilSrc p
  let e := rilEntry s i
  let s1 := setEntry s i (if cause ≤ 2 then { e with cause := cause }
    else { state := 3, cause := cause, deviceId := fld b 0 8, lfwVer := fld b 24 4, agreed := slice b 99 8, heard := nowCycle s })
  let s2 := rilPut s1 1 (rilPacket 0x12 0 i 0 0 0 (material s 4) (le 8 (fld b 0 8) ++ le 1 cause))
  raise s2 { id := 0x7D2, data := le 1 i ++ le 8 (fld b 0 8) ++ le 1 cause }

/-- A JOIN at the master. -/
def doJoin (s : State) (p : Bytes) : State :=
  if !s.ril.master ∨ rilSrc p = 0 ∨ 7 < rilSrc p ∨ s.clk.cycle.isNone ∨ !drbgUp s then s
  else match joinRefusal s p with
    | some c => refuseMember s p c
    | none => admitMember s p

/-- A message under K4 to this member. -/
def underK4 (s : State) (port : Nat) (p : Bytes) (act : State → State) : State :=
  if !s.ril.member ∨ fld (rilPayload p) 0 8 ≠ Config.deviceId % 2 ^ 64 then s
  else if !rilTagOk (material s 4) p then rilAuth s port (rilType p) 0
  else act s

/-- ADMIT at a member: the keys are derived and START is awaited. -/
def doAdmit (s : State) (port : Nat) (p : Bytes) : State :=
  if s.ril.state ≠ .joining then s
  else underK4 s port p fun s =>
    let b := rilPayload p
    let kg := groupKg s (slice b 24 16) (masterDevice s)
    setRil s fun r => { r with
      ks := sessionKs s (slice b 8 16) r.nonce (masterDevice s) Config.deviceId, txKs := 0, rxKs := 0,
      kg := kg, rxKg := if kg = r.kg then r.rxKg else 0, start := some (fld b 40 5) }

/-- REFUSE at a member: it is ISOLATED (R547). -/
def doRefuse (s : State) (port : Nat) (p : Bytes) : State :=
  if s.ril.state = .joined ∨ s.ril.state = .isolated then s
  else underK4 s port p fun s =>
    let s1 := setRil s fun r => { r with state := .isolated, start := none, retryAt := some (nowTick s + secs 600), refusal := fld (rilPayload p) 8 1 }
    joinEvent s1 s.ril.cascId Config.deviceId 0

/-- LEAVE at a member. -/
def doLeave (s : State) (port : Nat) (p : Bytes) : State := underKs s port p fun s => detach s 1

/-! ### BOUNDARY (R548, R550, R554) -/

/-- What a BOUNDARY says. -/
def boundaryOf (p : Bytes) : MasterBnd :=
  let b := rilPayload p
  ⟨fld b 0 5, fld b 5 4, fld b 13 6, fld b 21 1, slice b 22 8⟩

/-- After a change applied here, the master's agreed digest must be this member's (R539). -/
def verifyDigest (s : State) (b : MasterBnd) : State :=
  match s.slu.verify with
  | none => s
  | some st =>
    if b.cycle ≤ Stamp.cycle st then s
    else
      let s1 := setSlu s fun u => { u with verify := none }
      if b.agreed = (agreedDigest s).take 8 then heldExit s1 else heldEnter s1 4

/-- A BOUNDARY at a member: the next boundary is the master's; before joining it only lets JOIN go out. -/
def doBoundary (s : State) (port : Nat) (p : Bytes) : State :=
  let accept := underKg s port p fun s =>
    let b := boundaryOf p
    verifyDigest (setRil s fun r => { r with
      last := some b, next := if s.clk.cycle.elim true (fun n => decide (n < b.cycle)) then some b else r.next,
      delay := (rilHopd p + r.hop) % 2 ^ 32, placeOwn := false }) b
  if !s.ril.member then s
  else match s.ril.state with
    | .detached => tryJoin s
    | .isolated => if s.ril.retryNow then tryJoin s else s
    | .joining => if s.ril.start.isSome then accept else s
    | .joined => accept

/-- A SYNC at a member: a DECIM_SYNC cue for all of its channels (R551). -/
def doSync (s : State) (port : Nat) (p : Bytes) : State :=
  if s.ril.state ≠ .joined then s
  else underKg s port p fun s =>
    let st := fld (rilPayload p) 0 7
    if (cueCheck s cueSync st).isSome then s else ownCue s cueSync st 0 0

/-! ### The cascade agreement's messages (R538, R539) -/

/-- PREPARE at a member, taken at a cycle: AGREE, DISAGREE, or, past 4 cycles, no answer. -/
def doPrepare (s : State) (port : Nat) (p : Bytes) (since : Nat) : State :=
  underKs s port p fun s =>
    let st := fld (rilPayload p) 0 7
    let dig := slice (rilPayload p) 7 32
    let x := stage s 0
    let s1 := cascadeEvent s 0 s.ril.cascId st dig false
    if since + 4 < nowCycle s then heldEnter s1 1
    else if x.stamped = some x.sgen ∧ x.digest = dig ∧ !thas s.slu.images 0 ∧ nowStamp s + 8 * angleBits ≤ st then
      cascadeEvent (toMaster (setSlu s1 fun u => { u with prepared := some st }) 0x04 (le 7 st)) 1 s.ril.cascId st dig false
    else
      let own := commitDigest x
      heldEnter (cascadeEvent (toMaster s1 0x05 (le 7 st ++ own)) 2 s.ril.cascId st own false) 0

/-- AGREE at the master. -/
def doAgree (s : State) (port : Nat) (p : Bytes) : State :=
  fromMember s port p fun s i =>
    match s.slu.agreement with
    | none => s
    | some a =>
      if fld (rilPayload p) 0 7 ≠ a.image.stamp ∨ !a.awaiting.contains i then s
      else
        let a1 := { a with awaiting := a.awaiting.filter (· != i) }
        let s1 := cascadeEvent (setSlu s fun u => { u with agreement := some a1 }) 1 i a.image.stamp a.digest false
        if a1.awaiting.isEmpty then decideAgreement s1 a1 else s1

/-- DISAGREE at the master. -/
def doDisagree (s : State) (port : Nat) (p : Bytes) : State :=
  fromMember s port p fun s i =>
    match s.slu.agreement with
    | none => s
    | some a =>
      if fld (rilPayload p) 0 7 ≠ a.image.stamp then s
      else refuseAgreement (cascadeEvent s 2 i a.image.stamp (slice (rilPayload p) 7 32) false) a (joinedMembers s) [] stCascadeDisagree

/-- COMMIT at a member: the image is frozen and its cue created, or, when it cannot be, the member ABORTS. -/
def doCommit (s : State) (port : Nat) (p : Bytes) : State :=
  underKs s port p fun s =>
    let st := fld (rilPayload p) 0 7
    if s.slu.prepared ≠ some st then s
    else
      let x := stage s 0
      let s1 := cascadeEvent (setSlu s fun u => { u with prepared := none }) 3 s.ril.cascId st x.digest false
      if x.stamped = some x.sgen ∧ (cueRoom s 0).isNone then (pendImage s1 0 cueCommit (freeze s1 0 st true) x.sgen).1
      else heldEnter (confirm s1 st 1) 3

/-- ABORT at a member. -/
def doAbort (s : State) (port : Nat) (p : Bytes) : State :=
  underKs s port p fun s =>
    let st := fld (rilPayload p) 0 7
    cascadeEvent (setSlu s fun u => { u with prepared := if u.prepared = some st then none else u.prepared }) 4 s.ril.cascId st [] false

/-- The master counts a member as HELD. -/
def markHeld (s : State) (i : Nat) : State :=
  setEntry s i { rilEntry s i with flags := setBit (rilEntry s i).flags 0 }

/-- CONFIRM at the master. -/
def doConfirm (s : State) (port : Nat) (p : Bytes) : State :=
  fromMember s port p fun s i =>
    let b := rilPayload p
    let st := fld b 0 7
    let s1 := cascadeEvent s (5 + min 1 (fld b 7 1)) i st (slice b 8 32) false
    let s2 := setSlu s1 fun u => { u with confirming := u.confirming.bind fun c =>
      if c.1 = st then (let l := c.2.filter (· != i); if l.isEmpty then none else some (c.1, l)) else some c }
    if fld b 7 1 ≠ 0 ∨ slice b 8 32 ≠ agreedDigest s then markHeld s2 i else s2

/-! ### Aggregates (R558, R559, Table RIL.6) -/

/-- The values a hub contributes at boundary b: for a tenant view, or for the register of one of its MPs. -/
def aggValues (s : State) (b : Nat) (req : Bytes) : Bytes :=
  if reqA req = 0 then
    let t := reqC req % 256
    let later := bookedSince s b (fun y => y.tenant == t) (fun _ => true) (·.charge)
    let r := (bill s t).regs
    le 1 t ++ le 1 (min 255 ((sessions s).filter fun q => q.2.isOpen && q.2.tenant == t).length) ++ zeros 2 ++
      le 8 ((nsum r.imp - later.1) / 4294967296) ++ leInt 8 ((r.charge - later.2.2) / 4294967296)
  else
    let m := reqB req % 256
    le 2 (reqB req) ++ le 2 (regStatus s m) ++ le 8 (regAt s m (reqC req % 256) b / commitQuantum)

/-- Every output before boundary b has been released or withheld here. -/
def settledAt (s : State) (b : Nat) : Bool := decide (b ≤ settledBoundary s)

/-- Answer the aggregate requests that can be, and forget those older than 8 cycles (R559). -/
def answerAggs (s : State) : State :=
  if s.pwr.serviceDown then s
  else s.ril.asked.foldl (fun a q =>
    let b := Stamp.cycle q.2.1
    let drop := fun (x : State) => setRil x fun r => { r with asked := r.asked.filter (· != q) }
    let send := fun (x : State) (miss : Bool) =>
      toMaster (drop x) 0x0A (le 2 q.1 ++ le 1 (flag x.slu.held 0 + flag miss 1) ++ zeros 1 ++
        (if miss then zeros (if reqA q.2.2.1 = 0 then 20 else 12) else aggValues x b q.2.2.1))
    if q.2.2.2 + 8 < nowCycle a then drop a
    else if b < a.ril.since then send a true
    else if settledAt a b then send a false else a) s

/-- AGG_REQ at a member. -/
def doAggReq (s : State) (port : Nat) (p : Bytes) (since : Nat) : State :=
  underKs s port p fun s =>
    let b := rilPayload p
    answerAggs (setRil s fun r => { r with asked := r.asked ++ [(fld b 0 2, fld b 2 7, slice b 9 8, since)] })

/-- The values of an AGGREGATE item: the master's own with the answers, or those of the one hub a register lies on. -/
def aggItem (s : State) (g : AggReq) : Bytes :=
  let own := aggValues s g.b g.req
  let view := reqA g.req = 0
  let vals := if view then
      let all := own :: g.answers
      let sum := fun (o : Nat) => nsum (all.map fun v => fld v o 8)
      le 1 (reqC g.req) ++ le 1 (min 255 (nsum (all.map fun v => fld v 1 1))) ++ zeros 2 ++ le 8 (sum 4) ++
        leInt 8 (isum (all.map fun v => signed 64 (fld v 12 8)))
    else if reqB g.req / 256 = 0 then own
    else (g.answers.head?).getD (le 2 (reqB g.req) ++ zeros 10)
  tlv 8 (le 1 (reqA g.req) ++ le 1 (if view then 0 else reqC g.req) ++ le 1 g.ok ++ le 1 g.miss ++ le 1 g.held ++ zeros 3 ++
    (agreedDigest s).take 8 ++ vals)

/-- Replace an aggregate request. -/
def setAgg (s : State) (g : AggReq) : State :=
  setRil s fun r => { r with aggs := r.aggs.map fun x => if x.reqId = g.reqId then g else x }

/-- A hub is missing from an aggregate, with EV_RIL_AGG_MISS (R559). -/
def aggMiss (s : State) (g : AggReq) (i : Nat) : State :=
  let g1 := { g with awaiting := g.awaiting.filter (· != i), miss := setBit g.miss i }
  raise (setAgg s g1) { id := 0x7D9, data := le 2 g.reqId ++ le 1 (2 ^ i) }

/-- The members an aggregate request concerns: every JOINED one, or the hub whose MP the register is. -/
def aggHubs (req : Bytes) : List Nat := if reqA req = 0 then span 1 7 else if reqB req / 256 = 0 then [] else [reqB req / 256]

/-- Send one aggregate request to the members it concerns (R559). -/
def askAggregate (s : State) (b token place : Nat) (req : Bytes) : State :=
  let id := s.ril.nextReq
  let joined := joinedMembers s
  let hubs := (aggHubs req).filter joined.contains
  let away := (aggHubs req).filter fun i => !joined.contains i && (reqA req == 1 || bit (cascadeField s 0 1) i)
  let ok := if reqA req = 0 ∨ reqB req / 256 = 0 then 1 else 0
  let s1 := setRil s fun r => { r with
    nextReq := (id + 1) % 65536
    aggs := r.aggs ++ [⟨id, b, req, hubs, [], ok, 0, 0, nowCycle s, token, place⟩] }
  let s2 := hubs.foldl (fun a i => toMember a i 0x09 (le 2 id ++ le 7 (mkStamp b 0) ++ pad 8 req)) s1
  away.foldl (fun a i => (a.ril.aggs.find? fun g => g.reqId == id).elim a fun g => aggMiss a g i) s2

/-! ### Signed readings (R324, R325, R517, Table CMD.5) -/

/-- The requests of a READ_SIGNED. -/
def requestsOf (b : Bytes) (n : Nat) : List Bytes := (span 0 n).map fun i => slice b (8 * i) 8

/-- An aggregate request is well formed (Table CMD.18, R558). -/
def aggWell (r : Bytes) : Bool :=
  if reqA r = 0 then decide (reqC r < 256 ∧ reqB r = 0) else decide (reqA r = 1 ∧ reqB r < 2048 ∧ reqC r < 28)

/-- Whether a tenant may name what any request names (R324, R558). -/
def mayRequest (s : State) (t : Nat) (r : Bytes) : Bool :=
  if reqT r = 8 then t == 0 || (reqA r == 0 && reqC r == t) else reqPermitted s t r

/-- The signing slot that a KEYSEL names. -/
def blobSlot (t keysel : Nat) : Nat := if keysel = 1 then 3 else if keysel = 2 then 5 else 256 + t

/-- The items of a signed reading at boundary b (R324, Table CUS.8): time, legal, one for each request, and the nonce where NFLAG asks;
`agg` gives the item of an aggregate request by its place. -/
def blobItems (s : State) (b nflag nonce : Nat) (reqs : List Bytes) (agg : Nat → Bytes) : List Bytes :=
  [itemTime s b, itemLegal s] ++ (reqs.zipIdx.map fun q => if reqT q.1 = 8 then agg q.2 else itemFor s b q.1) ++
    (if bit nflag 0 then [tlv 9 (le 16 nonce)] else [])

/-- Every item of a waiting READ_SIGNED stands, so its blob starts (R325): arguments are KEYSEL, NREQ, NFLAG, NONCE and b, output
holds the requests. -/
def itemsReady (s : State) (o : OpenCmd) : State :=
  let arg := fun i => nth 0 o.arg i
  let reqs := requestsOf o.output (arg 1)
  let b := arg 4
  let mine := s.ril.aggs.filter fun g => g.token == o.token
  let items := blobItems s b (arg 2) (arg 3) reqs fun i => (mine.find? fun g => g.place == i).elim [] (aggItem s)
  let flags := flag (legalValid s) 0 + flag (reqs.any fun r => reqT r == 8) 1
  let s1 := setRil s fun r => { r with aggs := r.aggs.filter fun g => g.token != o.token }
  startBlob s1 o (blobSlot o.desc.tenant (arg 0)) flags items

/-- Start the blob of a token's command once every member asked has answered or is missing. -/
def aggsDone (s : State) (token : Nat) : State :=
  if s.ril.aggs.any fun g => g.token == token && !g.awaiting.isEmpty then s
  else match waitingCmds s 0x0401 token with
    | o :: _ => itemsReady s o
    | [] => setRil s fun r => { r with aggs := r.aggs.filter fun g => g.token != token }

/-- READ_SIGNED (R324, R517, R558). -/
def execReadSigned (d : Desc) (keysel nreq nflag nonce : Nat) (requests : Bytes) (s : State) : Out :=
  .next (if !signRoom s d.tenant then s else hostCmd s d 0x0401 true fun s =>
    let reqs := requestsOf requests nreq
    let aggs := reqs.filter fun r => reqT r == 8
    checked s d [((d.tenant == 0 || keysel == 0) && reqs.all (mayRequest s d.tenant), stNotPermitted),
      (decide (keysel ≤ 2 ∧ 1 ≤ nreq ∧ nreq ≤ 16) && reqs.all fun r => reqWell r && (reqT r != 8 || aggWell r), stBadArg),
      (decide (8 * nreq ≤ requests.length ∧ 1024 ≤ d.dlen), stDataShort), (reqs.all (reqFound s), stNotFound),
      (s.ril.master || (keysel != 2 && aggs.isEmpty), stCascadeRole)] fun s =>
      let b := settledBoundary s
      let (t, s1) := freshToken s
      let s2 := defer s1 d 0x0401 t [keysel, nreq, nflag, nonce, b] false [] requests
      let s3 := (reqs.zipIdx.filter fun q => reqT q.1 == 8).foldl (fun a q => askAggregate a b t q.2 q.1) s2
      aggsDone s3 t)

/-- AGG_REP at the master. -/
def doAggRep (s : State) (port : Nat) (p : Bytes) : State :=
  fromMember s port p fun s i =>
    let b := rilPayload p
    match s.ril.aggs.find? fun g => g.reqId == fld b 0 2 && g.awaiting.contains i with
    | none => s
    | some g =>
      if bit (fld b 2 1) 1 then aggsDone (aggMiss s g i) g.token
      else
        let g1 := { g with awaiting := g.awaiting.filter (· != i), answers := g.answers ++ [slice b 4 20], ok := setBit g.ok i,
                           held := if bit (fld b 2 1) 0 then setBit g.held i else g.held }
        aggsDone (setAgg s g1) g.token

/-! ### STATUS and CASCADE_STATUS (R557, Table RIL.7) -/

/-- STATUS at the master: the member's latest entry; a LOST member that is heard counts as JOINED again. -/
def doStatus (s : State) (port : Nat) (p : Bytes) : State :=
  fromMember s port p fun s i =>
    let b := rilPayload p
    setEntry s i { rilEntry s i with
      state := 2, flags := fld b 2 1, cause := fld b 3 1, deviceId := fld b 4 8, lfwVer := fld b 12 4, agreed := slice b 16 8,
      delay := fld b 24 4, phase := fld b 28 2, skew := fld b 30 2, heard := nowCycle s }

/-- A hub's entry as the master knows it. -/
def entryBytes (i : Nat) (e : RilEntry) : Bytes :=
  le 1 i ++ le 1 e.state ++ le 1 e.flags ++ le 1 e.cause ++ le 8 e.deviceId ++ le 4 e.lfwVer ++ pad 8 e.agreed ++ le 4 e.delay ++
    le 2 e.phase ++ le 2 e.skew

/-- ROLE (Table RIL.7). -/
def rilRole (s : State) : Nat := if s.ril.master then 1 else if s.ril.member then 2 else 0

/-- The cascade status record (Table RIL.7). -/
def cascadeRecord (s : State) : Bytes :=
  let st := slice (statusEntry s) 1 1
  let own : RilEntry := { state := 0xFF, deviceId := Config.deviceId, lfwVer := Config.legalFirmwareId % 2 ^ 32,
                          agreed := (agreedDigest s).take 8 }
  le 1 (rilRole s) ++ le 1 s.ril.cascId ++ (if s.ril.master then [0xFF] else if s.ril.member then st else [0]) ++ zeros 1 ++
    le 8 (if s.ril.master || s.ril.joined then masterDevice s else 0) ++ zeros 4 ++
    (span 0 8).flatMap fun i =>
      if s.ril.master then entryBytes i (if i = 0 then own else rilEntry s i)
      else if s.ril.member && i == s.ril.cascId then statusEntry s else zeros 32

/-- CASCADE_STATUS (R541, R557). -/
def execCascadeStatus (d : Desc) (s : State) : Out :=
  .next (hostCmd s d 0x0D01 true fun s =>
    checked s d [by0 d] fun s => replyOut s d (cascadeRecord s) (le 1 s.ril.cascId ++ le 1 (rilRole s)))

/-! ### Received packets as commands -/

/-- Take a packet whose type the service cores serve (R543, R560). -/
def serveRill (s : State) (port : Nat) (p : Bytes) (since : Nat) : State :=
  match rilType p with
  | 0x02 => doSync s port p
  | 0x03 => doPrepare s port p since
  | 0x04 => doAgree s port p
  | 0x05 => doDisagree s port p
  | 0x06 => doCommit s port p
  | 0x07 => doAbort s port p
  | 0x08 => doConfirm s port p
  | 0x09 => doAggReq s port p since
  | 0x0A => doAggRep s port p
  | 0x10 => doJoin s p
  | 0x11 => doAdmit s port p
  | 0x12 => doRefuse s port p
  | 0x13 => doStatus s port p
  | 0x14 => doLeave s port p
  | _ => s

/-- What waited while the service cores were down (R560). -/
def drainRill (s : State) : State :=
  s.ril.waiting.foldl (fun a q => serveRill a q.1 q.2.1 q.2.2) (setRil s fun r => { r with waiting := [] })

/-- BOUNDARY (R548, R550). -/
def execBoundary (port : Nat) (p : Bytes) (s : State) : Out :=
  .next (whenRunning s fun s => if rilType p = 0x01 then rilReceive s port p fun s => doBoundary s port p else s)

/-- SYNC (R551). -/
def execSync (port : Nat) (p : Bytes) (s : State) : Out :=
  .next (whenRunning s fun s => if rilType p = 0x02 then rilService s port p fun s => doSync s port p else s)

/-- PREPARE (R538). -/
def execPrepare (port : Nat) (p : Bytes) (s : State) : Out :=
  .next (whenRunning s fun s => if rilType p = 0x03 then rilService s port p fun s => doPrepare s port p (nowCycle s) else s)

/-- AGREE (R538). -/
def execAgree (port : Nat) (p : Bytes) (s : State) : Out :=
  .next (whenRunning s fun s => if rilType p = 0x04 then rilService s port p fun s => doAgree s port p else s)

/-- DISAGREE (R538). -/
def execDisagree (port : Nat) (p : Bytes) (s : State) : Out :=
  .next (whenRunning s fun s => if rilType p = 0x05 then rilService s port p fun s => doDisagree s port p else s)

/-- COMMIT (R538). -/
def execCommit (port : Nat) (p : Bytes) (s : State) : Out :=
  .next (whenRunning s fun s => if rilType p = 0x06 then rilService s port p fun s => doCommit s port p else s)

/-- ABORT (R538). -/
def execAbort (port : Nat) (p : Bytes) (s : State) : Out :=
  .next (whenRunning s fun s => if rilType p = 0x07 then rilService s port p fun s => doAbort s port p else s)

/-- CONFIRM (R538, R539). -/
def execConfirm (port : Nat) (p : Bytes) (s : State) : Out :=
  .next (whenRunning s fun s => if rilType p = 0x08 then rilService s port p fun s => doConfirm s port p else s)

/-- AGG_REQ (R559). -/
def execAggReq (port : Nat) (p : Bytes) (s : State) : Out :=
  .next (whenRunning s fun s => if rilType p = 0x09 then rilService s port p fun s => doAggReq s port p (nowCycle s) else s)

/-- AGG_REP (R559). -/
def execAggRep (port : Nat) (p : Bytes) (s : State) : Out :=
  .next (whenRunning s fun s => if rilType p = 0x0A then rilService s port p fun s => doAggRep s port p else s)

/-- JOIN (R546). -/
def execJoin (port : Nat) (p : Bytes) (s : State) : Out :=
  .next (whenRunning s fun s => if rilType p = 0x10 then rilService s port p fun s => doJoin s p else s)

/-- ADMIT (R549). -/
def execAdmit (port : Nat) (p : Bytes) (s : State) : Out :=
  .next (whenRunning s fun s => if rilType p = 0x11 then rilService s port p fun s => doAdmit s port p else s)

/-- REFUSE (R547). -/
def execRefuse (port : Nat) (p : Bytes) (s : State) : Out :=
  .next (whenRunning s fun s => if rilType p = 0x12 then rilService s port p fun s => doRefuse s port p else s)

/-- STATUS (R557). -/
def execStatus (port : Nat) (p : Bytes) (s : State) : Out :=
  .next (whenRunning s fun s => if rilType p = 0x13 then rilService s port p fun s => doStatus s port p else s)

/-- LEAVE (R545). -/
def execLeave (port : Nat) (p : Bytes) (s : State) : Out :=
  .next (whenRunning s fun s => if rilType p = 0x14 then rilService s port p fun s => doLeave s port p else s)

/-- ECHO_REQ (R548): ECHO_REP goes back on the same port with the turnaround, a free value. -/
def execEchoReq (port : Nat) (p : Bytes) (s : State) : Out :=
  .next (whenRunning s fun s =>
    if rilType p = 0x20 then
      rilReceive s port p fun s =>
        let (turn, s1) := takeFree s
        rilPut s1 port (rilPacket 0x21 s.ril.cascId 0xFE 0 0 0 0 (le 4 turn))
    else s)

/-- ECHO_REP with the round trip measured, in 2^-16 µs: half of it less the turnaround is the hop's delay (R548). -/
def execEchoRep (port : Nat) (p : Bytes) (roundTrip : Nat) (s : State) : Out :=
  .next (whenRunning s fun s =>
    if rilType p = 0x21 then
      rilReceive s port p fun s =>
        if port = 0 ∧ s.ril.member then setRil s fun r => { r with hop := (roundTrip - fld (rilPayload p) 0 4) / 2 } else s
    else s)

/-- RILL_BAD_PACKET (R544): a packet whose CRC is good and whose form is not raises EV_RIL_AUTH, cause FORMAT. -/
def execRillBadPacket (port : Nat) (p : Bytes) (s : State) : Out :=
  .next (whenRunning s fun s => if rilForm p then s else rilReceive s port p id)

/-- RIL_PORT_LINK_CHANGE (R540). -/
def execRilPortLinkChange (port : Nat) (up : Bool) (s : State) : Out :=
  .next (
    if (if port = 0 then s.ril.linkU else s.ril.linkD) = up then s
    else
      let s1 := setRil s fun r => if port = 0 then { r with linkU := up } else { r with linkD := up }
      whenRunning s1 fun s => raise s { id := 0x7D0, data := le 1 port ++ le 1 (flag up 0) })

/-- STRAP_CHANGE (R541): the pins change at once; the hub takes them at its next CHIP start. -/
def execStrapChange (en : Bool) (id : Nat) (s : State) : Out :=
  .next (
    let change := decide (s.ril.pinEn ≠ en ∨ s.ril.pinId ≠ id % 8)
    let s1 := setRil s fun r => { r with pinEn := en, pinId := id % 8 }
    if change then whenRunning s1 fun s => raise s { id := 0x7DA, data := le 1 1 } else s1)

/-! ### Time limits (R538, R539, R546, R547, R550, R559) -/

/-- JOIN_ANSWER_TIMEOUT (R546). -/
def execJoinAnswerTimeout (s : State) : Out :=
  .next (whenRunning s fun s =>
    if s.ril.member ∧ s.ril.state = .joining ∧ s.ril.start.isNone ∧ s.ril.lastJoin.elim false (fun n => decide (n + 64 ≤ nowCycle s))
    then detach s 0 else s)

/-- MEMBER_STATUS_TIMEOUT (R546): a member unheard for 64 cycles is LOST. -/
def execMemberStatusTimeout (i : Nat) (s : State) : Out :=
  .next (whenRunning s fun s =>
    let e := rilEntry s i
    if s.ril.master ∧ e.state = 2 ∧ e.heard + 64 ≤ nowCycle s then
      raise (setEntry s i { e with state := 4 }) { id := 0x7D4, data := le 1 i }
    else s)

/-- REFUSAL_RETRY_EXPIRE (R547). -/
def execRefusalRetryExpire (s : State) : Out :=
  .next (whenRunning s fun s =>
    if s.ril.member ∧ s.ril.state = .isolated ∧ s.ril.retryAt.elim false (fun t => decide (t ≤ nowTick s)) then sendJoin s else s)

/-- PREPARE_REPLY_TIMEOUT (R538): the members that have not answered within 4 cycles make the master abort. -/
def execPrepareReplyTimeout (s : State) : Out :=
  .next (whenRunning s fun s =>
    match s.slu.agreement with
    | some a =>
      if a.since + 4 ≤ nowCycle s ∧ !a.awaiting.isEmpty then refuseAgreement s a (joinedMembers s) a.awaiting stCascadeDisagree else s
    | none => s)

/-- DECISION_DEADLINE (R539): neither COMMIT nor ABORT by s − 8 cycles. -/
def execDecisionDeadline (s : State) : Out :=
  .next (whenRunning s fun s =>
    match s.slu.prepared with
    | some st =>
      if st ≤ nowStamp s + 8 * angleBits then heldEnter (setSlu s fun u => { u with prepared := none }) 2 else s
    | none => s)

/-- CONFIRM_TIMEOUT (R539): 4 cycles after s, a member whose confirmation could not leave is HELD; the master counts those missing. -/
def execConfirmTimeout (s : State) : Out :=
  .next (whenRunning s fun s =>
    let past := fun (st : Stamp) => decide (st + 4 * angleBits ≤ nowStamp s)
    let s1 := match s.slu.unconfirmed with
      | some st => if past st then heldEnter (setSlu s fun u => { u with unconfirmed := none }) 1 else s
      | none => s
    match s1.slu.confirming with
    | some c =>
      if past c.1 then
        c.2.foldl (fun a i => markHeld (cascadeEvent a 6 i c.1 [] true) i) (setSlu s1 fun u => { u with confirming := none })
      else s1
    | none => s1)

/-- AGG_REQ_TIMEOUT (R559): the members that have not answered within 8 cycles are missing. -/
def execAggReqTimeout (s : State) : Out :=
  .next (whenRunning s fun s =>
    (s.ril.aggs.filter fun g => decide (g.since + 8 ≤ nowCycle s)).foldl (fun a g =>
      let b := g.awaiting.foldl (fun x i => (x.ril.aggs.find? fun y => y.reqId == g.reqId).elim x fun y => aggMiss x y i) a
      if b.pwr.serviceDown then b else aggsDone b g.token) s)

/-- BOUNDARY_MISSING (R550, R552): 1/8 period past the projected instant the member places the boundary itself; at the third in a
row it detaches. -/
def execBoundaryMissing (s : State) : Out :=
  .next (whenRunning s fun s =>
    if s.ril.joined ∧ s.ril.next.isNone ∧ !s.ril.placeOwn ∧
       (65536 + 8192) * 32768 * 65536 ≤ ((nowTick s - s.clk.tick) * 65536 - s.clk.tickFrac) * s.clk.freq then
      let s1 := setRil s fun r => { r with placeOwn := true, selfPlaced := r.selfPlaced + 1 }
      if 3 ≤ s1.ril.selfPlaced then detach s1 0 else s1
    else s)

/-! ### The cascade's part of a boundary (R549, R550, R554–R557) -/

/-- The number the next boundary takes, whether it is a forward step, and whether the cascade lets it be placed: a JOINED member
places a master's boundary or, once it is missing, its own. -/
def nextNumber (s : State) : Option (Nat × Bool) :=
  let natural := nowCycle s + 1
  let take := fun (b : MasterBnd) => some (max natural b.cycle, decide (natural < b.cycle))
  if s.ril.joined then
    match s.ril.next with
    | some b => take b
    | none => if s.ril.placeOwn then some (natural, false) else none
  else if s.ril.member && s.ril.state == .joining then
    match s.ril.start, s.ril.next with
    | some st, some b => if st ≤ b.cycle then (take b).map fun q => (q.1, true) else some (natural, false)
    | _, _ => some (natural, false)
  else
    match s.ril.steps.find? fun p => p.1 == natural with
    | some p => some (max natural p.2, decide (natural < p.2))
    | none => some (natural, false)

/-- START of a joining member falls on the boundary just placed (R549, R554): SLAVE, JOINED, and the digests are compared. -/
def joinAtStart (s : State) : State :=
  match s.ril.state, s.ril.start, s.ril.next with
  | .joining, some st, some b =>
    if st ≤ b.cycle then
      let s1 := setRil (enterClock s .slave) fun r => { r with
        state := .joined, start := none, since := nowCycle s, selfPlaced := 0, phases := [], row := 0 }
      let s2 := sendStatus (joinEvent s1 s.ril.cascId Config.deviceId st)
      if b.agreed = (agreedDigest s2).take 8 then s2 else heldEnter s2 4
    else s
  | _, _, _ => s

/-- The row of Table RIL.5 at a boundary. -/
def skewRow (s : State) (b : MasterBnd) (skew : Int) : Nat :=
  let trusted := b.stat / 8 % 4 == 0
  if s.bkd.osf && trusted then 1 else if !trusted then 2
  else if skew.natAbs ≤ 66 then 3 else if skew.natAbs ≤ 32768 then 4 else 5

/-- Time at a boundary of a JOINED member (R555, R556): a set that is due, the skew, its row, and EV_RIL_TIME_SKEW at a change. -/
def memberTime (s : State) (b : MasterBnd) : State :=
  let s1 := if s.ril.setDue then
      applyTime (setRil s fun r => { r with setDue := false }) ((b.utc : Int) + ((nowTick s : Int) - (s.clk.tick : Int)))
    else s
  let skew := (s1.clk.tick : Int) + s1.bkd.epoch - (b.utc : Int)
  let row := skewRow s1 b skew
  let setting := row == 1 || (row == 4 && bit (cascadeField s1 1 1) 0)
  let s2 := setRil s1 fun r => { r with
    skew := skew, row := row, skewed := row == 5, setDue := setting, utcLess := (b.utc : Int) - (s1.clk.tick : Int) }
  let action := if row = 5 then 2 else if setting then 1 else 0
  if s1.ril.row = row then s2 else raise s2 { id := 0x7D6, star := row == 5, data := leInt 8 skew ++ le 1 action }

/-- The shadow's phase at a boundary (R550). -/
def memberPhase (s : State) (phaseErr : Int) : State :=
  let s1 := setRil s fun r => { r with phases := (phaseErr :: r.phases).take 16 }
  let a := phaseAvg s1.ril
  if s1.ril.phases.length < 16 then s1
  else if !s1.ril.mismatch && decide (910 < a.natAbs) then
    sendStatus (raise (setRil s1 fun r => { r with mismatch := true }) { id := 0x7D5, star := true, data := le 1 0 ++ leInt 2 a })
  else if s1.ril.mismatch && decide (a.natAbs < 728) then
    sendStatus (raise (setRil s1 fun r => { r with mismatch := false }) { id := 0x7D5, data := le 1 1 ++ leInt 2 a })
  else s1

/-- A JOINED member at a boundary. -/
def memberBoundary (s : State) (phaseErr : Int) : State :=
  let s1 := match s.ril.next with
    | some b => memberPhase (memberTime (setRil s fun r => { r with selfPlaced := 0 }) b) phaseErr
    | none => s
  let s2 := setRil s1 fun r => { r with next := none, placeOwn := false }
  let s3 := if s2.ril.statusAt + 16 ≤ nowCycle s2 then sendStatus s2 else s2
  let s4 := if s3.ril.echoAt + 65536 ≤ nowCycle s3 then sendEcho s3 else s3
  answerAggs s4

/-- BOUNDARY for the boundary just placed (Table RIL.2); OFFSET is a free value. -/
def sendBoundary (s : State) : State :=
  let (off, s1) := takeFree s
  let utc := ((s.clk.tick : Int) + s.bkd.epoch).toNat
  toAll s1 0x01 (le 5 (nowCycle s) ++ le 4 (1000000 * 4294967296 / max 1 s.clk.freq) ++ le 4 off ++ le 6 utc ++ le 2 s.clk.tickFrac ++
    le 1 (clkTt s) ++ (agreedDigest s).take 8)

/-- The master at a boundary (R545, R549): the step it took, the members whose START has come, the limit of the counters, and
BOUNDARY. -/
def masterBoundary (s : State) (natural : Nat) : State :=
  let s1 := if natural < nowCycle s then raise s { id := 0x7D8, data := le 5 natural ++ le 5 (nowCycle s) } else s
  let s2 := setRil s1 fun r => { r with
    steps := r.steps.filter fun p => decide (natural < p.1),
    entries := tmap (fun _ e => if e.state = 1 && e.start.elim false (fun n => decide (n ≤ nowCycle s)) then
      { e with state := 2, start := none, heard := nowCycle s } else e) r.entries }
  let limit := 2 ^ 48 - 2 ^ 20 - 1
  let spent := decide (limit ≤ s2.ril.txKg) || s2.ril.entries.any fun p => decide (limit ≤ max p.2.tx p.2.rx)
  sendBoundary (if spent then newBoot (leaveAll s2 0) else s2)

/-- The cascade's work at a numbered boundary. -/
def cascadeBoundary (s : State) (natural : Nat) (phaseErr : Int) : State :=
  if s.ril.master then masterBoundary s natural
  else if s.ril.member then
    let s1 := joinAtStart s
    if s1.ril.joined then memberBoundary s1 phaseErr else s1
  else s

/-! ### Restarts (R541, R560) -/

/-- Straps at a CHIP start, with the member DETACHED and a master's boot nonce. -/
def cascadeStart (s : State) : State :=
  newBoot (setRil s fun r => { r with cascEn := r.pinEn, cascId := r.pinId })

/-- A cascade restart (R398, R560): the master sends LEAVE and draws a new boot nonce; a member detaches and joins again. -/
def cascadeRestart (s : State) : State :=
  if s.ril.master then
    newBoot (setRil (leaveAll s 1) fun r => { r with entries := tmap (fun _ e => if e.state = 1 then { e with state := 0 } else e) r.entries })
  else if s.ril.member ∧ s.ril.state ≠ .detached then
    setRil (detach s 1) fun r => { r with lastJoin := none }
  else s

/-- A FW_ACTIVATE lets a refused member join again (R547). -/
def firmwareRetry (s : State) : State := if s.ril.state = .isolated then setRil s fun r => { r with retryNow := true } else s

end Sys2Proof.Machine
end

