-- ==== Sys2Proof/Machine/Registers.lean ====
section
/-!
DEFINITION. The set-up registers: what a read of each returns, capture groups, register writes, the GPIO pins and the site
identifier (24_setup_registers.md, R584–R596, R13).
-/
namespace Sys2Proof.Machine

/-! ### Fields -/

/-- Word k of a byte string (R586). -/
def wordOf (b : Bytes) (k : Nat) : Nat := fld b (4 * k) 4

/-- One bit per item of a run of 32. -/
def bits32 (k : Nat) (f : Nat → Bool) : Nat := nsum ((span 0 32).map fun i => flag (f (32 * k + i)) i)

/-- One field of `w` bits per item of a run of `n`. -/
def packed (k n w : Nat) (f : Nat → Nat) : Nat := nsum ((span 0 n).map fun i => f (n * k + i) % 2 ^ w * 2 ^ (w * i))

/-- A signed value in `n` bits. -/
def twos (n : Nat) (v : Int) : Nat := (v % (2 ^ n : Nat)).toNat

/-- A stamp as CYC_NOW0 and CYC_NOW1 hold it. -/
def stampWords (st : Stamp) (c : Nat) : List Nat :=
  [Stamp.angle st + 65536 * (Stamp.cycle st % 65536), Stamp.cycle st / 65536 % 16777216 + 16777216 * c]

/-- The pending commit of a tenant, as SLU_PEND0 and SLU_PEND1 hold it. -/
def pendWords (s : State) (t : Nat) : List Nat :=
  match tfind s.slu.images t with
  | some i =>
    let c := Stamp.cycle i.stamp
    [c % 4294967296, c / 4294967296 % 256 + 256 + flag ((cue s i.cue).kind == cueCascade) 9]
  | none => [0, 0]

/-- A 64-bit value as two words. -/
def words2 (v : Nat) : List Nat := [v % 4294967296, v / 4294967296 % 4294967296]

/-! ### Capture groups (R585) -/

/-- The groups marked CAP: offset of the first register, and whether it lies in the status page of a VF.  0 is BKD_RTC_SH0–5. -/
def capOffset (g : Nat) : Option Nat := nth none [some 0x3000, some 0x2010, some 0x5010, some 0x8008, some 0x8010, some 0xC008, some 0xD008, some 0x1018] g

/-- The live words of a group as a function reads them. -/
def capLive (s : State) (f g : Nat) : List Nat :=
  match g with
  | 0 => shadowWords s
  | 1 => stampWords (nowStamp s) (clk s)
  | 2 => stampWords s.flt.lastSync 0
  | 3 => words2 (lowestAseq s)
  | 4 => words2 (highestAseq s)
  | 5 => pendWords s 0
  | 6 => words2 (s.ev.next - 1)
  | 7 => pendWords s f
  | _ => []

/-- Groups that a function has: 1 to 6 in PF BAR0, 7 in the status page of a VF; group 0 has its own command. -/
def capOf (f g : Nat) : Bool := if f = 0 then decide (1 ≤ g ∧ g ≤ 6) else g == 7

/-- A word of a group: captured, or live. -/
def capWord (s : State) (f g k : Nat) : Nat :=
  if g = 0 then
    match s.bkd.freeze with
    | some c => nth 0 c.2 k
    | none => nth 0 (shadowWords s) k
  else match tfind s.reg.caps (256 * f + g) with
    | some c => nth 0 c.2 k
    | none => nth 0 (capLive s f g) k

/-- Change the captures. -/
def setCaps (s : State) (f : Tbl (Nat × List Nat) → Tbl (Nat × List Nat)) : State := { s with reg := { s.reg with caps := f s.reg.caps } }

/-- CAPTURE_GROUP_FIRST_READ (R585): every register of the group at one instant. -/
def execCaptureGroupFirstRead (f g : Nat) (s : State) : Out :=
  .next (whenRunning s fun s =>
    if capOf f g then
      answer (setCaps s fun c => tput c (256 * f + g) (nowTick s, capLive s f g)) f (nth 0 (capLive s f g) 0)
    else s)

/-- CAPTURE_GROUP_LAST_READ (R585, R73): the captured or live word, and the end of the capture. -/
def execCaptureGroupLastRead (f g : Nat) (s : State) : Out :=
  .next (whenRunning s fun s =>
    if f = 0 ∧ g = 0 then setBkd (answer s 0 (capWord s 0 0 5)) fun b => { b with freeze := none }
    else if capOf f g then setCaps (answer s f (capWord s f g 1)) fun c => tdel c (256 * f + g)
    else s)

/-- CAPTURE_GROUP_EXPIRE (R585): 1 ms after the capture. -/
def execCaptureGroupExpire (f g : Nat) (s : State) : Out :=
  .next (match tfind s.reg.caps (256 * f + g) with
    | some c => if c.1 + 33 ≤ nowTick s then setCaps s fun l => tdel l (256 * f + g) else s
    | none => s)

/-! ### Reads (Tables REG.2–REG.9) -/

/-- HIF (Table REG.2). -/
def hifReg (s : State) (o : Nat) : Nat :=
  let h := s.hif
  if o = 0 then flag h.linkUp 0 + 2 * h.rate + 8 * h.width + flag (h.linkUp && (h.rate != 3 || h.width != 2)) 5 + flag h.vfEnable 8 +
    flag h.ari 9 + 65536 * h.numVfs
  else if o = 4 then h.badCount
  else if o = 8 then h.badLast
  else if 0x40 ≤ o ∧ o < 0x60 then wordOf (ctx s 0).report ((o - 0x40) / 4)
  else if 0x100 ≤ o ∧ o < 0x180 then packed ((o - 0x100) / 4) 8 4 fun t => ctxCode (ctx s t).state
  else 0

/-- RNG bootstrap (Table REG.3). -/
def bootReg (s : State) (o : Nat) : Nat :=
  if o < 0x28 then wordOf s.rng.def0 (o / 4)
  else if 0x40 ≤ o ∧ o < 0x68 then wordOf s.rng.def1 ((o - 0x40) / 4)
  else if o = 0x84 then s.rng.bootState + 65536 * s.rng.bootCode
  else if o = 0x88 then s.rng.bootRseq
  else 0

/-- CYC (Table REG.4). -/
def cycReg (s : State) (o : Nat) : Nat :=
  let valid := fun (k : Nat) => (let c := cfg s (objCode objClock 0) k 1; decide (c ≤ 2) && decide (0 < nth 0 s.clk.refRun c))
  if o = 0 then clk s + flag (coastFlag s) 3 + 16 * (s.clk.active.getD 0 % 4) + nsum ((span 0 4).map fun k => flag (valid k) (8 + k)) +
    flag ((span 0 4).any fun k => (let c := cfg s (objCode objClock 0) k 1; decide (c ≤ 2) && decide (2 ≤ nth 0 s.clk.outRun c))) 12
  else if o = 4 then s.clk.freq
  else if o = 8 then twos 16 s.clk.phaseErr
  else if o = 0x10 then capWord s 0 1 0
  else if o = 0x14 then capWord s 0 1 1
  else if o = 0x18 then (s.clk.cues.filter fun p => cuePending p.2).length +
    65536 * ((span 0 64).filter fun i => (cue s i).state == .free).length
  else 0

/-- BKD (Table REG.5). -/
def bkdReg (s : State) (o : Nat) : Nat :=
  let b := s.bkd
  if o < 0x18 then capWord s 0 0 (o / 4)
  else if o = 0x20 then flag b.modeB 0 + 2 * b.vsw
  else if o = 0x30 then (b.first.elim 0 (·.1)) % 4294967296
  else if o = 0x34 then
    (match b.first with
      | some (t, m, tr) => t / 4294967296 % 65536 + 65536 * (1 + flag m 1 + 4 * tr)
      | none => 0) + 16777216 * osfByte s (calRange s)
  else if o = 0x38 then b.swCount
  else if o = 0x3C then flag b.swSat 0
  else if o = 0x40 then flag b.nominal60 0
  else if o = 0x44 then b.policy + flag b.pwronLow 1 + 65536 * b.maxOff
  else if o = 0x48 then b.stepLimit
  else if o = 0x4C then flag b.onVbat 0 + flag b.vbatLow 1 + flag b.fromRef 2
  else if o = 0x50 then twos 15 b.corrN + flag b.fast 16 + flag b.sensorFail 17 + flag b.clamp 18
  else if o = 0x54 then twos 16 (b.lastSample.getD 0)
  else
    let a := if o < 0x70 then b.alm0 else b.alm1
    if 0x60 ≤ o ∧ o < 0x80 then (match o % 16 with
      | 0 => a.time
      | 4 => a.date
      | 8 => a.ctrl
      | _ => 0)
    else 0

/-- PLY (Table REG.6). -/
def plyReg (s : State) (o : Nat) : Nat :=
  let y := s.ply
  let up := fun (l : Option Nat) => l.elim false fun f => decide (y.frame ≤ f + 64)
  if o = 0 then flag (up y.lastA) 0 + flag (up y.lastB) 1 + flag y.trained 2 + flag y.wrapped 3 + 256 * (y.breakHop % 128) + 65536 * (y.hop % 128)
  else if o = 4 then y.la % 65536
  else if o = 8 then wireFrame s y.frame
  else if 0x100 ≤ o ∧ o < 0x120 then packed ((o - 0x100) / 4) 8 4 fun p => headCode (head s p).state + flag (head s p).held 3
  else 0

/-- FLT (Table REG.6). -/
def fltReg (s : State) (o : Nat) : Nat :=
  if o = 0 then 63 + 256 * 2031616
  else if o = 4 then flag s.clk.lowBand 0
  else if o = 0x10 then capWord s 0 2 0
  else if o = 0x14 then capWord s 0 2 1
  else if o = 0x18 then s.flt.satCount
  else if 0x100 ≤ o ∧ o < 0x1FC then twos 32 (Config.romCoefficient (64 + (o - 0x100) / 4))
  else if 0x200 ≤ o ∧ o < 0x2FC then twos 32 (Config.romCoefficient ((o - 0x200) / 4))
  else 0

/-- MET (Table REG.6). -/
def metReg (s : State) (o : Nat) : Nat :=
  if o = 0 then twos 16 s.met.temp + flag s.met.tempExt 16
  else if o = 4 then flag (mpOf s 256).noLoad 0 + flag (mpOf s 256).resLost 1
  else if o = 8 then packed 0 8 2 fun k => (tget {} s.met.recon k).result
  else if 0x100 ≤ o ∧ o < 0x120 then bits32 ((o - 0x100) / 4) fun m => (mpOf s m).run.isSome
  else if 0x120 ≤ o ∧ o < 0x140 then bits32 ((o - 0x120) / 4) fun m => (mpOf s m).noLoad
  else if 0x140 ≤ o ∧ o < 0x160 then bits32 ((o - 0x140) / 4) fun m => (mpOf s m).resLost
  else if 0x200 ≤ o ∧ o < 0x210 then nth 0 s.met.siteId ((o - 0x200) / 4)
  else 0

/-- SEAL (Table REG.7). -/
def sealReg (s : State) (o : Nat) : Nat :=
  let st := match s.lgl.state with
    | .unsealed => 0
    | .sealed => 1
    | .broken => 2
  if o = 0 then st + flag (legalValid s) 2 + flag s.lgl.lockStrapped 3 + flag (!s.lgl.brkOpen) 4 + flag s.bkd.breakLatch.isSome 5 +
    flag s.lgl.unwatched 6 + flag s.lgl.halt 7 + 65536 * (sealCount s % 65536)
  else if o = 4 then Config.legalFirmwareId % 2 ^ 32
  else if 0x10 ≤ o ∧ o < 0x30 then wordOf (be 32 (Config.legalFirmwareId / 2 ^ 32)) ((o - 0x10) / 4)
  else if 0x30 ≤ o ∧ o < 0x50 then wordOf (calDigest s) ((o - 0x30) / 4)
  else if o = 0x50 then permFree s % 65536
  else if o = 0x54 then s.lgl.seq
  else if o = 0x58 then runNumber s % 4294967296
  else 0

/-- CIS (Table REG.7). -/
def cisReg (s : State) (o : Nat) : Nat :=
  if o = 0 then flag (running s) 0 + nsum ((span 0 4).map fun k => flag (s.cis.readOnly.contains k) (1 + k)) + 256 * (46 - s.cis.sparesUsed)
  else if o = 4 then s.cis.tail.length
  else if o = 8 then capWord s 0 3 0
  else if o = 0xC then capWord s 0 3 1
  else if o = 0x10 then capWord s 0 4 0
  else if o = 0x14 then capWord s 0 4 1
  else if o = 0x18 then min 131071 ((s.cis.blocks.map fun p => p.2.count).foldl max 0)
  else 0

/-- CMP (Table REG.7): MODE and BAND of the radio object in force. -/
def cmpReg (s : State) (o : Nat) : Nat :=
  if o = 0 then radioField s 0 1 % 4 + 4 * (radioField s 1 1 % 8) + nsum ((span 0 8).map fun k => flag (s.cmp.hold.contains k) (8 + k)) +
    65536 * s.cmp.leases.length
  else if 0x20 ≤ o ∧ o < 0x40 then accountMs s ((o - 0x20) / 4)
  else 0

/-- ANN (Table REG.7). -/
def annReg (s : State) (o : Nat) : Nat :=
  let clipBits := fun (c : Nat) => ((annChan s c).stack.head?).elim 0 fun x => if x.started then x.clip % 64 + 128 else 0
  if o = 0 then annCode (annChan s 0).state + 16 * annCode (annChan s 1).state + 256 * (annChan s 0).retries + 4096 * (annChan s 1).retries +
    flag s.ann.mute 16 + 131072 * s.ann.band
  else if o = 4 then Config.vspkLevel (nowTick s) % 65536
  else if o = 8 then clipBits 0 + 256 * clipBits 1
  else 0

/-- RIL (Table REG.7). -/
def rilReg (s : State) (o : Nat) : Nat :=
  let r := s.ril
  let st := match r.state with
    | .detached => 0
    | .joining => 1
    | .joined => 2
    | .isolated => 3
  if o = 0 then flag r.cascEn 0 + 2 * r.cascId + 16 * rilRole s + 256 * (if r.master then 7 else if r.member then st else 0) +
    flag s.slu.held 11 + flag r.mismatch 12 + flag r.skewed 13 + flag r.linkU 14 + flag r.linkD 15
  else if o = 4 then r.delay
  else if o = 8 then (if r.master then packed 0 8 4 fun i => if i = 0 then 7 else (rilEntry s i).state else 0)
  else 0

/-- SLU (Table REG.8). -/
def sluReg (s : State) (o : Nat) : Nat :=
  if o = 0 then (stage s 0).sgen
  else if o = 4 then (stage s 0).stamped.getD 0
  else if o = 8 then capWord s 0 5 0
  else if o = 0xC then capWord s 0 5 1
  else if o = 0x10 then flag s.slu.held 0 + (if s.slu.held then 2 * s.slu.heldCause else 0)
  else if 0x20 ≤ o ∧ o < 0x40 then wordOf (agreedDigest s) ((o - 0x20) / 4)
  else 0

/-- EVT (Table REG.8). -/
def evtReg (s : State) (o : Nat) : Nat :=
  let domByte := fun (k : Nat) => (match (dom s k).state with
    | .idle => 0
    | .handling => 1
    | .escalating => 2) + 4 * (dom s k).stack.length
  if o = 0 then s.reg.overrun
  else if o = 8 then capWord s 0 6 0
  else if o = 0xC then capWord s 0 6 1
  else if o = 0x10 then s.ev.lostAll
  else if 0x20 ≤ o ∧ o < 0x30 then packed ((o - 0x20) / 4) 4 8 domByte
  else if 0x40 ≤ o ∧ o < 0x80 then (dom s ((o - 0x40) / 4)).total
  else 0

/-- KEY (Table REG.8). -/
def keyReg (s : State) (o : Nat) : Nat :=
  if o = 0 then flag (running s) 0 + flag s.key.drbg 1 + flag (running s && !s.key.drbg) 2 +
    256 * min 255 s.key.loadFail
  else if 0x100 ≤ o ∧ o < 0x140 then bits32 ((o - 0x100) / 4) fun k => (keySlot s k).valid
  else if 0x140 ≤ o ∧ o < 0x180 then bits32 ((o - 0x140) / 4) fun k => (keyCtr s k).low
  else if 0x180 ≤ o ∧ o < 0x1C0 then bits32 ((o - 0x180) / 4) fun k => (keyCtr s k).exhausted
  else 0

/-- Levels of the GPIO pins: driven or read (R592). -/
def gpioLevel (s : State) : Nat :=
  nsum ((span 0 16).map fun i => flag (if bit s.reg.gpioDir i then bit s.reg.gpioOut i else bit s.reg.gpioIn i) i)

/-- ID (Table REG.8). -/
def idReg (s : State) (o : Nat) : Nat :=
  if o = 0 then Config.idPci
  else if o = 4 then Config.idRev
  else if o = 8 then Config.deviceId % 4294967296
  else if o = 0xC then Config.deviceId / 4294967296 % 4294967296
  else if o = 0x10 then 348672
  else if o = 0x14 then flag s.ril.cascEn 0 + 2 * s.ril.cascId + flag s.lgl.lockStrapped 4
  else if o = 0x18 then s.cmd.running + flag (Config.imageSigned s.cmd.imageA) 1 + flag (Config.imageSigned s.cmd.imageB) 2
  else if o = 0x1C then Config.imageVersion s.cmd.imageA % 4294967296
  else if o = 0x20 then Config.imageVersion s.cmd.imageB % 4294967296
  else if o = 0x30 then Config.hubCert.length
  else if 0x400 ≤ o ∧ o < 0x800 then wordOf Config.hubCert ((o - 0x400) / 4)
  else if o = 0x800 then s.reg.gpioDir
  else if o = 0x804 then s.reg.gpioOut
  else if o = 0x808 then gpioLevel s
  else if o = 0x80C then s.reg.gpioPull
  else 0

/-- What a read of PF BAR0 returns (R584, Table REG.1); a reserved offset reads 0. -/
def regRead (s : State) (off : Nat) : Nat :=
  let o := off % 4096
  match off / 4096 with
  | 0 => hifReg s o
  | 1 => bootReg s o
  | 2 => cycReg s o
  | 3 => bkdReg s o
  | 4 => plyReg s o
  | 5 => fltReg s o
  | 6 => metReg s o
  | 7 => sealReg s o
  | 8 => cisReg s o
  | 9 => cmpReg s o
  | 10 => annReg s o
  | 11 => rilReg s o
  | 12 => sluReg s o
  | 13 => evtReg s o
  | 14 => keyReg s o
  | 15 => idReg s o
  | _ => 0

/-- What a read of the BAR0 of VF t returns: its mailbox and its status page (Tables RNG.3, RNG.14, REG.9, R595). -/
def vfRead (s : State) (t off : Nat) : Nat :=
  let c := ctx s t
  let k := 256 + t
  if 0x100 ≤ off ∧ off < 0x128 then wordOf c.mbxDef0 ((off - 0x100) / 4)
  else if 0x140 ≤ off ∧ off < 0x168 then wordOf c.mbxDef1 ((off - 0x140) / 4)
  else if off = 0x1F4 then c.mbxState + 65536 * c.mbxCode
  else if off = 0x1000 then t + 256 * ctxCode c.state
  else if off = 0x1004 then Config.deviceId % 4294967296
  else if off = 0x1008 then Config.deviceId / 4294967296 % 4294967296
  else if off = 0x100C then (keySlot s k).kgen + flag (!(keySlot s k).valid) 16 + flag (keyCtr s k).low 17 + flag (keyCtr s k).exhausted 18
  else if off = 0x1010 then (stage s t).sgen
  else if off = 0x1014 then (stage s t).stamped.getD 0
  else if off = 0x1018 then capWord s t 7 0
  else if off = 0x101C then capWord s t 7 1
  else if 0x1020 ≤ off ∧ off < 0x1030 then packed ((off - 0x1020) / 4) 16 2 fun i => ringStateCode (ring s t i).state
  else if 0x1040 ≤ off ∧ off < 0x1060 then wordOf c.report ((off - 0x1040) / 4)
  else 0

/-! ### Writes (R587) -/

/-- Offsets of the registers of PF BAR0 (Tables REG.2–REG.8), as first and last. -/
def pfRegs : List (Nat × Nat) :=
  [(0x0000, 0x0008), (0x0040, 0x005C), (0x0100, 0x017C), (0x1000, 0x1024), (0x1040, 0x1064), (0x1080, 0x1088), (0x2000, 0x2008),
   (0x2010, 0x2018), (0x3000, 0x3014), (0x3020, 0x3020), (0x3030, 0x303C), (0x3040, 0x3054), (0x3060, 0x3068), (0x3070, 0x3078)] ++
  [(0x4000, 0x4008), (0x4100, 0x411C), (0x5000, 0x5004), (0x5010, 0x5018), (0x5100, 0x51FC), (0x5200, 0x52FC), (0x6000, 0x6008),
   (0x6100, 0x615C), (0x6200, 0x620C), (0x7000, 0x7004), (0x7010, 0x7058), (0x8000, 0x8018), (0x9000, 0x9000), (0x9020, 0x903C)] ++
  [(0xA000, 0xA008), (0xB000, 0xB008), (0xC000, 0xC010), (0xC020, 0xC03C), (0xD000, 0xD000), (0xD008, 0xD010), (0xD020, 0xD02C),
   (0xD040, 0xD07C), (0xE000, 0xE000), (0xE100, 0xE1BC), (0xF000, 0xF020), (0xF030, 0xF030), (0xF400, 0xF7FC), (0xF800, 0xF80C)]

/-- Whether PF BAR0 has a register at an offset. -/
def pfHas (off : Nat) : Bool := off % 4 == 0 && pfRegs.any fun p => decide (p.1 ≤ off ∧ off ≤ p.2)

/-- A byte string with one word replaced (R586). -/
def putWord (b : Bytes) (k v : Nat) : Bytes := b.take (4 * k) ++ le 4 v ++ b.drop (4 * k + 4)

/-- GPIO direction, output or pull; the input register is read-only (R592).  Reserved bits are ignored (R9). -/
def gpioPut (s : State) (off v : Nat) : State :=
  if off = 0xF800 then { s with reg := { s.reg with gpioDir := v % 65536 } }
  else if off = 0xF804 then { s with reg := { s.reg with gpioOut := v % 65536 } }
  else if off = 0xF80C then { s with reg := { s.reg with gpioPull := v % 65536 } }
  else s

/-- GPIO_WRITE (R592). -/
def execGpioWrite (off v : Nat) (s : State) : Out := .next (whenRunning s fun s => gpioPut s off v)

/-- A write to MET_SITE_ID: ignored once sealed, with EV_SEAL_LK_WRITE; otherwise the word is written and read back (R241, R593). -/
def siteIdPut (s : State) (word v : Nat) : State :=
  if 4 ≤ word then s
  else if s.lgl.state = .sealed then lkWrite s (0x6200 + 4 * word)
  else if legalReadOnly s then s
  else { s with met := { s.met with siteId := setNth s.met.siteId word (v % 4294967296) } }

/-- MET_SITE_ID_WRITE (R593). -/
def execMetSiteIdWrite (word v : Nat) (s : State) : Out := .next (whenRunning s fun s => siteIdPut s word v)

/-- A write to PF BAR0: a definition of the bootstrap, a register with a range, a read-only register, or no register (R584, R587). -/
def pfWrite (s : State) (off v : Nat) : State :=
  if !pfHas off then badAccessEvent s 0 0 off true
  else if off / 4096 = 1 ∧ off % 4096 < 0x28 then
    { s with rng := { s.rng with def0 := putWord s.rng.def0 (off % 4096 / 4) v } }
  else if off / 4096 = 1 ∧ 0x40 ≤ off % 4096 ∧ off % 4096 < 0x68 then
    { s with rng := { s.rng with def1 := putWord s.rng.def1 ((off % 4096 - 0x40) / 4) v } }
  else if [0x3020, 0x3044, 0x3048].contains off || (0x3060 ≤ off && off < 0x307C) then rwsWrite s off v
  else if 0x6200 ≤ off ∧ off < 0x6210 then siteIdPut s ((off - 0x6200) / 4) v
  else gpioPut s off v

/-- A write to the BAR0 of VF t: a mailbox definition; the status page is ignored; any other offset is reserved (Table RNG.3). -/
def vfWrite (s : State) (t off v : Nat) : State :=
  let c := ctx s t
  if (ctx s t).state = .undefined then badAccessEvent s t 0 off true
  else if 0x100 ≤ off ∧ off < 0x128 then setCtx s t { c with mbxDef0 := putWord c.mbxDef0 ((off - 0x100) / 4) v }
  else if 0x140 ≤ off ∧ off < 0x168 then setCtx s t { c with mbxDef1 := putWord c.mbxDef1 ((off - 0x140) / 4) v }
  else if off = 0 ∨ off = 0x1F0 ∨ off = 0x1F4 ∨ 0x1000 ≤ off then s
  else badAccessEvent s t 0 off true

/-- REGISTER_WRITE (R587): an aligned 32-bit write to a register of BAR0 with no command of its own. -/
def execRegisterWrite (f bar off v : Nat) (s : State) : Out :=
  .next (whenRunning s fun s => if bar ≠ 0 then s else if f = 0 then pfWrite s off v else vfWrite s f off v)

/-- BAD_ACCESS (R13): a read returns all ones, a write is ignored, and EV_HIF_BAD_ACCESS is raised. -/
def execBadAccess (f bar off : Nat) (write : Bool) (s : State) : Out :=
  .next (whenRunning s fun s => badAccessEvent (if write then s else answer s f 0xFFFFFFFF) f bar off write)

end Sys2Proof.Machine
end

