-- ==== Sys2Proof/Machine/Frames.lean ====
section
/-!
DEFINITION. Slot frames as the hub starts and receives them: windows, sections, status words, breaks and unwraps, verdict
deadlines, release instants and the reports of the heads (04_plynury_ring.md, 05_head_partners.md, 06_filter_chain.md).
-/
namespace Sys2Proof.Machine

/-! ### Samples enter the histories (R148) -/

/-- Enter the sample of a label; the labels before it that never came are INVALID. -/
def pushTo (s : State) (c : Nat) (label : Int) (r : Raw) : State :=
  let x := chan s c
  if label ≤ x.label then s
  else
    let gap := if x.label < 0 then 0 else min 128 (label - x.label - 1).toNat
    pushRaw ((span 0 gap).foldl (fun a i => pushRaw a c (label - (gap - i : Nat)) ⟨0, 1⟩) s) c label r

/-- Enter a sample and compute every output whose span is then whole (R157). -/
def feed (s : State) (c : Nat) (label : Int) (r : Raw) : State := computeOutputs afterOutput 256 (pushTo s c label r) c

/-- Positions whose channels run: a head is there, or an MP that it would serve is present. -/
def sampled (s : State) (p : Nat) : Bool :=
  (head s p).state != .absent || (span (4 * p) 4).any fun m => !mpAbsent s m

/-- Labels up to `label` whose sections were lost on both rings are INVALID (R148). -/
def loseLabels (s : State) (label : Int) : State :=
  (positions.filter (sampled s)).foldl (fun a p =>
    (headChans p).foldl (fun b c => if (chan b c).label < label then feed b c label ⟨0, 1⟩ else b) a) s

/-- The flag nibble of sample c of a section (Table PLY.3). -/
def nibble (b : Bytes) (c : Nat) : Nat := fld b (51 + c / 2) 1 / (if c % 2 = 0 then 1 else 16) % 16

/-- Whether sample c of `n` is spare-sourced: its slot carries SPARE_ACTIVE, or it is SP (the last) while the spare is connected
and supplies no other slot (R124, R225). -/
def spareSourced (nibs : List Nat) (c : Nat) : Bool :=
  bit (nth 0 nibs c) 3 && (c + 1 != nibs.length || !(nibs.take c).any fun n => bit n 3)

/-- A sample as it enters the history: 0 and INVALID when VALID is 0 (R148). -/
def rawOf (nibs : List Nat) (c v : Nat) : Raw :=
  let nib := nth 0 nibs c
  ⟨if bit nib 0 then signed 24 v else 0, rawFlags nib (spareSourced nibs c)⟩

/-- The parked channel of a head that has joined again is INVALID from S until PARK stands again (R229). -/
def parkInvalid (s : State) (p c f : Nat) : Bool :=
  let x := spare s p
  x.parked == some c && x.phase == .park && (match (head s p).session, x.parkAt with
    | some st, none => decide (st ≤ f ∧ x.at_ < st)
    | some st, some u => decide (st ≤ f ∧ f < u)
    | none, _ => false)

/-! ### Sections (R90–R92, R108) -/

/-- A section that came whole (R90). -/
def sectionGood (b : Bytes) : Bool := b.length == 70 && fld b 68 2 == crc16 (b.take 68)

/-- The newest frame of which a section of a head came. -/
def newestSeen (h : Head) : Option Nat :=
  match h.live.seenA, h.live.seenB with
  | some a, some b => some (max a b)
  | some a, none => some a
  | none, b => b

/-- No section of a head has come on either ring since frame `f`. -/
def unseenSince (h : Head) (f : Nat) : Bool :=
  match newestSeen h with
  | some n => decide (n < f)
  | none => true

/-- A good section appears (Table PLY.7): from ABSENT, or from ISOLATED once the unwrap's frame has come (R113). -/
def appear (s : State) (p f : Nat) : State :=
  match (head s p).state with
  | .absent => if s.ply.whole && decide (s.ply.hop ≤ p) then s else setHeadState s p .repeater 0
  | .isolated =>
    match s.ply.unwrapFrame with
    | some u => if u ≤ f then setHeadState s p .repeater 0 else s
    | none => setHeadState s p .repeater 0
  | _ => s

/-- Note the frame of a section on a port: 0 PLYA, 1 PLYB. -/
def noteSeen (s : State) (port p f : Nat) : State :=
  let h := head s p
  setHead s p { h with live := if port = 0 then { h.live with seenA := some f } else { h.live with seenB := some f } }

/-- A frame lies in a head's session. -/
def inSession (h : Head) (f : Nat) : Bool :=
  h.state == .active && (match h.session with
    | some st => decide (st ≤ f)
    | none => false)

/-- Open the window of a frame for an ACTIVE head (R105, R107). -/
def openWindow (s : State) (p f : Nat) : State :=
  let h := head s p
  let w := f / 256
  if inSession h f && !thas h.win w && !thas h.verdicts w then
    setHead s p { h with win := tput h.win w ⟨256 * w - h.session.getD 0, nth 0 h.keys 0, [], []⟩ }
  else s

/-- Store a section in its window's ring copy: ring A returns to PLYB, ring B to PLYA (R87, R108). -/
def storeSection (s : State) (port p f : Nat) (b : Bytes) : State :=
  let s1 := openWindow s p f
  let h := head s1 p
  match tfind h.win (f / 256) with
  | none => s1
  | some rx =>
    if !inSession h f then s1
    else
      let i := f % 256
      let rx1 := if port = 1 then { rx with a := if thas rx.a i then rx.a else tput rx.a i b }
        else { rx with b := if thas rx.b i then rx.b else tput rx.b i b }
      setHead s1 p { h with win := tput h.win (f / 256) rx1 }

/-- A live tamper input: the instant of its last transition (R404). -/
def inputSeen (old new i : Nat) (at_ : Nat × Nat) (now : Nat × Nat) : Nat × Nat := if bit old i = bit new i then at_ else now

/-- Relay feedback and tamper inputs (Table PLY.4, i mod 16 = 8). -/
def takeInputs (s : State) (p f : Nat) (b : Bytes) : State :=
  let h := head s p
  let now := frameInstant s f
  let t := fld b 66 1 % 4
  let s1 := setHead s p { h with live := { h.live with
    relay := (span 62 4).map (fun o => fld b o 1), relaySeen := true, tamper := t,
    coverAt := inputSeen h.live.tamper t 0 h.live.coverAt now, magnetAt := inputSeen h.live.tamper t 1 h.live.magnetAt now } }
  if h.state = .active then (headMps s p).foldl (fun a m => relayFeedback a m (fld b (62 + m % 4) 1)) s1 else s1

/-- HST and the multiplexed content of a head's section (R92, R95, Table PLY.4). -/
def takeStatus (s : State) (p f : Nat) (b : Bytes) : State :=
  let h := head s p
  let l := { h.live with hst := fld b 60 1 }
  let asks := pends { h with live := l }
  let l1 := { l with waitFrom := if asks then (if l.waitFrom.isSome then l.waitFrom else some f) else none }
  let i := f % 256
  if i % 16 = 8 then takeInputs (setHead s p { h with live := l1 }) p f b
  else if i = 64 then
    setHead s p { h with live := { l1 with probe1 := fld b 62 2, probe2 := fld b 64 2, probeStatus := fld b 66 1 % 16 } }
  else if i = 96 then setHead s p { h with live := { l1 with pilot := fld b 62 1 % 16, pilotAge := fld b 63 2 } }
  else setHead s p { h with live := l1 }

/-- The flags that a rotation expects of a head (R224): SP while the spare is connected, c while SRC_C is the spare. -/
def expectFlags (x : Spare) : Bool × Bool :=
  (x.phase != .idle, [RotPhase.zero, .dc, .overlap, .park].contains x.phase)

/-- Compare the SPARE_ACTIVE flags of a section with the spare's state (R224). -/
def checkSpare (s : State) (p f : Nat) (nibs : List Nat) : State :=
  let x := spare s p
  if f < x.at_ ∨ !inSession (head s p) f then s
  else
    let e := expectFlags x
    let ok := bit (nth 0 nibs 16) 3 == e.1 && bit (nth 0 nibs x.ch) 3 == e.2
    let n := if ok then 0 else x.mismatch + 1
    if n = x.mismatch then s else setSpare s p { x with mismatch := n }

/-- The samples of a section enter the histories of the head's channels (R90, R148). -/
def takeSamples (s : State) (p f : Nat) (b : Bytes) : State :=
  let nibs := (span 0 17).map (nibble b)
  (span 0 17).foldl (fun a c =>
    feed a (17 * p + c) f (if parkInvalid a p c f then ⟨0, 1⟩ else rawOf nibs c (fld b (3 * c) 3))) (checkSpare s p f nibs)

/-! ### What a FAIL withdraws (R25, R167, R219, Table PQE.2) -/

/-- A window has failed: thresholds, captures and sense decisions that rest on it are withdrawn. -/
def failWindow (s : State) (p w : Nat) : State :=
  senseReset (capFail ((headChans p).foldl (fun a c => thrFail a c p w) s) p w) p (some w)

/-- Follow a verdict that `s1` holds and `s` did not. -/
def afterVerdict (s s1 : State) (p w : Nat) : State :=
  if thas (head s p).verdicts w then s1 else if failed s1 p w then failWindow s1 p w else s1

/-- A head that has left ACTIVE: its sense decisions end (Table PQE.2), its rotation ends (R231). -/
def leftActive (s : State) (p : Nat) : State := if (head s p).state = .active then s else rotLeave (senseReset s p none) p

/-- One section on one port (R90–R92, R107–R112). -/
def takeSection (s : State) (port f p : Nat) (b : Bytes) : State :=
  if !decide (p < 64) || !sectionGood b then s
  else
    let s1 := appear s p f
    let fresh := unseenSince (head s1 p) f
    let s2 := noteSeen s1 port p f
    if !heard (head s2 p) then s2
    else
      let s3 := storeSection s2 port p f b
      let s4 := if fresh then takeSamples (takeStatus s3 p f b) p f b else s3
      if 37 ≤ f % 256 then afterVerdict s4 (judgeTags s4 p) p (f / 256 - 1) else s4

/-! ### Breaks and unwraps (R111–R113) -/

/-- A port input is down: no frame came on it for 2 frames (R111). -/
def portDown (s : State) (last : Option Nat) : Bool :=
  match last with
  | some n => decide (n + 2 < s.ply.frame)
  | none => true

/-- A wrapped frame came on a port in this frame or the one before. -/
def wrapSeen (s : State) (x : Option (Nat × Nat)) : Option Nat :=
  match x with
  | some (f, n) => if s.ply.frame ≤ f + 1 then some n else none
  | none => none

/-- Locate the break (R112): the hop after the last position heard on PLYA, and the heads that neither port hears. -/
def locateBreak (s : State) : State :=
  let a := wrapSeen s s.ply.heardA
  let b := wrapSeen s s.ply.heardB
  if (a.isNone && b.isNone) || (a.isNone && !portDown s s.ply.lastA) || (b.isNone && !portDown s s.ply.lastB) then s
  else
    let lo := a.getD 0
    let hi := b.getD (max lo s.ply.lastCount)
    let gap := if lo < hi then some (lo, hi) else none
    if s.ply.wrapped && s.ply.breakHop == lo && s.ply.gap == gap then s
    else
      let s1 := { s with ply := { s.ply with wrapped := true, breakHop := lo, gap := gap } }
      let s2 := raise s1 { id := 0x181, data := Config.eventData 0x181 [(lo : Nat)] }
      (span lo (hi - lo)).foldl (fun t p => if p < 64 then isolate t p else t) s2

/-- Positions of the fresh sections that returned. -/
def freshPositions (sections : List (Nat × Bytes)) : List Nat :=
  ((sections.filter fun x => decide (x.1 < 64) && sectionGood x.2).map (·.1))

/-- Note what a frame with WRAP = 1 brought on a port (R112). -/
def noteWrap (s : State) (port f : Nat) (ps : List Nat) : State :=
  if port = 0 then { s with ply := { s.ply with heardA := some (f, ps.foldl (fun m p => max m (p + 1)) 0) } }
  else { s with ply := { s.ply with heardB := some (f, ps.foldl min (ps.headD s.ply.lastCount)) } }

/-- A head reports its wrap, and both inputs good (Table PLY.3). -/
def wrappedHead (s : State) (p : Nat) : Bool := heard (head s p) && bit (head s p).live.hst 2
def bothOk (s : State) (p : Nat) : Bool := bit (head s p).live.hst 5 && bit (head s p).live.hst 6

/-- The wrapped heads to be sent UNWRAP: they report both inputs good, and so does a wrapped neighbour (R113). -/
def unwrapHeads (s : State) : List Nat :=
  positions.filter fun p => wrappedHead s p && bothOk s p &&
    (p == 0 || !wrappedHead s (p - 1) || bothOk s (p - 1)) && (!wrappedHead s (p + 1) || bothOk s (p + 1))

/-- UNWRAP (R113): it names a frame at least 64 frames ahead; 128 leaves its lanes time to go out (DESIGN CHOICE, log entry 61). -/
def startUnwrap (s : State) : State :=
  if s.ply.unwrapFrame.isSome then s
  else
    match unwrapHeads s with
    | [] => s
    | l =>
      let f := s.ply.frame + 128
      l.foldl (fun a p => sendShort a p 5 (le 4 (wireFrame a f))) { s with ply := { s.ply with unwrapFrame := some f } }

/-- At the unwrap's frame: EV_PLY_HEAL, and the survey runs again (R100, R113). -/
def finishUnwrap (s : State) (f : Nat) : State :=
  if s.ply.unwrapFrame != some f then s
  else
    let s1 := { s with ply := { s.ply with wrapped := false, breakHop := 0x7F, gap := none, unwrapFrame := none, heardA := none, heardB := none } }
    let s2 := raise s1 { id := 0x183 }
    (positions.filter fun p => heard (head s2 p)).foldl (fun a p => sendShort a p 6 []) s2

/-- RING_FRAME_RECEIVED (R90–R92, R107–R113, R148): the sections of frame `f` that returned on a port, 0 PLYA or 1 PLYB. -/
def execRingFrameReceived (port f : Nat) (wrap : Bool) (sections : List (Nat × Bytes)) (s : State) : Out :=
  .next (whenRunning s fun s =>
    if !s.ply.started || !s.ply.trained || s.ply.frame < f || f + 1 < s.ply.frame || f < s.ply.base then s
    else
      let s1 := { s with ply := if port = 0 then { s.ply with lastA := some f } else { s.ply with lastB := some f } }
      let s2 := sections.foldl (fun a x => takeSection a port f x.1 x.2) s1
      let s3 := if wrap then locateBreak (noteWrap s2 port f (freshPositions sections)) else s2
      startUnwrap s3)

/-! ### SLOT_FRAME_START (R88–R96, R105, R106, R114, R116, R118) -/

/-- A session whose counter reaches its limit ends at the window's end (R106). -/
def sfcLimit (s : State) (p f : Nat) : State :=
  let h := head s p
  if h.state = .active ∧ f % 256 = 0 ∧ 2 ^ 48 - 2 ^ 20 ≤ f - h.session.getD f then forceRejoin s p 5 else s

/-- The first frame of a session: a FAULTY spare may be used again (R228), and a parked channel is parked again (R229). -/
def sessionStart (s : State) (p f : Nat) : State :=
  let x := spare s p
  if (head s p).state = .active ∧ (head s p).session = some f then
    rotRejoin (if x.faulty then setSpare s p { x with faulty := false, spareFails := 0 } else s) p
  else s

/-- What the start of frame `f` does to one position. -/
def frameHead (f : Nat) (s : State) (p : Nat) : State :=
  let s1 := sessionStart (sfcLimit s p f) p f
  let s2 := if heard (head s1 p) && unseenSince (head s1 p) (f - 4) && decide (s1.ply.base + 4 ≤ f) then isolate s1 p else s1
  let s3 := leftActive (configFrame s2 p) p
  if f % 256 = 0 then openWindow s3 p f else s3

/-- The local samples of a frame enter their histories (Table FLT.1): value and the flags of Table PLY.3. -/
def localSamples (s : State) (f : Nat) (loc : List (Nat × Nat)) : State :=
  let nibs := (span 0 8).map fun i => (nth (0, 0) loc i).2
  (span 0 8).foldl (fun a i => feed a (1088 + i) f (rawOf nibs i (nth (0, 0) loc i).1)) s

/-- Note the grant of a frame (R95). -/
def noteGrant (s : State) (g f : Nat) : State :=
  if g < 64 then
    let h := head s g
    setHead { s with ply := { s.ply with lastGrant := g } } g { h with live := { h.live with waitFrom := h.live.waitFrom.map fun _ => f } }
  else s

/-- The grant of a frame: none while the ring is not trained or the service cores are down (R118). -/
def grantOf (s : State) (f : Nat) : Nat := if s.pwr.serviceDown || !s.ply.trained then 0xFF else pickGrant s f

/-- The lanes of a frame: NOP while the service cores are down (R118). -/
def lanesOf (s : State) (f : Nat) : List Bytes × State :=
  if s.pwr.serviceDown || !s.ply.trained then (List.replicate 4 (zeros 28), s) else fillLanes s f

/-- Send frame `f` on both rings: headers, SOF, lanes and grant (R88, R89, R114, R116). -/
def sendFrame (s : State) (f : Nat) : State :=
  let g := grantOf s f
  let l := lanesOf s f
  let sync := l.2.ply.syncFrames.any fun x => x.1 == f
  let s1 := noteGrant l.2 g f
  { s1 with ply := { s1.ply with
      syncFrames := s1.ply.syncFrames.filter fun x => decide (f < x.1)
      sent := some ⟨wireFrame s1 f, headerBytes s1 f 0 g, headerBytes s1 f 1 g, g, sync, l.1⟩ } }

/-- SYNC_OUT falls at the end of its frame (R176). -/
def syncOutFrame (s : State) (f : Nat) : State :=
  match s.flt.syncOutUntil with
  | some u => if u ≤ f then { s with flt := { s.flt with syncOutUntil := none } } else s
  | none => s

/-- Outputs of the MPs are formed from their channels' outputs (R179). -/
def formAll (s : State) : State := (presentMps s).foldl (fun a m => formOuts 256 a m) s

/-- SLOT_FRAME_START (R88): the next frame starts; `loc` holds the eight local samples with its label.  In LEGAL_HALT the ports
send idle and nothing is metered (R234). -/
def execSlotFrameStart (loc : List (Nat × Nat)) (s : State) : Out :=
  .next (whenRunning s fun s =>
    if s.lgl.halt then s else
    let f := nextFrame s
    let s1 := syncOutFrame { s with ply := { s.ply with started := true, frame := f } } f
    let s2 := loseLabels s1 ((f : Int) - 2)
    let s3 := finishUnwrap (positions.foldl (frameHead f) s2) f
    let s4 := relaysUnknown (armsAt s3 f)
    formAll (localSamples (sendFrame s4 f) f loc))

/-! ### Verdicts and releases (R24, R185) -/

/-- The keys of a session that has ended go with its last verdict (R345). -/
def eraseKeys (s : State) (p : Nat) : State :=
  let h := head s p
  if h.state ≠ .active ∧ h.state ≠ .joining ∧ h.win = [] ∧ h.keys ≠ [] then setHead s p { h with keys := [] } else s

/-- VERDICT_DEADLINE (R24, R25): a window without a verdict is judged as it stands. -/
def execVerdictDeadline (p w : Nat) (s : State) : Out :=
  .next (whenRunning s fun s =>
    if s.ply.started && decide (256 * w + 512 ≤ s.ply.frame) then
      let s1 := afterVerdict s (giveVerdict s p w) p w
      eraseKeys (settleEarly s1 (s.ply.frame - 1023)) p
    else s)

/-- RELEASE_INSTANT (R185, R299): the outputs of an MP whose release instant has come, and what they show of a closing relay. -/
def execReleaseInstant (m f : Nat) (s : State) : Out :=
  .next (whenRunning s fun s =>
    if s.ply.started && decide (f ≤ s.ply.frame) && !mpAbsent s m then
      let s1 := releaseAll ((mpOf s m).queue.length) s m f
      if m < 256 then adaptClose s1 m else s1
    else s)

/-! ### AUTON_REPORT (R144, R145, R196–R199) -/

/-- EV_HED_REPORT_BAD with its tamper records (Table EVT.5); causes 0 signature, 1 sequence, 2 frame count. -/
def reportBad (s : State) (p cause : Nat) : State := headTamper (plyEvent s 0x201 p [cause]) p 5

/-- A withheld run that a CHIP reset began waits for its fill on some MP of a head. -/
def bootRun (s : State) (p : Nat) : Bool :=
  (headMps s p).any fun m => (mpOf s m).held.any fun h => h.boot && !h.decided && h.edge.isNone

/-- Ticks from the anchor to session start S, as slot frames (R198): 3.2 ticks per frame. -/
def anchorFrames (s : State) (st : Nat) : Nat :=
  match s.clk.anchor with
  | some a => ((frameInstant s st).2 - a.2) * 10 / 32
  | none => 0

/-- LOCAL_FRAMES lies within ±100 ppm of the hub's own span (R145); across a CHIP reset the report may exceed the tick span by
at most 4 windows plus 512 frames (R198). -/
def localOk (boot : Bool) (span_ local_ : Nat) : Bool :=
  let tol := span_ / 10000
  decide (span_ ≤ local_ + tol ∧ local_ ≤ span_ + tol + (if boot then 1536 else 0))

/-- Use an accepted report: the span, and the fills of the head's MPs (R196). -/
def useReport (s : State) (p : Nat) (rep : Bytes) : State :=
  let h := head s p
  let st := h.session.getD s.ply.frame
  let boot := bootRun s p
  let named := frameOf s (fld rep 24 4)
  let own := if boot then anchorFrames s st else st - named
  let said := fld rep 32 8
  let ok := localOk boot own said
  let used := if ok then said else own
  let s1 := if ok then s else reportBad s p 2
  let ends : Int := if st < named then (st : Int) - used else named
  let s2 := setHead s1 p { head s1 p with span := some (ends.toNat, st, used) }
  if bit (fld rep 2 2) 2 then s2
  else (headMps s2 p).foldl (fun a m => if bit (fld rep 41 1) (m % 4) && !mpAbsent a m then fillMp a m rep ends used st else a) s2

/-- AUTON_REPORT (R144): the signature and the sequence are checked, then the report is used. -/
def execAutonReport (pos : Nat) (box : Bytes) (s : State) : Out :=
  .next (whenRunning s fun s => upstream s pos 0x8A box fun s rep =>
    let h := head s pos
    let s1 := reportDone s pos 1
    if !Config.ecdsaVerify (Config.certKey h.join.cert) (Config.sha256 (rep.take 1164)) (slice rep 1164 64) then
      let s2 := reportBad s1 pos 0
      setHead s2 pos { head s2 pos with counted := nowTick s :: (head s2 pos).counted }
    else if (match tfind s.ply.autonSeqs h.serial with
        | some n => decide (fld rep 20 4 ≤ n)
        | none => false) then reportBad s1 pos 1
    else useReport { s1 with ply := { s1.ply with autonSeqs := tput s1.ply.autonSeqs h.serial (fld rep 20 4) } } pos rep)

end Sys2Proof.Machine
end

