-- ==== Sys2Proof/Machine/Cycle.lean ====
section
/-!
DEFINITION. The mains cycle boundary: the tracker and the clock states, numbering, the boundary log and the cycle anchors, and the
work of every block at a boundary (02_cycle_clock.md, R43–R46, R617; steps 8 to 10 of Table PWR.5).
-/
namespace Sys2Proof.Machine

/-! ### References (R33–R35, R38) -/

/-- A frequency within the operating range of 42.0 to 69.0 Hz (R38). -/
def inRange (f : Nat) : Bool := decide (2752512 ≤ f ∧ f ≤ 4521984)

/-- The level and the crossing of a local channel are those of a valid reference (R34). -/
def crossOk (s : State) (o : BoundaryObs) (c : Nat) : Bool :=
  decide (refFloor s * unom s ≤ 100 * nth 0 o.rms c) && nth false o.crossing c

/-- Consecutive cycles a reference has measured out of range (R38). -/
def outNext (s : State) (o : BoundaryObs) (c : Nat) : Nat :=
  if crossOk s o c && !inRange (nth 0 o.measured c) then nth 0 s.clk.outRun c + 1 else 0

/-- A local channel is valid over the cycle that has ended (R34, R38). -/
def validNow (s : State) (o : BoundaryObs) (c : Nat) : Bool := crossOk s o c && decide (outNext s o c < 2)

/-- EV_CYC_RANGE for each reference whose second cycle out of range this is (R38). -/
def rangeEvents (s : State) (o : BoundaryObs) : List EvReq :=
  ((refList s).filter fun c => outNext s o c == 2).map fun c => { id := 0x086, data := Config.eventData 0x086 [(c : Nat)] }

/-- The local channel of an entry of the reference list. -/
def refChan (s : State) (k : Nat) : Nat := nth 3 (refList s) k

/-- The first valid entry of the reference list. -/
def firstValid (s : State) (o : BoundaryObs) : Option Nat :=
  (span 0 (refList s).length).find? fun k => validNow s o (refChan s k)

/-- The mean of the offsets measured together (R35). -/
def meanOffset (l : List Int) : Option Int := if l.isEmpty then none else some (roundDiv (isum l) l.length)

/-- The phase offsets of the valid references against the active one, over the last 16 cycles (R35). -/
def jointNext (s : State) (o : BoundaryObs) (c : Nat) : List Int :=
  if validNow s o c then (nth 0 o.offsets c :: nth [] s.clk.joint c).take 16 else []

/-- The tracker over the cycle that has ended: an offset still to be measured, the validity runs, then the active reference, with
the switch of R35 and its event. -/
def track (s : State) (o : BoundaryObs) : State × List EvReq :=
  let c0 := if s.clk.refSwitched then
      { s.clk with refSwitched := false, offset := s.clk.offset + (s.clk.active.elim 0 fun k => nth 0 o.offsets (refChan s k)) }
    else s.clk
  let c1 := { c0 with
    refRun := (span 0 3).map fun c => if validNow s o c then nth 0 s.clk.refRun c + 1 else 0
    outRun := (span 0 3).map (outNext s o) }
  let stays := s.clk.active.elim false fun k => validNow s o (refChan s k)
  if stays then ({ s with clk := { c1 with joint := (span 0 3).map (jointNext s o) } }, rangeEvents s o)
  else
    let c2 := { c1 with joint := [[], [], []], active := firstValid s o }
    match s.clk.active, c2.active with
    | some old, some new =>
      let m := meanOffset (nth [] s.clk.joint (refChan s new))
      ({ s with clk := { c2 with offset := c1.offset + m.getD 0, refSwitched := m.isNone } },
       rangeEvents s o ++ [{ id := 0x085, data := Config.eventData 0x085 [(old : Nat), (new : Nat), m.getD 0] }])
    | _, _ => ({ s with clk := c2 }, rangeEvents s o)

/-- The reference switched in the cycle just ended (Table CYC.5, REFSW). -/
def switched (s s1 : State) : Bool := s.clk.active.isSome && s1.clk.active.isSome && s.clk.active != s1.clk.active

/-! ### Clock states (R37, R39, R40) -/

/-- The nominal frequency (R38). -/
def nominalFreq (s : State) : Nat := if s.bkd.nominal60 then 3932160 else 3276800

/-- A cycle measures within ±0.05 Hz of the PLL frequency (R37). -/
def cycleClose (s : State) (o : BoundaryObs) : Bool :=
  s.clk.active.elim false fun k => decide (((nth 0 o.measured (refChan s k) : Nat) - (o.freq : Nat) : Int).natAbs ≤ 3276)

/-- Consecutive cycles that meet the lock criterion while the PLL pulls in (R37). -/
def lockNext (s : State) (o : BoundaryObs) : Nat :=
  if (s.clk.state = .acquire ∨ s.clk.state = .relock) ∧ cycleClose s o then s.clk.lockRun + 1 else 0

/-- The state the clock takes at the boundary (Table CYC.2); `s` holds the tracker as it stands. -/
def nextClock (s : State) (o : BoundaryObs) : ClkState :=
  let lost := s.clk.active.isNone
  let coast := if s.clk.everLocked then ClkState.coastLast else .coastNom
  let locks := decide (8 ≤ lockNext s o ∧ o.phaseErr.natAbs ≤ 256)
  match s.clk.state with
  | .slave => .slave
  | .locked => if lost then coast else .locked
  | .acquire => if lost then coast else if locks then .locked else .acquire
  | .relock => if lost then coast else if locks then .locked else .relock
  | st =>
    if (refList s).any fun c => decide (2 ≤ nth 0 s.clk.refRun c) then (if s.clk.everLocked then .relock else .acquire) else st

/-- The tracked frequency in a clock state (R36, R38, Table CYC.1); a JOINED member follows the period of the master. -/
def stateFreq (s : State) (st : ClkState) (o : BoundaryObs) : Nat :=
  match st with
  | .coastLast => max 2752512 (min 4521984 s.clk.lockedFreq)
  | .coastNom => nominalFreq s
  | .slave => (match s.ril.next with
    | some b => 1000000 * 4294967296 / max 1 b.period
    | none => s.clk.freq)
  | _ => o.freq

/-- Move the clock: its lock run, frequency and phase error, then its state with the transition's event (R36, R39). -/
def moveClock (s : State) (o : BoundaryObs) : State :=
  let st := nextClock s o
  let f := stateFreq s st o
  enterClock { s with clk := { s.clk with
    lockRun := lockNext s o, freq := f, phaseErr := o.phaseErr, lockedFreq := if st = .locked then f else s.clk.lockedFreq } } st

/-! ### Numbers and the boundary log (R43–R46, R617) -/

/-- The number of the first numbered boundary (R44, R45). -/
def firstNumber (s : State) : Nat :=
  match s.clk.anchor with
  | some (n, t) => n + ((s.bkd.tick - t) * 69 + 32767) / 32768 + 1
  | none => s.lgl.cycleAnchor + 2097152

/-- The number this boundary takes and whether it follows a forward step; none when the cascade does not let it be placed. -/
def boundaryNumber (s : State) : Option (Nat × Bool) :=
  match s.clk.cycle with
  | none => some (firstNumber s, true)
  | some _ => nextNumber s

/-- Place the boundary in the timebases (R46). -/
def placeBoundary (s : State) (o : BoundaryObs) (n : Nat) : State :=
  { s with clk := { s.clk with
    cycle := some n, tick := s.bkd.tick, tickFrac := o.tickFrac % 65536, frame := s.ply.frame, frameFrac := o.frameFrac % 65536 } }

/-- Events raised before the first numbered boundary take its stamp and clock state (R42, R617). -/
def flushPrestamp (s : State) : State :=
  { s with ev := { s.ev with
    prestamp := []
    batch := (s.ev.prestamp.map fun r => { entry := { r with stamp := nowStamp s, stat := statByte s } }) ++ s.ev.batch } }

/-- The band of the 0-LOW filter for the cycle that starts (R152): the nominal frequency decides at the first boundary. -/
def lowBandNext (s : State) (first : Bool) (f : Nat) : Bool :=
  if first then !s.bkd.nominal60 else if f < 3571712 then true else if 3637248 ≤ f then false else s.clk.lowBand

/-- A boundary log entry's 24 bytes (Table CYC.5). -/
def entryBytes24 (s : State) (e : BndEntry) : Bytes :=
  le 5 e.cycle ++ le 1 e.state ++ le 2 e.tickFrac ++ le 6 e.ticks ++ le 2 e.frameFrac ++ le 4 (wireFrame s e.frame) ++ le 4 e.freq

/-- Log the boundary (R46): the entry, the most recent 8,192 kept, and those archived.  `old` is the state before the boundary. -/
def logBoundary (s old : State) (step : Bool) : State :=
  let n := nowCycle s
  let first := old.clk.cycle.isNone
  let low := lowBandNext s first old.clk.freq
  let e : BndEntry := {
    cycle := n, tickFrac := s.clk.tickFrac, ticks := s.clk.tick, frameFrac := s.clk.frameFrac, frame := s.clk.frame, freq := old.clk.freq,
    state := clk s + flag step 3 + flag (switched old s) 4 + 32 * (s.clk.active.getD 0 % 4) + flag low 7 }
  let s1 := { s with clk := { s.clk with
    log := (e :: s.clk.log).take 8192, lowBand := low, first := if first then some e else s.clk.first } }
  let changed := s.clk.log.head?.elim true fun x => x.state % 8 != clk s
  if n % 256 = 0 ∨ step ∨ changed then archive s1 6 0 0xFFFFFFFF (entryBytes24 s1 e) else s1

/-- CYCLE_ANCHOR_WRITE (R43): the two slots of retention SRAM are written alternately. -/
def writeAnchor (s : State) : State :=
  let r := s.bkd.ret
  let a : Anchor := { seq := ((if r.nextB then r.anchorA.seq else r.anchorB.seq) + 1) % 4294967296,
                      cycle := nowCycle s, ticks := s.clk.tick, clk := clk s, good := true }
  { s with bkd := { s.bkd with ret := if r.nextB then { r with anchorB := a, nextB := false } else { r with anchorA := a, nextB := true } } }

/-- The legal engine's anchor and calibration check every 2^20 cycles (R43, R236). -/
def legalBoundary (s old : State) : State :=
  let before := (old.clk.cycle.getD s.lgl.cycleAnchor) / 1048576
  if before < nowCycle s / 1048576 then
    calCheck (if legalReadOnly s then s else { s with lgl := { s.lgl with cycleAnchor := nowCycle s } })
  else s

/-- SYNC_OUT marks the boundary (R176). -/
def syncOutBoundary (s : State) : State :=
  if syncField s 4 1 = 2 then { s with flt := { s.flt with syncOutUntil := some (s.ply.frame + 1) } } else s

/-! ### The blocks' work at a boundary -/

/-- Cues that have ended become FREE (R618). -/
def freeCues (s : State) : State :=
  { s with clk := { s.clk with cues := s.clk.cues.filter fun p => p.2.state == .pending || p.2.state == .armed } }

/-- The cycles that the MPs have released enter the reconciliation sums (R204). -/
def takeDone (s : State) : State :=
  s.met.mps.foldl (fun a p => setMp (p.2.done.foldl (fun b c => reconAdd b p.1 c) a) p.1 { mpOf a p.1 with done := [] }) s

/-- The metrology array and the legal engine, which keep running through a SERVICE reset (R22). -/
def meterWork (s : State) : State :=
  let s1 := applyDelays (breakProcess (sealApply (freeCues s))) (nowCycle s)
  let s2 := (presentMps s1).foldl (noLoadAll 64) s1
  let s3 := (presentMps s2).foldl (fun a m => rollovers (commitMp a m) m) s2
  let s4 := (presentMps s3).foldl settleRuns (takeDone s3)
  relaysUnknown ([0, 1, 2].foldl ladderReclaim (senseAll (reconAll s4)))

/-- The service cores' work (R581). -/
def serviceWork (s : State) (natural : Nat) (phaseErr : Int) : State :=
  if s.pwr.serviceDown then s
  else
    let s1 := (span 0 65).foldl rotBoundary (sendAhead (reprojectArms (capTruncate s)))
    cascadeBoundary (custodyBoundary (relayBoundary (creditBoundary (tariffBoundary s1)))) natural phaseErr

/-! ### Metering resume (R569, steps 8 to 10 of Table PWR.5) -/

/-- A line of the maintenance UART (R582): milliseconds since t0. -/
def uartLine (s : State) (step : Nat) (ok : Bool) : State :=
  { s with pwr := { s.pwr with uart := s.pwr.uart ++ [(step, (nowTick s - s.pwr.t0) * 1000 / 32768, ok)] } }

/-- SU READY, with the run number (R582). -/
def uartReady (s : State) : State := { s with pwr := { s.pwr with uart := s.pwr.uart ++ [(0, runNumber s, true)] } }

/-- Ticks were lost while the hub was down, as far as OSF tells (R65, R320). -/
def lenUnknown (s : State) : Bool := bit s.bkd.causes 0 || bit s.bkd.causes 1

/-- Ticks from the anchor to this first boundary (R44, R567); without an anchor, from the reset, and 0 after a BKD reset. -/
def downtime (s : State) : Nat :=
  match s.clk.anchor with
  | some a => nowTick s - a.2
  | none => if s.pwr.last.cause = 2 then 0 else nowTick s - s.pwr.last.tick

/-- EV_PWR_RESET of the CHIP reset that began the run (R567, Table PWR.8). -/
def reportReset (s : State) : State :=
  let l := s.pwr.last
  raise s {
    id := 0x000
    data := le 1 l.scope ++ le 1 l.cause ++ le 1 l.domain ++ zeros 1 ++ le 4 (runNumber s - 1) ++ le 6 (downtime s) ++
      le 1 (flag (lenUnknown s) 0) ++ zeros 1 ++ le 2 (tget 0 l.counts l.cause) }

/-- Step 9: tariff state, session IDs, custody reconstruction (R270, R274, R320); the accounts are restored as they were kept. -/
def resumeRecords (s : State) : State :=
  let s1 := restartIds (restoreTariff s)
  custodyRestart s1 s1.clk.anchor.isNone (lenUnknown s1)

/-- Step 10: the host link's training and the tenants' contexts (R457, Table HIF.5). -/
def resumeHost (s : State) : State :=
  contextStart { s with hif := { s.hif with trainBy := if s.hif.perst then some (nowTick s + trainTicks) else none } }

/-- Metering resumes at the first numbered boundary (R569). -/
def meteringResume (s : State) : State :=
  let s0 := reportReset s
  let s1 := raise { s0 with pwr := { s0.pwr with resumed := true } } {
    id := 0x001, data := le 4 (runNumber s) ++ le 2 (min 65535 ((nowTick s - s.pwr.t0) * 1000 / 32768)) ++ le 7 (nowStamp s) }
  uartLine (resumeHost (uartLine (resumeRecords (uartReady (uartLine s1 8 true))) 9 true)) 10 true

/-- A member whose START this is joins before the boundary is logged, so that its entry carries SLAVE (R39, R549). -/
def joinClock (s : State) : State := if s.ril.member && !s.pwr.serviceDown then joinAtStart s else s

/-- A numbered boundary. -/
def numberedBoundary (s : State) (o : BoundaryObs) (n : Nat) (step : Bool) : State :=
  let natural := nowCycle s + 1
  let t := track s o
  let s1 := flushPrestamp (placeBoundary t.1 o n)
  let s2 := moveClock (joinClock (t.2.foldl raise s1)) o
  let s3 := syncOutBoundary (legalBoundary (writeAnchor (logBoundary s2 s step)) s)
  let s4 := if s.clk.cycle.isNone then meteringResume s3 else s3
  serviceWork (meterWork s4) natural o.phaseErr

/-- CYCLE_BOUNDARY (R46, R617): a boundary falls; before the legal engine has read the anchor, and in LEGAL_HALT, it drives only
the clock state and the tracker. -/
def execCycleBoundary (obs : BoundaryObs) (s : State) : Out :=
  .next (whenRunning s fun s =>
    if s.clk.numbering && !s.lgl.halt then
      (match boundaryNumber s with
      | some (n, step) => numberedBoundary s obs n step
      | none => s)
    else
      let t := track s obs
      moveClock (t.2.foldl raise t.1) obs)

end Sys2Proof.Machine
end

