-- ==== Sys2Proof/Machine/Power.lean ====
section
/-!
DEFINITION. Supplies, resets, watchdogs and start-up (23_power_startup.md), with the commands that start a reset (R512, R513, R515),
the end of an escalation (R398, R400) and the locked JTAG port (R609).
-/
namespace Sys2Proof.Machine

/-! ### CHIP resets (R563–R566, R576, R579, R580) -/

/-- The first ladder–residual pair under way completes (R192). -/
def finishPair (s : State) : State :=
  match s.cis.incs with
  | [] => s
  | k :: rest =>
    let s0 := { s with cis := { s.cis with incs := rest } }
    let s1 := stepLadder s0 k
    if k < 65536 ∧ ladderValue s1 k ≠ ladderValue s0 k then incDurable s1 k else s1

/-- Every pair that has been asked for completes (Table PWR.6 step 3). -/
def finishPairs : Nat → State → State
  | 0, s => s
  | n + 1, s => finishPairs n (finishPair s)

/-- A CHIP reset that is deferred until the pair under way completes (R192). -/
def deferredReset (s : State) (cause : Nat) : State := enterChipReset (finishPair s) 1 cause 0xFF

/-- POR (R565): a main rail rises from below reset; a reset that stands keeps its cause.  Ticks move to the reference crystal when
the 32 kHz crystal is already stopped (R65). -/
def execPor (s : State) : Out :=
  .next (
    let s1 := { s with pwr := { s.pwr with railBad := false }, bkd := { s.bkd with fromRef := s.bkd.fromRef || s.bkd.crystalStopped } }
    if running s then enterChipReset s1 1 1 0xFF else s1)

/-- BOR (R563): a rail below its reset threshold resets at once, with no deferral; reset stands until the rail rises. -/
def execBor (s : State) : Out :=
  .next (
    let s1 := enterChipReset s 1 3 0xFF
    { s1 with pwr := { s1.pwr with railBad := true }, bkd := { s1.bkd with fromRef := s1.bkd.fromRef && !s1.bkd.crystalStopped } })

/-- RESET_N (R566): low starts a deferred CHIP reset and holds it; the power-fail commit is not interrupted (R573). -/
def execResetN (low : Bool) (s : State) : Out :=
  .next (
    let s1 := { s with pwr := { s.pwr with resetNLow := low } }
    if low ∧ running s ∧ !s.pwr.committing then deferredReset s1 4 else s1)

/-- REFCLK_LOSS (R580): 10 µs without an edge; the clock is away for `us` µs in all. -/
def execRefclkLoss (us : Nat) (s : State) : Out :=
  .next (if !running s || s.pwr.committing then s
    else
      let s1 := deferredReset s 0x0A
      { s1 with pwr := { s1.pwr with refStopped := true, last := { s1.pwr.last with refUs := us } }
                bkd := { s1.bkd with fromRef := s1.bkd.fromRef && !s1.bkd.crystalStopped } })

/-- LEGAL_ENGINE_FAULT (R21): a lockstep mismatch; it interrupts a power-fail commit at once. -/
def execLegalEngineFault (s : State) : Out :=
  .next (if !running s then s else if s.pwr.committing then enterChipReset s 1 7 0xFF else deferredReset s 7)

/-- WDT_LEGAL (R579). -/
def execWdtLegal (s : State) : Out :=
  .next (if !running s || s.pwr.committing then s else deferredReset s 8)

/-- WDT_SYSTEM (R579). -/
def execWdtSystem (s : State) : Out :=
  .next (if !running s || s.pwr.committing then s else deferredReset s 9)

/-- WDT_SERVICE (R579): EV_PWR_WDT at once, then a SERVICE reset; the watchdog is held while the cores are in reset (R581). -/
def execWdtService (core : Nat) (s : State) : Out :=
  .next (whenRunning s fun s =>
    if s.pwr.serviceDown || s.pwr.committing then s
    else beginServiceReset (raise s { id := 0x003, data := le 1 1 ++ le 1 core }) 0x0D 0xFF)

/-! ### The power-fail commit (R572–R576, Table PWR.6) -/

/-- Step 1: commands stop, the radio ends its frame, the plays end as ABORTED (R438, R453). -/
def commitFreeze (s : State) : State :=
  let s0 := { s with pwr := { s.pwr with committing := true } }
  let s1 := match s0.cmp.air with
    | some x => bookAir (setCmp s0 fun c => { c with air := none }) x.band (x.start / 32768) (min x.air ((nowTick s - x.start) * 3000000 / 32768))
    | none => s0
  bothChans s1 fun a c => endPlays a c 6 (fun _ _ => true)

/-- The journal blocks have been erased since the last start (R374). -/
def journalErased (s : State) : Bool := !s.cis.erases.any fun e => e.2.1 == 0 && decide (34 ≤ e.2.2 ∧ e.2.2 ≤ 37)

/-- Step 4 is due (R575). -/
def imageDue (s : State) : Bool := s.pwr.resumed && journalErased s

/-- Step 4: the residual journal image (R192, R372). -/
def writeImage (s : State) : State :=
  let page := fun (m : Nat) => (m, ({ run := runNumber s, res := residuals s m
                                      nlo := (span 0 28).map fun x => ladderValue s (ladderKey 0 (regLid m x)) % 65536 } : ResPage))
  { s with cis := { s.cis with image := some ⟨runNumber s, nowTick s, nowCycle s, (presentMps s).map page⟩ } }

/-- The steps of Table PWR.6 up to `done` of them (R573); with all six, the CHIP reset follows, held. -/
def powerCommit (s : State) (cause done us : Nat) : State :=
  let s1 := if 1 ≤ done then commitFreeze s else s
  let s2 := if 2 ≤ done then finishUnit s1 else s1
  let s3 := if 3 ≤ done then
      (let a := finishPairs s2.cis.incs.length s2
       { a with ev := { a.ev with tamperUnsure := a.ev.tamperUnsure ++ a.ev.tamperDirty } })
    else s2
  let s4 := { s3 with pwr := { s3.pwr with committing := true, last := { s3.pwr.last with step4Due := imageDue s3, commit := some (2 ^ done - 1, us, nowTick s) } } }
  let s5 := if 4 ≤ done ∧ imageDue s4 then writeImage s4 else s4
  let s6 := if 5 ≤ done then closeCustodyPage s5 else s5
  if 6 ≤ done then
    (let r := enterChipReset s6 1 cause 0xFF
     if cause = 5 then { r with pwr := { r.pwr with pfHold := true } }
     else { r with bkd := { r.bkd with pwronLow := true, lowSince := nowTick s } })
  else s6

/-- PFAIL (R572): `done` steps of Table PWR.6 complete, 6 for all of them; fewer when a BOR or a legal-engine fault, which is the
next command, interrupts (R573).  A trip during the commit is ignored. -/
def execPfail (done us : Nat) (s : State) : Out :=
  .next (if running s ∧ !s.pwr.committing then settle (powerCommit s 5 (min 6 done) us) else s)

/-- PF_HOLD_RELEASE (R575): the supply has been good for 100 ms. -/
def execPfHoldRelease (s : State) : Out := .next { s with pwr := { s.pwr with pfHold := false } }

/-- POWER_OFF (R82, R515, R576): the completion, then the commit, then PWRON low. -/
def execPowerOff (d : Desc) (us : Nat) (s : State) : Out :=
  .next (hostCmd s d 0x0205 false fun s =>
    checked s d [by0 d, (s.bkd.policy != 0, stNotPermitted)] fun s => powerCommit (reply s d stOk []) 6 6 us)

/-! ### Commands that start a reset (R512, R513) -/

/-- HUB_RESET (R512): the completion, then the reset of the scope. -/
def execHubReset (d : Desc) (scope tenant : Nat) (s : State) : Out :=
  .next (hostCmd s d 0x0006 false fun s =>
    checked s d [by0 d, (decide (1 ≤ scope ∧ scope ≤ 4), stBadArg), (scope != 4 || tenantDefined s tenant, stTenantUnknown)] fun s =>
      let s1 := reply s d stOk []
      match scope with
      | 1 => enterChipReset s1 1 0x0B 0xFF
      | 2 => beginServiceReset s1 0x0B 0xFF
      | 3 => hifReset s1
      | _ => beginTeardown s1 tenant 0 4 false)

/-- An application image (R513): bytes that differ from erased flash. -/
def fwImage (s : State) (i : Nat) : List (Nat × BitVec 8) := if i = 0 then s.cmd.imageA else s.cmd.imageB

/-- What an erased byte of an image reads as. -/
def fwErased (_ : Nat) : Byte := 255

/-- FW_WRITE (R513). -/
def execFwWrite (d : Desc) (image off : Nat) (data : Bytes) (s : State) : Out :=
  .next (hostCmd s d 0x0007 true fun s =>
    checked s d [by0 d, (decide (image ≤ 1 ∧ off + d.dlen ≤ 2448000), stBadArg),
      (decide (1 ≤ d.dlen ∧ data.length = d.dlen), stDataShort), (image != s.cmd.running, stNotPermitted), (!s.cis.readOnly.contains 2, stArchive)] fun s =>
      let m := Mem.writeAll fwErased (fwImage s image) off data
      reply { s with cmd := if image = 0 then { s.cmd with imageA := m } else { s.cmd with imageB := m } } d stOk [])

/-- No commit cue is pending (R513). -/
def noCommitCue (s : State) : Bool := !s.clk.cues.any fun p => cuePending p.2 && (p.2.kind == cueCommit || p.2.kind == cueCascade)

/-- FW_ACTIVATE (R513): the completion, the legal log, and a SERVICE reset into the new image. -/
def execFwActivate (d : Desc) (image len digest : Nat) (s : State) : Out :=
  .next (hostCmd s d 0x0008 false fun s =>
    let b := Mem.readAll fwErased (fwImage s image) 0 len
    checked s d [by0 d, (decide (image ≤ 1 ∧ len ≤ 2448000), stBadArg), (image != s.cmd.running, stNotPermitted),
      (Config.sha256 b == digest && Config.imageSigned (fwImage s image), stFwBad), (decide (64 < permFree s), stLogFull),
      (noCommitCue s, stBadState)] fun s =>
      let s1 := reply s d stOk []
      let s2 := legalLog { s1 with lgl := { s1.lgl with fwDigest := be 32 digest } } 0x08 0 0xFFFF ((be 32 digest).take 8)
      let s3 := firmwareRetry { s2 with cmd := { s2.cmd with nextImage := some image } }
      beginServiceReset s3 0x0E 0xFF)

/-! ### SERVICE restart (R53, R491, R560, R581) -/

/-- A domain whose escalation is complete (R400, Table EVT.4). -/
def domIdle (s : State) (k : Nat) : State :=
  if (dom s k).state = .escalating then setDom s k { dom s k with state := .idle, stack := [], queue := [] } else s

/-- SERVICE_RESTART_COMPLETE (R581): the cores return from the image that runs, commands not past their commit point complete with
ST_SERVICE_RESET (R491), and what waited goes on. -/
def execServiceRestartComplete (s : State) : Out :=
  .next (whenRunning s fun s =>
    if !s.pwr.serviceDown then s
    else
      let s1 := { s with
        pwr := { s.pwr with serviceDown := false }
        cmd := { s.cmd with running := s.cmd.nextImage.getD s.cmd.running, nextImage := none } }
      let s2 := raise s1 {
        id := 0x000
        data := le 1 2 ++ le 1 s.pwr.serviceCause ++ le 1 s.pwr.serviceDomain ++ zeros 1 ++
          le 4 (runNumber s) ++ zeros 6 ++ zeros 2 ++ le 2 (tget 0 s.pwr.last.counts s.pwr.serviceCause) }
      let s3 := (s2.cmd.opens.filter fun o => !o.committed).foldl (fun a o => endOpen a o stServiceReset) s2
      let s4 := mapSlots s3 fun y => if y.state = .collecting then { y with stopped := true } else y
      drainRill (drainRx (replaceArms ([8, 12, 13, 14].foldl domIdle s4))))

/-! ### The end of an escalation (R398, R400) -/

/-- ESCALATION_COMPLETE (R400): the restart of the domain's block is done, and the domain is IDLE; a reset domain waits for its
reset, a tenant's for its teardown. -/
def execEscalationComplete (k : Nat) (obs : TrainObs) (s : State) : Out :=
  .next (whenRunning s fun s =>
    if (dom s k).state ≠ .escalating then s
    else if [8, 12, 13, 14].contains k && s.pwr.serviceDown then s
    else if 16 ≤ k ∧ (ctx s (k - 16)).teardown.isSome then s
    else
      let s1 := match k with
        | 2 => trainRing s obs
        | 7 => radioStart s []
        | 10 => cascadeRestart s
        | 11 => annRestart s
        | _ => s
      domIdle s1 k)

/-! ### JTAG (R609) -/

/-- JTAG_ACTIVITY (R609): a TCK edge on the locked port; a gap of more than 1 s begins a new burst, which counts as JTAG_ATTEMPT. -/
def execJtagActivity (s : State) : Out :=
  .next (whenRunning s fun s =>
    let s1 := { s with reg := { s.reg with jtagBurst := some (nowTick s) } }
    match s.reg.jtagBurst with
    | some t => if nowTick s ≤ t + ticksPerSecond then s1 else tamper s1 tamperDevice 7
    | none => tamper s1 tamperDevice 7)

end Sys2Proof.Machine
end

