-- ==== Sys2Proof/Machine/Start.lean ====
section
/-!
DEFINITION. CHIP_START: the start-up steps 1 to 7 of Table PWR.5; steps 8 to 10 are the first numbered boundary's (R568, R569).
-/
namespace Sys2Proof.Machine

/-- A fault whose handling is part of the start-up step that raises it: its level completes with the step (R85, R193). -/
def raiseHandled (s : State) (e : EvReq) : State :=
  let k := defaultDomain e.id
  let s1 := raise s e
  if running s1 then setDom s1 k (levelComplete (dom s1 k) (nowTick s1)) else s1

/-! ### Step 1: the clock and the copies of the backup domain (R39, R60, Table CYC.2) -/

/-- The run begins at t0 (R568). -/
def beginRun (s : State) : State :=
  { s with pwr := { s.pwr with inReset := false, started := true, committing := false, refStopped := false, resumed := false, t0 := nowTick s } }

/-- Copies of committed objects in the backup domain (R60). -/
def loadCopies (s : State) : State :=
  setBkd s fun b => { b with
    curve := cfgBytes s (objCode objComp 0) 0 56, calendar := cfgBytes s (objCode objCalendar 0) 0 16
    nominal60 := cfg s (objCode objClock 0) 5 1 == 1 }

/-- The clock starts in COAST_NOM, with its event (Table CYC.2). -/
def startClock (s : State) : State :=
  raise { s with clk := { state := .coastNom, freq := nominalFreq s, lockedFreq := nominalFreq s } } { id := 0x080 }

/-- LEGAL_HALT (R234): it stands until a POR or RESET_N. -/
def romCheck (s : State) (good : Bool) : State :=
  { s with lgl := { s.lgl with halt := !good || (s.lgl.halt && !([1, 2, 4] : List Nat).contains s.pwr.last.cause) } }

/-! ### Step 5: the key store (R332, R349) -/

/-- A slot record whose programming a reset cut short is the current one when it reads good (R332). -/
def settleWrite (s : State) (good : Bool) : State :=
  let s1 := { s with key := { s.key with writes := [] } }
  match s.key.writes with
  | w :: _ => if good then installRecord s1 w.slot w.record else s1
  | [] => s1

/-- A slot whose records all fail is empty, and counts in LOAD_FAIL (R349, Table REG.8). -/
def loseSlot (s : State) (k : Nat) : State :=
  let s1 := setKeySlot s k {}
  raise { s1 with key := { s1.key with loadFail := s1.key.loadFail + 1 } } { id := 0x604, src := k, tenant := slotOwner s k, data := Config.eventData 0x604 [(k : Nat)] }

/-- The counters of every generation that signs or transmits (R343, R347). -/
def restartCounters (s : State) : State :=
  (span 0 512).foldl (fun a k =>
    if !(keySlot a k).valid then a
    else if signKind k then ctrRestart a k
    else if slotKind k = some 9 then ctrRestart a (512 + k) else a) s

/-- The key store's start (R349). -/
def startKeys (s : State) (obs : StartObs) : State :=
  let s1 := restartCounters (obs.keysLost.foldl loseSlot (settleWrite s obs.cutRecord))
  if obs.entropyGood then drbgStart s1
  else raise { s1 with key := { s1.key with drbg := false, retryAt := nowTick s1 + ticksPerSecond } } { id := 0x603 }

/-! ### Step 7: the legal partition (R43, R85, R193, R245, R249) -/

/-- The run number and the START entry come before any other entry of the run (R249). -/
def startRun (s : State) : State :=
  let s1 := stepLadder s (ladderKey 0 runLid)
  legalLog s1 0x01 0 0xFFFF (le 4 (runNumber s1) ++ le 1 s1.pwr.last.cause)

/-- A block of retention SRAM is valid (R85). -/
def retOk (s : State) (obs : StartObs) (b : Nat) : Bool := s.bkd.ret.valid && !obs.retBad.contains 0 && !obs.retBad.contains b

/-- The valid anchor slot: the newer of the two good ones (R43). -/
def pickAnchor (s : State) (obs : StartObs) : Option Anchor :=
  let r := s.bkd.ret
  let a := retOk s obs 1 && r.anchorA.good
  let b := retOk s obs 2 && r.anchorB.good
  if a && b then
    let d := (r.anchorA.seq + 4294967296 - r.anchorB.seq) % 4294967296
    some (if 1 ≤ d ∧ d ≤ 2147483647 then r.anchorA else r.anchorB)
  else if a then some r.anchorA else if b then some r.anchorB else none

/-- The residuals of an MP in retention are valid: the block, and every value below the commit quantum (R85). -/
def resOk (s : State) (obs : StartObs) (m : Nat) : Bool := retOk s obs (16 + m) && (residuals s m).all fun v => decide (v < commitQuantum)

/-- The image of the run that has ended counts (R373, R575). -/
def imageOf (s : State) (obs : StartObs) (run : Nat) : Option ResImage :=
  match s.cis.image with
  | some i => if obs.journalGood && i.run == run then some i else none
  | none => none

/-- RES of a register from the image (R373). -/
def imageRes (s : State) (obs : StartObs) (img : Option ResImage) (m x : Nat) : Option Nat :=
  img.bind fun i => (tfind i.pages m).bind fun p =>
    if !obs.pagesBad.contains m && nth 0 p.nlo x == ladderValue s (ladderKey 0 (regLid m x)) % 65536 then some (nth 0 p.res x) else none

/-- Restore the registers of one MP (R193): N stands in the ladders, RES comes from retention, the image, or is 0. -/
def restoreMp (s : State) (obs : StartObs) (img : Option ResImage) (m : Nat) : State :=
  let s1 := setMp s m { mpOf s m with restored := true }
  if resOk s obs m then
    if s.pwr.last.cause = 1 ∧ img.isNone then
      (span 0 28).foldl (fun a x => legalLog a 0x09 0 m (le 1 x)) (setMp s1 m { mpOf s1 m with unclean := true })
    else s1
  else
    let found := (span 0 28).map (imageRes s obs img m)
    let s2 := setResiduals s1 m (found.map fun o => o.getD 0)
    let mask := nsum ((span 0 28).map fun x => flag (nth none found x).isNone x)
    if mask = 0 then s2
    else raiseHandled (legalLog (setMp s2 m { mpOf s2 m with resLost := true }) 0x0A 0 m (le 4 mask))
      { id := 0x304, src := m, data := Config.eventData 0x304 [(m : Nat), (mask : Nat)] }

/-- EV_BKD_RET_INVALID for each invalid block (R85). -/
def retEvents (s : State) (obs : StartObs) (anchor : Option Anchor) : State :=
  let blocks := (if s.bkd.ret.valid && !obs.retBad.contains 0 then [] else [0]) ++ (if anchor.isNone then [1] else []) ++
    (if retOk s obs 3 then [] else [3]) ++ ((span 0 8).filter fun b => !retOk s obs (4 + b)).map (4 + ·) ++
    ((span 0 257).filter fun m => !resOk s obs m).map (16 + ·)
  blocks.foldl (fun a b => raiseHandled a { id := 0x107, data := Config.eventData 0x107 [(b : Nat)] }) s

/-- The keypad at a start (R85, R288): an invalid record locks it for 10 minutes; a long downtime clears the entries. -/
def restartKeypad (s : State) (ok : Bool) (anchor : Option Anchor) : State :=
  if !ok then
    tamper (raise { setLock s (nowSec s + 600) [0, 0, 0, 0] with crd := { s.crd with lockSaid := true } } { id := 0x485, data := Config.eventData 0x485 [1] })
      tamperDevice 9
  else
    let long := anchor.elim false fun a => decide (secs 600 < nowTick s - a.ticks)
    let s1 := if long then setLock s s.bkd.ret.lockUntil [0, 0, 0, 0] else s
    { s1 with crd := { s1.crd with lockSaid := s.bkd.ret.lockUntil != 0 } }

/-- A valid header, and blocks without what was invalid (R85). -/
def rewriteRetention (s : State) (obs : StartObs) : State :=
  let r := s.bkd.ret
  setBkd s fun b => { b with ret := { r with
    valid := true
    anchorA := if retOk s obs 1 then r.anchorA else {}
    anchorB := if retOk s obs 2 then r.anchorB else {}
    duty := r.duty.filter fun p => retOk s obs (4 + p.1) } }

/-- The seal at a start (R244, R245): after a BKD reset a sealed hub is unwatched, or broken when SEAL_BRK reads open. -/
def restartSeal (s : State) (anchor : Option Anchor) : State :=
  if s.pwr.last.cause = 2 ∧ s.lgl.state = .sealed then
    if s.lgl.brkOpen then breakProcess (setBkd s fun b => { b with breakLatch := some 0 })
    else
      let s1 := legalLog s 0x04 0 0xFFFF (le 6 (anchor.elim 0 fun a => a.ticks))
      tamper { s1 with lgl := { s1.lgl with unwatched := true } } tamperDevice 1
  else breakProcess s

/-- The four journal blocks are erased once the registers are restored (R374). -/
def eraseJournal (s : State) : State :=
  (span 34 4).foldl (fun a l => queueErase a (physOf a 0 l) 0 l) { s with cis := { s.cis with image := none } }

/-- EV_PWR_COMMIT and EV_PWR_REFCLK of the run that has ended, and EV_PWR_HOLDUP_SHORT (R575, Table PWR.8). -/
def reportCommit (s : State) (img : Option ResImage) (run : Nat) : State :=
  let l := s.pwr.last
  let s1 := match l.commit with
    | some c => raise s { id := 0x002, data := le 1 c.1 ++ le 2 (min 65535 c.2.1) ++ le 6 c.2.2 }
    | none => s
  let s2 := if l.cause = 0x0A then raise s1 { id := 0x004, data := le 4 (min 4294967295 l.refUs) } else s1
  let s3 := if l.cause = 5 ∧ l.step4Due ∧ img.isNone then
      raise s2 { id := 0x005, data := le 4 run ++ le 6 (l.commit.elim l.tick fun c => c.2.2) }
    else s2
  { s3 with pwr := { s3.pwr with last := { s3.pwr.last with commit := none, refUs := 0 } } }

/-- Causes of OSF and switch-overs that came while the hub was down (R63, R76). -/
def reportBackup (s : State) : State :=
  let b := s.bkd
  let s1 := ([0, 1, 2].filter fun c => bit b.causes c && !bit b.causesShut c).foldl
    (fun a c => tamper (raiseHandled a { id := 0x101, data := Config.eventData 0x101 [(c : Nat)] }) tamperDevice 6) s
  let s2 := if b.swCount = b.countShut then s1
    else raise s1 { id := 0x100, data := Config.eventData 0x100 [(b.swCount : Nat), ((b.swCount - b.countShut : Nat) : Int)] }
  setBkd s2 fun x => { x with causesShut := x.causes, countShut := x.swCount }

/-- A withheld run of every present MP begins at the last anchored boundary (R196, R198). -/
def bootRuns (s : State) (anchor : Option Anchor) : State :=
  match anchor with
  | none => s
  | some a => (presentMps s).foldl (fun b m => setMp b m { mpOf b m with
      held := (mpOf b m).held ++ [{ start := mkStamp a.cycle 0, ticks := a.ticks, frame := 0, boot := true }] }) s

/-- Step 7 (Table PWR.5). -/
def legalStart (s : State) (obs : StartObs) : State :=
  let run := runNumber s
  let img := imageOf s obs run
  let anchor := pickAnchor s obs
  let s1 := retEvents (reportBackup (reportCommit (startRun s) img run)) obs anchor
  let s2 := resolveImages (calCheck (restartSeal s1 anchor)) (anchor.map (·.cycle))
  let s3 := (presentMps s2).foldl (fun a m => restoreMp a obs img m) (loadCopies s2)
  let s4 := eraseJournal (rewriteRetention (restartKeypad s3 (retOk s obs 3) anchor) obs)
  let s5 := bootRuns (pinsCommit s4) anchor
  { s5 with clk := { s5.clk with anchor := anchor.map fun a => (a.cycle, a.ticks), numbering := !s5.lgl.halt } }

/-- CHIP_START (R568): at t0, with no cause of reset standing, start-up runs to step 7; metering resumes at the next boundary. -/
def execChipStart (obs : StartObs) (s : State) : Out :=
  .next (
    let held := s.pwr.pfHold || s.pwr.resetNLow || s.pwr.railBad || s.bkd.pwronLow
    if s.pwr.started || held then s
    else
      let s1 := startClock (loadCopies (beginRun s))
      let s2 := uartLine (romCheck (uartLine s1 1 true) obs.romGood) 2 obs.romGood
      let s3 := uartLine (if s2.lgl.halt then s2 else trainRing s2 obs.train) 3 true
      let s4 := uartLine (archiveStart s3 obs.flash) 4 obs.flash.lost.isEmpty
      let s5 := uartLine (startKeys s4 obs) 5 (obs.entropyGood && obs.keysLost.isEmpty)
      let s6 := uartLine (cascadeStart (radioStart s5 ((span 0 8).filter fun b => !retOk s obs (4 + b)))) 6 true
      let s7 := legalStart s6 obs
      settle (uartLine { s7 with
        hif := { s7.hif with lastDoorbell := nowTick s }
        pqe := { s7.pqe with lastAuto := nowTick s } } 7 s7.lgl.checks))

end Sys2Proof.Machine
end

