-- ==== Sys2Proof/Machine/Dispatch.lean ====
section
/-!
DEFINITION. Which meaning each command has: one arm per constructor, each one call of its meaning.
-/
namespace Sys2Proof.Machine

/-- The effect of a command on everything but the queue. -/
def exec (i : Instr) (s : State) : Host.Outcome State Fault Refusal :=
  match i with
  | .adminAttach d target => Sys2Proof.Machine.execAdminAttach d target s
  | .ringCreate d defn => Sys2Proof.Machine.execRingCreate d defn s
  | .ringDelete d idx => Sys2Proof.Machine.execRingDelete d idx s
  | .streamFlush d idx => Sys2Proof.Machine.execStreamFlush d idx s
  | .faultRead d domain tenant flags => Sys2Proof.Machine.execFaultRead d domain tenant flags s
  | .hubReset d scope tenant => Sys2Proof.Machine.execHubReset d scope tenant s
  | .fwWrite d image offset data => Sys2Proof.Machine.execFwWrite d image offset data s
  | .fwActivate d image len digest => Sys2Proof.Machine.execFwActivate d image len digest s
  | .stageWrite d obj offset flags data => Sys2Proof.Machine.execStageWrite d obj offset flags data s
  | .stageRead d obj offset which => Sys2Proof.Machine.execStageRead d obj offset which s
  | .stageDiscard d obj => Sys2Proof.Machine.execStageDiscard d obj s
  | .check d => Sys2Proof.Machine.execCheck d s
  | .commitAt d gen stamp => Sys2Proof.Machine.execCommitAt d gen stamp s
  | .commitCancel d cue => Sys2Proof.Machine.execCommitCancel d cue s
  | .seal d digest => Sys2Proof.Machine.execSeal d digest s
  | .readTime d => Sys2Proof.Machine.execReadTime d s
  | .timeChallenge d => Sys2Proof.Machine.execTimeChallenge d s
  | .timeSet d data => Sys2Proof.Machine.execTimeSet d data s
  | .clearFirstSwitch d => Sys2Proof.Machine.execClearFirstSwitch d s
  | .powerOff d us => Sys2Proof.Machine.execPowerOff d us s
  | .readRegisters d mp count which => Sys2Proof.Machine.execReadRegisters d mp count which s
  | .syncReset d heads loc stamp => Sys2Proof.Machine.execSyncReset d heads loc stamp s
  | .spareTest d head ch => Sys2Proof.Machine.execSpareTest d head ch s
  | .spareRelease d head ch => Sys2Proof.Machine.execSpareRelease d head ch s
  | .captureNow d set => Sys2Proof.Machine.execCaptureNow d set s
  | .captureRead d set slot offset flags => Sys2Proof.Machine.execCaptureRead d set slot offset flags s
  | .plyReadmit d head => Sys2Proof.Machine.execPlyReadmit d head s
  | .readSigned d keysel nreq nflag nonce requests => Sys2Proof.Machine.execReadSigned d keysel nreq nflag nonce requests s
  | .sessionOpen d mp tenant sflags stamp => Sys2Proof.Machine.execSessionOpen d mp tenant sflags stamp s
  | .sessionClose d session stamp => Sys2Proof.Machine.execSessionClose d session stamp s
  | .sessionList d tenant first count => Sys2Proof.Machine.execSessionList d tenant first count s
  | .billEnd d tenant stamp => Sys2Proof.Machine.execBillEnd d tenant stamp s
  | .billRead d what tenant id count => Sys2Proof.Machine.execBillRead d what tenant id count s
  | .tokenSubmit d tenant digits => Sys2Proof.Machine.execTokenSubmit d tenant digits s
  | .ecGrant d tenant => Sys2Proof.Machine.execEcGrant d tenant s
  | .consentDisconnect d session => Sys2Proof.Machine.execConsentDisconnect d session s
  | .consentRevoke d session => Sys2Proof.Machine.execConsentRevoke d session s
  | .keypadUnlock d => Sys2Proof.Machine.execKeypadUnlock d s
  | .creditRead d tenant => Sys2Proof.Machine.execCreditRead d tenant s
  | .relaySet d mp cmd stamp => Sys2Proof.Machine.execRelaySet d mp cmd stamp s
  | .relayRead d mp count => Sys2Proof.Machine.execRelayRead d mp count s
  | .custodyBind d session short => Sys2Proof.Machine.execCustodyBind d session short s
  | .custodyUnbind d session bind => Sys2Proof.Machine.execCustodyUnbind d session bind s
  | .custodySubmit d session payload => Sys2Proof.Machine.execCustodySubmit d session payload s
  | .keyGenerate d kslot => Sys2Proof.Machine.execKeyGenerate d kslot s
  | .keyImport d data => Sys2Proof.Machine.execKeyImport d data s
  | .keyErase d kslot => Sys2Proof.Machine.execKeyErase d kslot s
  | .keyAttest d kslot => Sys2Proof.Machine.execKeyAttest d kslot s
  | .archiveRead d first count kinds ring flags session => Sys2Proof.Machine.execArchiveRead d first count kinds ring flags session s
  | .legalLogRead d first count flags => Sys2Proof.Machine.execLegalLogRead d first count flags s
  | .tamperRead d scope mp => Sys2Proof.Machine.execTamperRead d scope mp s
  | .leaseList d first count => Sys2Proof.Machine.execLeaseList d first count s
  | .cmpRevoke d eui => Sys2Proof.Machine.execCmpRevoke d eui s
  | .cmpPush d short kslot data => Sys2Proof.Machine.execCmpPush d short kslot data s
  | .radioTx d data => Sys2Proof.Machine.execRadioTx d data s
  | .annPlay d arg => Sys2Proof.Machine.execAnnPlay d arg s
  | .annStop d ch clip => Sys2Proof.Machine.execAnnStop d ch clip s
  | .annTone d gen ch freq att dur => Sys2Proof.Machine.execAnnTone d gen ch freq att dur s
  | .annReset d ch => Sys2Proof.Machine.execAnnReset d ch s
  | .cascadeStatus d => Sys2Proof.Machine.execCascadeStatus d s
  | .badDescriptor d opc => Sys2Proof.Machine.execBadDescriptor d opc s
  | .rngBootCtrlGo value => Sys2Proof.Machine.execRngBootCtrlGo value s
  | .doorbellWrite func word posts => Sys2Proof.Machine.execDoorbellWrite func word posts s
  | .mbxReq func value => Sys2Proof.Machine.execMbxReq func value s
  | .captureGroupFirstRead func group => Sys2Proof.Machine.execCaptureGroupFirstRead func group s
  | .bkdSwitchCtrl value => Sys2Proof.Machine.execBkdSwitchCtrl value s
  | .bkdPwronCtrl value => Sys2Proof.Machine.execBkdPwronCtrl value s
  | .bkdTimeCtrl value => Sys2Proof.Machine.execBkdTimeCtrl value s
  | .alarmRegisterWrite alarm reg value => Sys2Proof.Machine.execAlarmRegisterWrite alarm reg value s
  | .gpioWrite offset value => Sys2Proof.Machine.execGpioWrite offset value s
  | .metSiteIdWrite word value => Sys2Proof.Machine.execMetSiteIdWrite word value s
  | .evtOverrunClear value => Sys2Proof.Machine.execEvtOverrunClear value s
  | .registerWrite func bar offset value => Sys2Proof.Machine.execRegisterWrite func bar offset value s
  | .badAccess func bar offset write => Sys2Proof.Machine.execBadAccess func bar offset write s
  | .msixUnmask func vec => Sys2Proof.Machine.execMsixUnmask func vec s
  | .linkStateChange up rate width => Sys2Proof.Machine.execLinkStateChange up rate width s
  | .flr func => Sys2Proof.Machine.execFlr func s
  | .busMasterEnableCleared func => Sys2Proof.Machine.execBusMasterEnableCleared func s
  | .d3hotEntry func => Sys2Proof.Machine.execD3hotEntry func s
  | .vfEnableChange enable num ari => Sys2Proof.Machine.execVfEnableChange enable num ari s
  | .functionLive func msix vmask => Sys2Proof.Machine.execFunctionLive func msix vmask s
  | .teardownComplete tenant => Sys2Proof.Machine.execTeardownComplete tenant s
  | .dmaFault func cause addr ring => Sys2Proof.Machine.execDmaFault func cause addr ring s
  | .aerError func correctable status onRequest => Sys2Proof.Machine.execAerError func correctable status onRequest s
  | .ringModerationExpire tenant idx => Sys2Proof.Machine.execRingModerationExpire tenant idx s
  | .pageFlushExpire tenant idx => Sys2Proof.Machine.execPageFlushExpire tenant idx s
  | .stagingDrained tenant idx => Sys2Proof.Machine.execStagingDrained tenant idx s
  | .faultLevelComplete domain => Sys2Proof.Machine.execFaultLevelComplete domain s
  | .faultLevelTimeout domain => Sys2Proof.Machine.execFaultLevelTimeout domain s
  | .escalationComplete domain obs => Sys2Proof.Machine.execEscalationComplete domain obs s
  | .tamperWriteSpanEnd key => Sys2Proof.Machine.execTamperWriteSpanEnd key s
  | .cycleBoundary obs => Sys2Proof.Machine.execCycleBoundary obs s
  | .cfgCommit cue => Sys2Proof.Machine.execCfgCommit cue s
  | .cascadeCommit cue => Sys2Proof.Machine.execCascadeCommit cue s
  | .decimSync cue => Sys2Proof.Machine.execDecimSync cue s
  | .tariffSwitch cue => Sys2Proof.Machine.execTariffSwitch cue s
  | .reportCut cue => Sys2Proof.Machine.execReportCut cue s
  | .relaySwitch cue => Sys2Proof.Machine.execRelaySwitch cue s
  | .capture cue => Sys2Proof.Machine.execCapture cue s
  | .annStart cue => Sys2Proof.Machine.execAnnStart cue s
  | .slotFrameStart ends => Sys2Proof.Machine.execSlotFrameStart ends s
  | .ringFrameReceived port frame wrap sections => Sys2Proof.Machine.execRingFrameReceived port frame wrap sections s
  | .verdictDeadline head window => Sys2Proof.Machine.execVerdictDeadline head window s
  | .releaseInstant mp frame => Sys2Proof.Machine.execReleaseInstant mp frame s
  | .cfSpacingExpire pin => Sys2Proof.Machine.execCfSpacingExpire pin s
  | .cfWidthEnd pin => Sys2Proof.Machine.execCfWidthEnd pin s
  | .messageRepeatExpire head mseq => Sys2Proof.Machine.execMessageRepeatExpire head mseq s
  | .joinStepTimeout head => Sys2Proof.Machine.execJoinStepTimeout head s
  | .exclusionHoldoffEnd head => Sys2Proof.Machine.execExclusionHoldoffEnd head s
  | .reportTimeout head code => Sys2Proof.Machine.execReportTimeout head code s
  | .announce pos box => Sys2Proof.Machine.execAnnounce pos box s
  | .cert pos box => Sys2Proof.Machine.execCert pos box s
  | .joinHead pos box => Sys2Proof.Machine.execJoinHead pos box s
  | .joinFinish pos box => Sys2Proof.Machine.execJoinFinish pos box s
  | .armAck pos box => Sys2Proof.Machine.execArmAck pos box s
  | .armResult pos box => Sys2Proof.Machine.execArmResult pos box s
  | .ack pos box => Sys2Proof.Machine.execAck pos box s
  | .surveyReply pos box => Sys2Proof.Machine.execSurveyReply pos box s
  | .version pos box => Sys2Proof.Machine.execVersion pos box s
  | .autonReport pos box => Sys2Proof.Machine.execAutonReport pos box s
  | .event pos box => Sys2Proof.Machine.execEvent pos box s
  | .syncDone pos box => Sys2Proof.Machine.execSyncDone pos box s
  | .syncInEdge wide => Sys2Proof.Machine.execSyncInEdge wide s
  | .syncSettleTimeout ch => Sys2Proof.Machine.execSyncSettleTimeout ch s
  | .captureComplete set slot => Sys2Proof.Machine.execCaptureComplete set slot s
  | .spareFlagsMismatch head => Sys2Proof.Machine.execSpareFlagsMismatch head s
  | .spareMeasurementTimeout head => Sys2Proof.Machine.execSpareMeasurementTimeout head s
  | .junctionTempRange outside temp => Sys2Proof.Machine.execJunctionTempRange outside temp s
  | .snapshotComplete tenant => Sys2Proof.Machine.execSnapshotComplete tenant s
  | .keypadKey key => Sys2Proof.Machine.execKeypadKey key s
  | .relayLimitExpire mp => Sys2Proof.Machine.execRelayLimitExpire mp s
  | .relayFeedbackPersist mp => Sys2Proof.Machine.execRelayFeedbackPersist mp s
  | .loggerSilentExpire session bind => Sys2Proof.Machine.execLoggerSilentExpire session bind s
  | .drbgRetry ok => Sys2Proof.Machine.execDrbgRetry ok s
  | .flashProgramComplete block ok => Sys2Proof.Machine.execFlashProgramComplete block ok s
  | .blockEraseComplete block ok => Sys2Proof.Machine.execBlockEraseComplete block ok s
  | .ladderIncrementComplete weak => Sys2Proof.Machine.execLadderIncrementComplete weak s
  | .patrolRead area index found => Sys2Proof.Machine.execPatrolRead area index found s
  | .joinReq psdu rssi => Sys2Proof.Machine.execJoinReq psdu rssi s
  | .data psdu rssi => Sys2Proof.Machine.execData psdu rssi s
  | .rawPpdu psdu rssi fcsOk supported => Sys2Proof.Machine.execRawPpdu psdu rssi fcsOk supported s
  | .leaseExpire short => Sys2Proof.Machine.execLeaseExpire short s
  | .quarantineExpire short => Sys2Proof.Machine.execQuarantineExpire short s
  | .accountBucketExpire band => Sys2Proof.Machine.execAccountBucketExpire band s
  | .txBackoffExpire item busy => Sys2Proof.Machine.execTxBackoffExpire item busy s
  | .lbtDeferExpire item busy => Sys2Proof.Machine.execLbtDeferExpire item busy s
  | .generalFrameTimeout item => Sys2Proof.Machine.execGeneralFrameTimeout item s
  | .overCurrentShutdown ch half => Sys2Proof.Machine.execOverCurrentShutdown ch half s
  | .loopFaultShutdown ch => Sys2Proof.Machine.execLoopFaultShutdown ch s
  | .retryExpire ch => Sys2Proof.Machine.execRetryExpire ch s
  | .retryRestore ch => Sys2Proof.Machine.execRetryRestore ch s
  | .startingComplete ch => Sys2Proof.Machine.execStartingComplete ch s
  | .stoppingComplete ch => Sys2Proof.Machine.execStoppingComplete ch s
  | .idleTimeout ch => Sys2Proof.Machine.execIdleTimeout ch s
  | .powerDieTempBand band => Sys2Proof.Machine.execPowerDieTempBand band s
  | .vspkUvlo mv => Sys2Proof.Machine.execVspkUvlo mv s
  | .annLinkValid us => Sys2Proof.Machine.execAnnLinkValid us s
  | .clipEnd ch => Sys2Proof.Machine.execClipEnd ch s
  | .toneEnd gen => Sys2Proof.Machine.execToneEnd gen s
  | .pcmBufferEmpty missed => Sys2Proof.Machine.execPcmBufferEmpty missed s
  | .tempSample good temp => Sys2Proof.Machine.execTempSample good temp s
  | .supplySwitchOver toVbat => Sys2Proof.Machine.execSupplySwitchOver toVbat s
  | .vbatLow low => Sys2Proof.Machine.execVbatLow low s
  | .alarmMatch alarm => Sys2Proof.Machine.execAlarmMatch alarm s
  | .captureGroupExpire func group => Sys2Proof.Machine.execCaptureGroupExpire func group s
  | .sealBrkOpen first isOpen => Sys2Proof.Machine.execSealBrkOpen first isOpen s
  | .sealLockChange strapped => Sys2Proof.Machine.execSealLockChange strapped s
  | .ldspButton ms => Sys2Proof.Machine.execLdspButton ms s
  | .boundary port packet => Sys2Proof.Machine.execBoundary port packet s
  | .sync port packet => Sys2Proof.Machine.execSync port packet s
  | .prepare port packet => Sys2Proof.Machine.execPrepare port packet s
  | .agree port packet => Sys2Proof.Machine.execAgree port packet s
  | .disagree port packet => Sys2Proof.Machine.execDisagree port packet s
  | .commit port packet => Sys2Proof.Machine.execCommit port packet s
  | .abort port packet => Sys2Proof.Machine.execAbort port packet s
  | .confirm port packet => Sys2Proof.Machine.execConfirm port packet s
  | .aggReq port packet => Sys2Proof.Machine.execAggReq port packet s
  | .aggRep port packet => Sys2Proof.Machine.execAggRep port packet s
  | .join port packet => Sys2Proof.Machine.execJoin port packet s
  | .rillAdmit port packet => Sys2Proof.Machine.execAdmit port packet s
  | .refuse port packet => Sys2Proof.Machine.execRefuse port packet s
  | .status port packet => Sys2Proof.Machine.execStatus port packet s
  | .leave port packet => Sys2Proof.Machine.execLeave port packet s
  | .echoReq port packet => Sys2Proof.Machine.execEchoReq port packet s
  | .echoRep port packet roundTrip => Sys2Proof.Machine.execEchoRep port packet roundTrip s
  | .memberStatusTimeout hub => Sys2Proof.Machine.execMemberStatusTimeout hub s
  | .resetN low => Sys2Proof.Machine.execResetN low s
  | .pfail done us => Sys2Proof.Machine.execPfail done us s
  | .refclkLoss us => Sys2Proof.Machine.execRefclkLoss us s
  | .wdtService core => Sys2Proof.Machine.execWdtService core s
  | .chipStart obs => Sys2Proof.Machine.execChipStart obs s
  | .radioTxFault kind => Sys2Proof.Machine.execRadioTxFault kind s
  | .warnPlayEnd mp => Sys2Proof.Machine.execWarnPlayEnd mp s
  | .rilPortLinkChange port up => Sys2Proof.Machine.execRilPortLinkChange port up s
  | .rillBadPacket port packet => Sys2Proof.Machine.execRillBadPacket port packet s
  | .strapChange en cascId => Sys2Proof.Machine.execStrapChange en cascId s
  | .captureGroupLastRead func group => Sys2Proof.Machine.execCaptureGroupLastRead func group s
  | .bandSilenceEnd busy => Sys2Proof.Machine.execBandSilenceEnd busy s
  | .bkdRtcSh0 => Sys2Proof.Machine.execBkdRtcSh0 s
  | .perstNLow => Sys2Proof.Machine.execPerstNLow s
  | .perstNHigh => Sys2Proof.Machine.execPerstNHigh s
  | .linkDown => Sys2Proof.Machine.execLinkDown s
  | .hotReset => Sys2Proof.Machine.execHotReset s
  | .hostSilent => Sys2Proof.Machine.execHostSilent s
  | .eventSuppressionSpanEnd => Sys2Proof.Machine.execEventSuppressionSpanEnd s
  | .eventBlockPlaceFree => Sys2Proof.Machine.execEventBlockPlaceFree s
  | .frequencyIntervalEnd => Sys2Proof.Machine.execFrequencyIntervalEnd s
  | .rotationScheduleTick => Sys2Proof.Machine.execRotationScheduleTick s
  | .keypadEntryTimeout => Sys2Proof.Machine.execKeypadEntryTimeout s
  | .keypadLockEnd => Sys2Proof.Machine.execKeypadLockEnd s
  | .keypadBadExpire => Sys2Proof.Machine.execKeypadBadExpire s
  | .signatureComplete => Sys2Proof.Machine.execSignatureComplete s
  | .keyRecordReadback => Sys2Proof.Machine.execKeyRecordReadback s
  | .drbgReseed => Sys2Proof.Machine.execDrbgReseed s
  | .entropyTestFail => Sys2Proof.Machine.execEntropyTestFail s
  | .beaconInterval => Sys2Proof.Machine.execBeaconInterval s
  | .transmissionEnd => Sys2Proof.Machine.execTransmissionEnd s
  | .vspkRecovered => Sys2Proof.Machine.execVspkRecovered s
  | .annLinkLost => Sys2Proof.Machine.execAnnLinkLost s
  | .muteRise => Sys2Proof.Machine.execMuteRise s
  | .muteRelease => Sys2Proof.Machine.execMuteRelease s
  | .pcmIdleExpire => Sys2Proof.Machine.execPcmIdleExpire s
  | .compWindowStart => Sys2Proof.Machine.execCompWindowStart s
  | .crystalStop => Sys2Proof.Machine.execCrystalStop s
  | .crystalResume => Sys2Proof.Machine.execCrystalResume s
  | .shadowFreezeExpire => Sys2Proof.Machine.execShadowFreezeExpire s
  | .pwronMaxOffExpire => Sys2Proof.Machine.execPwronMaxOffExpire s
  | .bkdReset => Sys2Proof.Machine.execBkdReset s
  | .ldspFrameTimer => Sys2Proof.Machine.execLdspFrameTimer s
  | .ldspScreenTimer => Sys2Proof.Machine.execLdspScreenTimer s
  | .ldspHoldExpire => Sys2Proof.Machine.execLdspHoldExpire s
  | .jtagActivity => Sys2Proof.Machine.execJtagActivity s
  | .boundaryMissing => Sys2Proof.Machine.execBoundaryMissing s
  | .joinAnswerTimeout => Sys2Proof.Machine.execJoinAnswerTimeout s
  | .refusalRetryExpire => Sys2Proof.Machine.execRefusalRetryExpire s
  | .prepareReplyTimeout => Sys2Proof.Machine.execPrepareReplyTimeout s
  | .decisionDeadline => Sys2Proof.Machine.execDecisionDeadline s
  | .confirmTimeout => Sys2Proof.Machine.execConfirmTimeout s
  | .aggReqTimeout => Sys2Proof.Machine.execAggReqTimeout s
  | .por => Sys2Proof.Machine.execPor s
  | .bor => Sys2Proof.Machine.execBor s
  | .pfHoldRelease => Sys2Proof.Machine.execPfHoldRelease s
  | .legalEngineFault => Sys2Proof.Machine.execLegalEngineFault s
  | .wdtLegal => Sys2Proof.Machine.execWdtLegal s
  | .wdtSystem => Sys2Proof.Machine.execWdtSystem s
  | .serviceRestartComplete => Sys2Proof.Machine.execServiceRestartComplete s
  | .audBufferRead => Sys2Proof.Machine.execAudBufferRead s

end Sys2Proof.Machine
end

