-- ==== Sys2Proof/Machine/Step.lean ====
section
/-!
DEFINITION. One step of the hub: the command at the front of its queue, or the next edge of the 32,768 Hz crystal.
-/
namespace Sys2Proof.Machine

/-- One step. The command at the front of the queue is executed with the rest of the queue; on an empty queue the crystal gives
its next edge (R64; DESIGN CHOICE, log entry 1). -/
def step (s : State) : Host.Outcome State Fault Refusal :=
  match s.pending with
  | [] => .next (crystalEdge s)
  | c :: rest => exec c { s with pending := rest }

/-- `s` with the command that the word spells put at the front of its queue; unchanged where the word spells none. -/
def State.withFetchWord (s : State) (nbits w : Nat) : State :=
  match decodeTableWord nbits w with
  | some c => { s with pending := c :: s.pending }
  | none => s

end Sys2Proof.Machine
end

