-- ==== Sys2Proof/Safety.lean ====
section
/-!
DEFINITION. What a safe run of the hub keeps, in the terms the statements use.
-/
namespace Sys2Proof.Machine

/-- Every record raised has its ESEQ (R387): none waits for the end of the step. -/
def EventsIssued (s : State) : Prop := s.ev.batch = []

/-- While CHIP reset is asserted, everything that a CHIP reset clears is clear (R564, Table PWR.3). -/
def ResetHeld (s : State) : Prop := s.pwr.inReset = true → clearVolatile s = s

/-- A full custody tail has been reported (R378). -/
def TailTold (s : State) : Prop := s.cis.tailFull = true → s.cis.tailSaid = true

/-- What every step keeps. -/
def Safe (s : State) : Prop := EventsIssued s ∧ TailTold s ∧ ResetHeld s

/-- A fault domain that can take one more fault without escalating (Table EVT.4). -/
def roomy (s : State) (k : Nat) : Bool :=
  match (dom s k).state with
  | .idle => true
  | .escalating => true
  | .handling => decide ((dom s k).stack.length < 4 ∧ (dom s k).queue.length < 16)

/-- A hub that runs, in a state a step has left, whose archive domain can take a fault: no step from it is cut short by the end
of the step itself. -/
def calm (s : State) : Bool := running s && s.ev.batch == [] && (!s.cis.tailFull || s.cis.tailSaid) && (dom s 6).state == .idle

/-- A host command is taken and passes the descriptor checks (R487, R489): `data` says whether its opcode has a data buffer. -/
def taken (s : State) (d : Desc) (opc : Nat) (data : Bool) : Bool :=
  ready s d && (opc / 256 == 0) == (d.ring == 0) && descOk d data

/-! ### Frames -/

/-- `t` agrees with `s` in every block but those that records, completions and streams go through: the event block, the rings,
the host interface, the archive and the command block. -/
structure Kept (s t : State) : Prop where
  pending : t.pending = s.pending
  free : t.free = s.free
  clk : t.clk = s.clk
  bkd : t.bkd = s.bkd
  ply : t.ply = s.ply
  flt : t.flt = s.flt
  met : t.met = s.met
  pqe : t.pqe = s.pqe
  lgl : t.lgl = s.lgl
  tar : t.tar = s.tar
  crd : t.crd = s.crd
  cus : t.cus = s.cus
  key : t.key = s.key
  cmp : t.cmp = s.cmp
  ann : t.ann = s.ann
  slu : t.slu = s.slu
  ril : t.ril = s.ril
  pwr : t.pwr = s.pwr
  reg : t.reg = s.reg

/-- Nothing sent to the host is taken back. -/
structure Grew (s t : State) : Prop where
  out : ∃ l, t.hif.out = s.hif.out ++ l

/-- What a ring is, apart from its indices and what it holds. -/
def ringIds (r : Ring) : RingType × RingState × Nat × Nat × Bool × Nat × Nat × Nat × Nat × Nat :=
  (r.typ, r.state, r.rseq, r.log2n, r.irq, r.vec, r.pair, r.base, r.shadow, r.kinds)

/-- A function apart from its pending messages. -/
def fnRest (f : Func) : Func := { f with pending := 0 }

/-- The host interface apart from its functions and what it has sent. -/
def hifRest (h : Hif) : Hif := { h with funcs := [], out := [] }

/-- `t` differs from `s` only by events, archived items and what has been sent to the host. -/
structure Told (s t : State) : Prop where
  kept : Kept s t
  hif : hifRest t.hif = hifRest s.hif
  fn : ∀ k, fnRest (func t k) = fnRest (func s k)
  ids : ∀ k i, ringIds (ring t k i) = ringIds (ring s k i)
  cmd : t.cmd = s.cmd
  out : Grew s t

/-! ### Answers and records -/

/-- The host of `t` has been sent, behind all that `s` had sent, the completion of the command `d` taken from `s`: STATUS, XLEN and
RESULT in the next slot of its completion ring (Table RNG.6). -/
def answered (s t : State) (d : Desc) (status xlen : Nat) (result : Bytes) : Prop :=
  ∃ before after, t.hif.out = s.hif.out ++ before ++
    [.write d.tenant ((ring s d.tenant (cplOf s d)).base + (ring s d.tenant (cplOf s d)).tail * 32)
      (cplBytes d.cid status (((ring s d.tenant d.ring).head + 1) % ringSize (ring s d.tenant d.ring)) d.ring
        (ring s d.tenant (cplOf s d)).phase xlen result)] ++ after

/-- A record of an event with this ID and DATA has been issued since `s` (R387). -/
def logged (s t : State) (id : Nat) (data : Bytes) : Prop :=
  ∃ r ∈ t.ev.log, s.ev.next ≤ r.eseq ∧ r.id = id ∧ r.data = pad 32 data

/-- A host command is taken, from a live function, by a calm hub: its meaning runs and its completion reaches the host. -/
def canTake (s : State) (d : Desc) (opc : Nat) (data : Bool) : Bool := taken s d opc data && live s d.tenant && calm s

/-! ### Containers of heads -/

/-- A container of a type comes whole from a head the hub listens to, is new, in order and the last of its message, and carries a
good tag where one is due (R90, R94, R96, R97). -/
def arrives (s : State) (pos typ : Nat) (b : Bytes) : Bool :=
  boxGood b && decide (pos < 64) && boxAddr b == pos && heard (head s pos) && boxType b == typ && decide (boxLen b ≤ 92) &&
    (joinType typ || !joined s pos || boxTagOk s pos b) && !(head s pos).taken.contains (boxMseq b) && fragOk (head s pos) b && !boxMore b

/-- The message that ends with a container (R96). -/
def boxWhole (s : State) (pos : Nat) (b : Bytes) : Bytes :=
  if boxFrag b = 0 then boxPayload b else (head s pos).fragBytes ++ boxPayload b

/-- An ACK of a container waits for its lane (R96). -/
def acked (t : State) (pos : Nat) (b : Bytes) : Prop := ∃ m ∈ t.ply.queue, m.addr = pos ∧ m.typ = 4 ∧ m.payload = le 2 (boxMseq b)

/-- A hub that meters only its local incomer, without a head: no other MP is present and nothing waits for a head, a relay, a sense decision or a
rotation, so that a frame and a boundary bring only their own work. -/
def bare (s : State) : Bool :=
  calm s && !s.lgl.halt && presentMps s == [256] && s.ply.heads == [] && s.ply.arms == [] && s.ply.queue == [] && s.ply.unwrapFrame == none &&
    s.crd.relays == [] && s.pqe.sense == [] && s.pqe.spares == [] && s.met.mps == []

/-! ### Annunciator -/

/-- The state of a channel that comes back to OFF (Table ANN.1): what still holds takes it on at once, else a source starts it. -/
def offState (s : State) (c : Nat) : AnnState :=
  if 3 ≤ s.ann.band then .thermal
  else if !s.ann.vspkGood then .uvlo
  else if !s.ann.linkGood then .linkLost
  else if annEnabled s c && !s.ann.mute && annSource s c then .starting
  else .off

/-! ### Radio -/

/-- Nothing but the listen stands between a queued frame and the air: the hub is in a mode, off the air and past the silence, the
band is not in HOLD for it, and its budget holds the frame (R411–R413). -/
def canSend (s : State) (f : TxFrame) : Bool :=
  s.cmp.air.isNone && decide (s.cmp.silentTill ≤ s.bkd.tick) && s.cmp.mode != 0 && !(f.custody && s.cmp.hold.contains s.cmp.band) &&
    mayStart s s.cmp.band (airtime s s.cmp.band s.cmp.rate (frameLen f)) f.custody

/-- What is on the air once a queued frame has started with a counter value. -/
def onAir (s : State) (f : TxFrame) (fc : Nat) : OnAir :=
  ⟨f, framePsdu s f fc, s.cmp.band, s.cmp.ch, s.bkd.tick, airtime s s.cmp.band s.cmp.rate (framePsdu s f fc).length⟩

/-! ### Cascade -/

/-- A Rill packet of a type comes whole, in form and for this hub alone, while its service cores are up: at the master from below,
at a member from above (R543, R544). -/
def rilHere (s : State) (port : Nat) (p : Bytes) (typ : Nat) : Bool :=
  s.ril.cascEn && !s.pwr.serviceDown && rilWhole p && rilForm p && rilType p == typ && rilDst p != 0xFE &&
    rilDst p == s.ril.cascId && (if s.ril.cascId = 0 then port != 0 else port == 0)

/-- Ports and types of the Rill packets that `t` has sent behind those of `s`. -/
def rilSent (s t : State) (l : List (Nat × Nat)) : Prop :=
  ∃ more, t.ril.out = s.ril.out ++ more ∧ more.map (fun q => (q.1, rilType q.2)) = l

/-! ### Resets -/

/-- A CHIP reset with a cause has begun: what it clears is clear, and the reset controller, the ladders, the objects in force, the
key slots and the accounts stand (R564, R565, R570, Table PWR.3). -/
structure CameDown (s t : State) (cause : Nat) : Prop where
  held : t.pwr.inReset = true ∧ t.pwr.started = false ∧ t.pwr.serviceDown = false ∧ t.pwr.committing = false
  clear : clearVolatile t = t
  why : t.pwr.last.scope = 1 ∧ t.pwr.last.cause = cause ∧ t.pwr.last.tick = s.bkd.tick
  count : tget 0 t.pwr.last.counts cause = satInc 16 (tget 0 s.pwr.last.counts cause)
  kept : t.pending = s.pending ∧ t.free = s.free ∧ t.cis.ladders = s.cis.ladders ∧ t.slu.force = s.slu.force ∧
    t.key.slots = s.key.slots ∧ t.crd.accounts = s.crd.accounts ∧ t.cmp.leases = s.cmp.leases ∧ t.lgl.records = s.lgl.records

/-- A hub held in CHIP reset by nothing, whose flash, keys, retention SRAM, anchors, straps and pins all read good at start-up. -/
def startsClean (s : State) (obs : StartObs) : Bool :=
  s.pwr.inReset && !s.pwr.started && !s.pwr.pfHold && !s.pwr.resetNLow && !s.pwr.railBad && !s.bkd.pwronLow &&
    obs.romGood && obs.entropyGood && obs.keysLost == [] && !obs.cutRecord && obs.retBad == [] && obs.flash == {} &&
    s.bkd.ret.valid && (pickAnchor s obs).isSome && ((span 0 257).all fun m => (residuals s m).all fun v => decide (v < commitQuantum)) &&
    s.bkd.causes == s.bkd.causesShut && s.bkd.swCount == s.bkd.countShut && s.bkd.breakLatch.isNone && s.pwr.last.cause == 4 &&
    s.pwr.last.commit.isNone && s.cis.readOnly == [] && s.cis.journal == [] && s.slu.images == [] && s.key.writes == [] &&
    (s.cis.ladders.all fun p => decide (p.2.lgen < 0xFFFFFD)) && !s.lgl.halt

end Sys2Proof.Machine
end

