-- ==== Sys2Proof/Certificates/Slice0/Obligations.lean ====
section
/-!
DEFINITION. The statements for the provers.
-/
open Sys2Proof Sys2Proof.Machine

/-- A step is the effect of the command at the front of the queue, with the rest of the queue left waiting. Rests on R510. -/
def Obligations.AStepRunsTheFrontCommand : Prop :=
  ∀ (s : State) (c : Instr) (rest : List Instr), s.pending = c :: rest → step s = exec c { s with pending := rest }

/-- No command and no idle step stops the model: a refused command is an effect, not a stop. Rests on R6. -/
def Obligations.EveryCommandEndsInANextState : Prop :=
  (∀ (c : Instr) (s : State), ∃ t, exec c s = .next t) ∧ (∀ s : State, ∃ t, step s = .next t)

/-- After reset the hub is held in CHIP reset with an empty queue, no ring, no link and OSF set. Rests on R564, R577, R60. -/
def Obligations.ResetLeavesTheHubHeld : Prop :=
  State.reset.pending = [] ∧ State.reset.pwr.inReset = true ∧ State.reset.pwr.started = false ∧ State.reset.rng.rings = [] ∧
  State.reset.hif.linkUp = false ∧ State.reset.hif.funcs = [] ∧ State.reset.ev.log = [] ∧ State.reset.bkd.tick = 0 ∧
  State.reset.bkd.osf = true ∧ State.reset.bkd.causes = 1 ∧ State.reset.clk.cycle = none ∧
  (∀ d obj, exec (.stageDiscard d obj) State.reset = .next State.reset)

/-- The state after reset is safe. Rests on R387, R378, R564. -/
def Obligations.SafeHoldsAtReset : Prop :=
  Safe State.reset

/-- Every step leaves every record numbered, a full tail reported and a hub in CHIP reset at its reset values. Rests on R387,
R378, R564, R565. -/
def Obligations.EveryStepKeepsTheHubSafe : Prop :=
  ∀ (s t : State), Safe s → step s = .next t → Safe t

/-- A write to a backup register waits for the next tick, and one out of range is ignored. Rests on R587, R590, R591. -/
def Obligations.BackupRegisterWritesWait : Prop :=
  ∀ (s : State) (v : Nat), calm s = true →
    (rwsOk 0x3020 v = true → ∃ t, exec (.bkdSwitchCtrl v) s = .next t ∧ Told { s with bkd := { s.bkd with rws := s.bkd.rws ++ [(0x3020, v)] } } t) ∧
    (rwsOk 0x3044 v = true → ∃ t, exec (.bkdPwronCtrl v) s = .next t ∧ Told { s with bkd := { s.bkd with rws := s.bkd.rws ++ [(0x3044, v)] } } t) ∧
    (rwsOk 0x3048 v = true → ∃ t, exec (.bkdTimeCtrl v) s = .next t ∧ Told { s with bkd := { s.bkd with rws := s.bkd.rws ++ [(0x3048, v)] } } t) ∧
    (∀ n reg : Nat, n < 2 → reg < 3 → rwsOk (0x3060 + 16 * n + 4 * reg) v = true →
      ∃ t, exec (.alarmRegisterWrite n reg v) s = .next t ∧
        Told { s with bkd := { s.bkd with rws := s.bkd.rws ++ [(0x3060 + 16 * n + 4 * reg, v)] } } t) ∧
    (rwsOk 0x3020 v = false → (dom s 9).state = .idle → (ctx s 0).state ≠ .undefined → (dom s 16).state = .idle →
      ∃ t, exec (.bkdSwitchCtrl v) s = .next t ∧ t.bkd = s.bkd)

/-- On an empty queue the next crystal edge counts a tick and applies the waiting write. Rests on R587, R64, R68. -/
def Obligations.NextTickAppliesBackupWrites : Prop :=
  ∀ (s : State), s.pending = [] → s.bkd.crystalStopped = false → s.bkd.fromRef = false → s.bkd.corrN = 0 →
    annSounds s 0 = false → annSounds s 1 = false →
    (s.bkd.rws = [] → step s = .next { s with bkd := { s.bkd with edge := s.bkd.edge + 1, tick := s.bkd.tick + 1 } }) ∧
    (∀ v, s.bkd.rws = [(0x3020, v)] → step s = .next { s with bkd := { s.bkd with edge := s.bkd.edge + 1, tick := s.bkd.tick + 1, rws := [], modeB := bit v 0, vsw := v / 2 % 16 } }) ∧
    (∀ v, s.bkd.rws = [(0x3044, v)] → step s = .next { s with bkd := { s.bkd with edge := s.bkd.edge + 1, tick := s.bkd.tick + 1, rws := [], policy := v % 2, maxOff := v / 65536 % 65536 } }) ∧
    (∀ v, s.bkd.rws = [(0x3048, v)] → step s = .next { s with bkd := { s.bkd with edge := s.bkd.edge + 1, tick := s.bkd.tick + 1, rws := [], stepLimit := v % 131072 } })

/-- The first read of a capture group captures it, the last read and 1 ms end the capture. Rests on R73, R585. -/
def Obligations.CapturedReadsFreezeAndExpire : Prop :=
  ∀ (s : State), calm s = true →
    (∃ t, exec .bkdRtcSh0 s = .next t ∧
      Told { s with bkd := { s.bkd with freeze := some (s.bkd.tick, shadowWords { s with bkd := { s.bkd with freeze := some (s.bkd.tick, []) } }) } } t ∧
      .read 0 (s.bkd.tick % 4294967296) ∈ t.hif.out) ∧
    (∀ f, s.bkd.freeze = some f → f.1 + 33 ≤ s.bkd.tick →
      exec .shadowFreezeExpire s = .next { s with bkd := { s.bkd with freeze := none } }) ∧
    (∀ f g, capOf f g = true →
      (∃ t, exec (.captureGroupFirstRead f g) s = .next t ∧
        Told { s with reg := { s.reg with caps := tput s.reg.caps (256 * f + g) (s.bkd.tick, capLive s f g) } } t ∧
        .read f (nth 0 (capLive s f g) 0) ∈ t.hif.out) ∧
      (∃ t, exec (.captureGroupLastRead f g) s = .next t ∧ Told { s with reg := { s.reg with caps := tdel s.reg.caps (256 * f + g) } } t ∧
        .read f (capWord s f g 1) ∈ t.hif.out) ∧
      (∀ c, tfind s.reg.caps (256 * f + g) = some c → c.1 + 33 ≤ s.bkd.tick →
        exec (.captureGroupExpire f g) s = .next { s with reg := { s.reg with caps := tdel s.reg.caps (256 * f + g) } })) ∧
    (∃ t, exec (.captureGroupLastRead 0 0) s = .next t ∧ Told { s with bkd := { s.bkd with freeze := none } } t ∧
      .read 0 (capWord s 0 0 5) ∈ t.hif.out)

/-- Supply switches, crystal stops, a low battery and a backup reset change the backup domain as their rules say. Rests on R60,
R61, R62, R63, R65, R76, R82. -/
def Obligations.SupplyAndCrystalEvents : Prop :=
  ∀ (s : State), calm s = true → (dom s 3).state = .idle →
    (s.bkd.onVbat = false → ∃ t, exec (.supplySwitchOver true) s = .next t ∧ Told { s with bkd := { s.bkd with
        onVbat := true, swCount := satInc 32 s.bkd.swCount, swSat := s.bkd.swSat || s.bkd.swCount == 2 ^ 32 - 1,
        first := s.bkd.first.or (some (s.bkd.tick, s.bkd.modeB, tt s)), countShut := satInc 32 s.bkd.swCount } } t) ∧
    (∃ t, exec (.supplySwitchOver false) s = .next t ∧ Told { s with bkd := { s.bkd with onVbat := false } } t) ∧
    (∃ t, exec .crystalStop s = .next t ∧ Told { s with bkd := { s.bkd with
        crystalStopped := true, goodEdges := 0, fromRef := vddPresent s, corrN := if vddPresent s then 0 else s.bkd.corrN,
        osf := true, causes := setBit s.bkd.causes 1, nonce := none, causesShut := if bit s.bkd.causes 1 then s.bkd.causesShut else setBit s.bkd.causesShut 1 } } t) ∧
    exec .crystalResume s = .next { s with bkd := { s.bkd with crystalStopped := false, goodEdges := 1024 } } ∧
    (∃ t, exec (.vbatLow false) s = .next t ∧ Told { s with bkd := { s.bkd with vbatLow := false } } t) ∧
    (bit s.bkd.causes 2 = true ∨ s.bkd.vbatFrom + 1639 ≤ s.bkd.tick → ∃ t, exec (.vbatLow true) s = .next t ∧
      Told { s with bkd := { s.bkd with vbatLow := true, osf := true, causes := setBit s.bkd.causes 2, nonce := none, causesShut := if bit s.bkd.causes 2 then s.bkd.causesShut else setBit s.bkd.causesShut 2 } } t) ∧
    (s.bkd.pwronLow = true → s.bkd.lowSince + s.bkd.maxOff * minuteTicks ≤ s.bkd.tick →
      exec .pwronMaxOffExpire s = .next { s with bkd := { s.bkd with pwronLow := false } }) ∧
    (∃ t, exec .bkdReset s = .next t ∧ t.pwr.inReset = true ∧ t.pwr.last = { counts := [(2, 1)] } ∧
      t.bkd = { ({} : Bkd) with crystalStopped := s.bkd.crystalStopped, vbatLow := s.bkd.vbatLow, onVbat := s.bkd.onVbat } ∧
      t.bkd.osf = true ∧ t.bkd.causes = 1)

/-- Temperature samples feed the window, a window start computes N and C, and a matching alarm fires. Rests on R66, R68, R69, R74,
R82. -/
def Obligations.CompensationAndAlarms : Prop :=
  ∀ (s : State), calm s = true → (dom s 3).state = .idle →
    (∀ x : Int, s.bkd.sampleAt = 0 ∨ s.bkd.sampleAt + secs (if s.bkd.fast then 8 else 64) ≤ s.bkd.tick →
      (∃ t, exec (.tempSample true x) s = .next t ∧ t.bkd.samples = x :: s.bkd.samples ∧ t.bkd.lastSample = some x ∧
        t.bkd.sampleAt = s.bkd.tick ∧ t.bkd.sensorFail = false ∧ Told { s with bkd := t.bkd } t) ∧
      (∃ t, exec (.tempSample false x) s = .next t ∧ Told { s with bkd := { s.bkd with sensorFail := true, sampleAt := s.bkd.tick } } t)) ∧
    (windowEdges ≤ s.bkd.edge → s.bkd.fromRef = false → s.bkd.curveNext = none →
      (fld s.bkd.curve 48 4 % 2 = 0 → ∃ t, exec .compWindowStart s = .next t ∧
        Told { s with bkd := { s.bkd with edge := s.bkd.edge - windowEdges, samples := [], clamp := false, corrN := 0, carry := 0 } } t) ∧
      (fld s.bkd.curve 48 4 % 2 = 1 → s.bkd.sensorFail = false → s.bkd.samples ≠ [] →
        ∃ t, exec .compWindowStart s = .next t ∧ t.bkd.edge = s.bkd.edge - windowEdges ∧ t.bkd.samples = [] ∧
          (t.bkd.corrN : Rat) + t.bkd.carry = -((s.bkd.samples.map fun x => clampDev (deviation s.bkd x)).foldl (· + ·) 0 / (s.bkd.samples.length : Rat)) *
            (33554432 / 1000000) + s.bkd.carry)) ∧
    (∀ n : Nat, n < 2 → (alarm s n).last ≠ some (utcSecond s) → alarmAt s (alarm s n) (utcSecond s) = true →
      ((alarm s n).since : Int) < utcSecond s * 32768 - s.bkd.epoch →
      ∃ t, exec (.alarmMatch n) s = .next t ∧ (alarm t n).last = some (utcSecond s) ∧
        t.bkd.pwronLow = (if bit (alarm s n).ctrl 2 then false else s.bkd.pwronLow) ∧ t.bkd.tick = s.bkd.tick ∧ t.bkd.epoch = s.bkd.epoch ∧
        Told { s with bkd := t.bkd } t)

/-- READ_TIME answers tick and stamp of one instant, a challenge issues a nonce, a time set clears OSF, and the record is cleared.
Rests on R63, R75, R77, R80, R82, R515. -/
def Obligations.TimeCommandsOfTenantZero : Prop :=
  ∀ (s : State) (d : Desc),
    (canTake s d 0x0201 true = true → d.dlen = 0 → ∃ t, exec (.readTime d) s = .next t ∧ Told s t ∧
      answered s t d stOk 0 (le 6 (nowTick s) ++ le 7 (nowStamp s) ++ le 1 (clkTt s) ++ le 1 (osfByte s (calRange s)))) ∧
    (canTake s d 0x0202 false = true → d.tenant = 0 → drbgUp s = true → ∃ t n, exec (.timeChallenge d) s = .next t ∧ n < 2 ^ 128 ∧
      t.bkd.nonce = some (n, s.bkd.tick) ∧ answered s t d stOk 0 (le 16 n)) ∧
    (canTake s d 0x0204 false = true → d.tenant = 0 → ∃ t, exec (.clearFirstSwitch d) s = .next t ∧
      Told { s with bkd := { s.bkd with first := none } } t ∧ answered s t d stOk 0 []) ∧
    (∀ b : Bytes, canTake s d 0x0203 true = true → d.tenant = 0 → 100 ≤ d.dlen → 100 ≤ b.length →
      bit s.bkd.alm0.ctrl 0 = false → bit s.bkd.alm1.ctrl 0 = false → openChains s = [] →
      (∀ c < 33, calPresent s c false = false ∧ calPresent s c true = false) →
      ∃ t, exec (.timeSet d b) s = .next t ∧ t.bkd.tick = s.bkd.tick ∧
        t.bkd.osf = (if firstFail (timeChecks s b) = none then false else s.bkd.osf) ∧
        t.bkd.causes = (if firstFail (timeChecks s b) = none then 0 else s.bkd.causes) ∧
        utcTicks t = (if firstFail (timeChecks s b) = none then ((fld b 28 8 : Nat) : Int) else utcTicks s)) ∧
    (∀ us : Nat, canTake s d 0x0205 false = true → d.tenant = 0 → s.bkd.policy ≠ 0 → s.cis.incs = [] → s.cmp.air = none →
      s.cis.tail = [] → (∀ c, (annChan s c).stack = []) →
      ∃ t, exec (.powerOff d us) s = .next t ∧ t.pwr.inReset = true ∧ t.pwr.last.cause = 6 ∧ t.bkd.pwronLow = true ∧ t.bkd.lowSince = s.bkd.tick)

/-- Rings are created with the next RSEQ, attached in pairs and deleted. Rests on R479, R480, R481, R482, R483. -/
def Obligations.RingCreationAndAttachment : Prop :=
  ∀ (s : State), calm s = true →
    (∀ (d : Desc) (defn : Bytes), canTake s d 0x0002 false = true → defCheck s d.tenant defn none = none →
      (defRing defn).typ ≠ .evt → (defRing defn).typ ≠ .str →
      ∃ t, exec (.ringCreate d defn) s = .next t ∧ (ring t d.tenant (defIndex defn)).state = .active ∧
        (ring t d.tenant (defIndex defn)).typ = (defRing defn).typ ∧ (ring t d.tenant (defIndex defn)).base = (defRing defn).base ∧
        (ring t d.tenant (defIndex defn)).rseq = nextRseq s d.tenant (defIndex defn)) ∧
    (∀ v : Nat, v % 2 = 1 → s.rng.bootState ≠ 1 → (ctx s 0).state = .attached → defCheck s 0 s.rng.def0 (some 0) = none →
      defCheck s 0 s.rng.def1 (some 1) = none →
      ∃ t, exec (.rngBootCtrlGo v) s = .next t ∧ (ctx t 0).state = .active ∧ (ring t 0 0).state = .active ∧ (ring t 0 0).typ = .adm ∧
        (ring t 0 0).rseq = nextRseq s 0 0 ∧ (ring t 0 1).state = .active ∧ (ring t 0 1).typ = .cpl) ∧
    (∀ (d : Desc) (n : Nat), canTake s d 0x0001 false = true → d.tenant = 0 → 1 ≤ n → n ≤ 255 → tenantDefined s n = true →
      (ctx s n).mbxState = 1 → (ctx s n).state = .attached → defCheck s n (ctx s n).mbxDef0 (some 0) = none →
      defCheck s n (ctx s n).mbxDef1 (some 1) = none →
      ∃ t, exec (.adminAttach d n) s = .next t ∧ (ctx t n).state = .active ∧ (ctx t n).mbxState = 2 ∧ (ring t n 0).state = .active ∧
        (ring t n 1).state = .active ∧ (ring t n 0).rseq = nextRseq s n 0) ∧
    (∀ f : Nat, f ≠ 0 → (ctx s f).state = .attached →
      ∃ t, exec (.mbxReq f 0x41444D31) s = .next t ∧ ctx t f = { ctx s f with mbxState := 1, mbxCode := 0 }) ∧
    (∀ (d : Desc) (i : Nat), canTake s d 0x0003 false = true → 2 ≤ i → i < 64 → i ≠ d.ring → i ≠ cplOf s d →
      (ring s d.tenant i).state = .active → s.cmd.opens = [] →
      (s.rng.rings.any fun p => p.1 / 64 == d.tenant && p.2.state != .absent && p.2.pair == i && p.1 % 64 != i &&
        (p.2.typ == .adm || p.2.typ == .sub || p.2.typ == .str || p.2.typ == .raw)) = false →
      ∃ t, exec (.ringDelete d i) s = .next t ∧ (ring t d.tenant i).state = .absent)

/-- Doorbells move a ring, moderation signals it, and flushes complete its open page. Rests on R485, R492, R497, R499. -/
def Obligations.DoorbellsAndDeliveries : Prop :=
  ∀ (s : State), calm s = true →
    (∀ (f i idx : Nat) (posts : List HostPost), (ctx s f).state = .active → i < 64 → idx < 65536 → (ring s f i).state = .active →
      (ring s f i).typ = .adm ∨ (ring s f i).typ = .sub → idx < ringSize (ring s f i) →
      (idx + ringSize (ring s f i) - (ring s f i).tail % ringSize (ring s f i)) % ringSize (ring s f i) ≤ ringFree (ring s f i) →
      ∃ t, exec (.doorbellWrite f ((ring s f i).rseq % 256 * 16777216 + i * 65536 + idx) posts) s = .next t ∧
        (ring t f i).tail = idx ∧ (ring t f i).head = (ring s f i).head) ∧
    (∀ (n i : Nat), live s n = true → (ring s n i).state = .active → 0 < (ring s n i).unsig → hostProduces (ring s n i).typ = false →
      ∃ t, exec (.ringModerationExpire n i) s = .next t ∧ .write n (ring s n i).shadow (shadowBytes (ring s n i)) ∈ t.hif.out) ∧
    (∀ (n i : Nat) (p : OpenPage), live s n = true → (ring s n i).state = .active → (ring s n i).page = some p → p.recs ≠ [] →
      p.closing = none → 0 < ringFree (ring s n i) → p.since + (ring s n i).flushMs * 32768 / 1000 ≤ s.bkd.tick →
      ∃ t, exec (.pageFlushExpire n i) s = .next t ∧ .write n p.addr (p.recs.map recBytes).flatten ∈ t.hif.out) ∧
    (∀ (d : Desc) (i : Nat) (p : OpenPage), canTake s d 0x0004 false = true → i < 64 → i ≠ d.ring → (ring s d.tenant i).state = .active →
      (ring s d.tenant i).typ = .str ∨ (ring s d.tenant i).typ = .raw → (ring s d.tenant i).page = some p → p.recs ≠ [] →
      p.closing = none → 0 < ringFree (ring s d.tenant i) →
      ∃ t, exec (.streamFlush d i) s = .next t ∧ .write d.tenant p.addr (p.recs.map recBytes).flatten ∈ t.hif.out) ∧
    (∀ (n i : Nat) (p : OpenPage) (g : GapNote), (ring s n i).state = .active → (ring s n i).typ = .str → (ring s n i).dropping = some g →
      (ring s n i).staged = [] → (ring s n i).page = some p → p.closing = none → p.fill + 48 ≤ 4096 →
      ∃ t, exec (.stagingDrained n i) s = .next t ∧ (ring t n i).dropping = none ∧ (ring t n i).staged = [] ∧
        (ring t n i).page.map (·.fill) = some (p.fill + 48))

/-- Register writes reach their fields, and an access that is no aligned word is answered with ones and counted. Rests on R9, R13,
R587, R588, R592, R593, R596. -/
def Obligations.RegisterAccesses : Prop :=
  ∀ (s : State) (v : Nat), calm s = true →
    exec (.gpioWrite 0xF800 v) s = .next { s with reg := { s.reg with gpioDir := v % 65536 } } ∧
    exec (.gpioWrite 0xF804 v) s = .next { s with reg := { s.reg with gpioOut := v % 65536 } } ∧
    exec (.gpioWrite 0xF80C v) s = .next { s with reg := { s.reg with gpioPull := v % 65536 } } ∧
    (∀ w, w < 4 → s.lgl.state ≠ .sealed → legalReadOnly s = false →
      exec (.metSiteIdWrite w v) s = .next { s with met := { s.met with siteId := setNth s.met.siteId w (v % 4294967296) } }) ∧
    (∃ t, exec (.evtOverrunClear v) s = .next t ∧ t = { s with reg := { s.reg with overrun := t.reg.overrun } } ∧
      (bit v 3 = true → bit s.reg.overrun 3 = true → bit t.reg.overrun 3 = false)) ∧
    (rwsOk 0x3048 v = true → ∃ t, exec (.registerWrite 0 0 0x3048 v) s = .next t ∧
      t = { s with bkd := { s.bkd with rws := s.bkd.rws ++ [(0x3048, v)] } }) ∧
    (∀ f k, f ≠ 0 → k < 10 → (ctx s f).state ≠ .undefined →
      exec (.registerWrite f 0 (0x100 + 4 * k) v) s = .next (setCtx s f { ctx s f with mbxDef0 := putWord (ctx s f).mbxDef0 k v })) ∧
    (∀ (f bar off : Nat) (w : Bool), (dom s 9).state = .idle → (dom s (16 + f)).state = .idle →
      ∃ t, exec (.badAccess f bar off w) s = .next t ∧
        Told { s with hif := { s.hif with badCount := satInc 16 s.hif.badCount, badLast := off % 65536 + 65536 * (f % 256) + 16777216 * (bar % 8) + flag w 27 } } t ∧
        (w = false → .read f 0xFFFFFFFF ∈ t.hif.out))

/-- PERST_N, a lost link and a hot reset leave no link, no function and no VF; a link that comes up is recorded. Rests on R457,
R458, R472. -/
def Obligations.LinkAndReset : Prop :=
  ∀ (s : State), calm s = true →
    (s.hif.perst = true → ∃ t, exec .perstNLow s = .next t ∧ t.hif.perst = false ∧ t.hif.linkUp = false ∧ t.hif.vfEnable = false ∧
      t.hif.numVfs = 0 ∧ (∀ n, live t n = false)) ∧
    (∃ t, exec .linkDown s = .next t ∧ t.hif.linkUp = false ∧ t.hif.vfEnable = false ∧ (∀ n, live t n = false) ∧ t.bkd = s.bkd ∧ t.met = s.met) ∧
    (∃ t, exec .hotReset s = .next t ∧ t.hif.linkUp = false ∧ t.hif.vfEnable = false ∧ (∀ n, live t n = false) ∧ t.bkd = s.bkd ∧ t.met = s.met) ∧
    (s.hif.perst = true → s.hif.linkUp = true → ∃ t, exec (.linkStateChange false 0 0) s = .next t ∧ t.hif.linkUp = false ∧ t.hif.vfEnable = false) ∧
    (s.hif.perst = false → ∃ t, exec .perstNHigh s = .next t ∧ Told { s with hif := { s.hif with perst := true, trainBy := some (s.bkd.tick + 656) } } t) ∧
    (∀ r w, s.hif.perst = true → s.hif.linkUp = false → 3 ≤ r → 2 ≤ w → ∃ t, exec (.linkStateChange true r w) s = .next t ∧
      Told { s with hif := { s.hif with linkUp := true, rate := r, width := w, trainBy := none } } t)

/-- Functions become live, lose their host context, and their errors and silences are reported. Rests on R459, R462, R464, R465,
R466, R470, R471, R473, R478. -/
def Obligations.FunctionsAndTheirTenants : Prop :=
  ∀ (s : State), calm s = true →
    (∀ (f : Nat) (m : Bool) (v : Nat), reachable s f = true → s.hif.linkUp = true → (ctx s f).state = .detached →
      ∃ t, exec (.functionLive f m v) s = .next t ∧ (ctx t f).state = .attached ∧ (func t f).d3 = false ∧ (func t f).mse = true ∧
        (func t f).bme = true ∧ (func t f).msixEnable = m ∧ (func t f).vmask = v ∧ t.bkd = s.bkd) ∧
    (∀ f : Nat, f ≠ 0 → funcExists s f = true → s.hif.linkUp = true → (ctx s f).state = .active →
      (∃ t, exec (.flr f) s = .next t ∧ (ctx t f).state = .resetting ∧ (func t f).bme = false ∧ (func t f).msixEnable = false ∧
        (ctx t f).teardown.map (·.kind) = some 0) ∧
      ((func s f).bme = true → ∃ t, exec (.busMasterEnableCleared f) s = .next t ∧ (ctx t f).state = .resetting ∧ (func t f).bme = false) ∧
      ((func s f).d3 = false → ∃ t, exec (.d3hotEntry f) s = .next t ∧ (ctx t f).state = .resetting ∧ (func t f).d3 = true)) ∧
    (∀ (k : Nat) (a : Bool), s.hif.vfEnable = false → k ≤ 7 → ∃ t, exec (.vfEnableChange true k a) s = .next t ∧
      Told { s with hif := { s.hif with vfEnable := true, numVfs := k, ari := a } } t) ∧
    (∀ (n : Nat) (x : Teardown), (ctx s n).teardown = some x → (ctx s n).state = .resetting → x.undefine = false → live s n = true →
      ∃ t, exec (.teardownComplete n) s = .next t ∧ (ctx t n).state = .attached ∧ (ctx t n).teardown = none ∧ (ctx t n).mbxState = 0) ∧
    (∀ f v : Nat, bit (func s f).pending v = true → (func s f).msixEnable = true → (func s f).bme = true → (func s f).funcMask = false →
      ∃ t, exec (.msixUnmask f v) s = .next t ∧ .msi f v ∈ t.hif.out ∧ bit (func t f).vmask v = false ∧ bit (func t f).pending v = false) ∧
    (∀ f st : Nat, (dom s 9).state = .idle → ∃ t, exec (.aerError f true st false) s = .next t ∧ (func t f).aerCorr = (func s f).aerCorr ||| st) ∧
    (∀ f c a i : Nat, funcExists s f = true → (dom s (16 + f)).state = .idle → (ring s f i).state = .active → 2 ≤ i →
      ∃ t, exec (.dmaFault f c a (some i)) s = .next t ∧ (ring t f i).state = .error) ∧
    (hostWdS s ≠ 0 → s.hif.silent = false → s.hif.lastDoorbell + secs (hostWdS s) ≤ s.bkd.tick →
      ∃ t, exec .hostSilent s = .next t ∧ Told { s with hif := { s.hif with silent := true } } t)

/-- A descriptor with an unknown opcode, on the wrong ring or malformed completes with its error status. Rests on R489. -/
def Obligations.BadDescriptorsAreAnswered : Prop :=
  ∀ (s : State) (d : Desc), ready s d = true → live s d.tenant = true → calm s = true → (dom s (16 + d.tenant)).state = .idle →
    (∀ opc, 0x0E00 ≤ opc → ∃ t, exec (.badDescriptor d opc) s = .next t ∧ answered s t d stBadOpcode 0 [] ∧ Told s t) ∧
    (d.ring ≠ 0 → ∃ t, exec (.badDescriptor d 0x0001) s = .next t ∧ answered s t d stWrongRing 0 [] ∧ Told s t) ∧
    (d.ring = 0 → ∃ t, exec (.badDescriptor d 0x0001) s = .next t ∧ answered s t d stDescFormat 0 [] ∧ Told s t)

/-- STAGE_WRITE, STAGE_READ and STAGE_DISCARD act on the issuer's own set and answer its SGEN. Rests on R514, R528, R529, R530,
R507. -/
def Obligations.StagingWritesReadsAndDiscards : Prop :=
  ∀ (s : State) (d : Desc) (obj off flags which : Nat) (data : Bytes), objKnown obj = true → d.tenant = 0 ∨ obj / 256 = objSubscription →
    let key := objKey d.tenant obj
    let x := stage s d.tenant
    (canTake s d 0x0101 true = true → bit flags 0 = false →
      off + data.length ≤ sizeOf key (if x.objs.contains key then x.clipLen else (newest s d.tenant key).2) →
      ∃ t, exec (.stageWrite d obj off flags data) s = .next t ∧
        Told { s with slu := { s.slu with stages := tput s.slu.stages d.tenant (stagePut x key off (newest s d.tenant key) false data) } } t ∧
        (stage t d.tenant).sgen = (x.sgen + 1) % 2 ^ 32 ∧ answered s t d stOk 0 (le 4 ((x.sgen + 1) % 2 ^ 32))) ∧
    (canTake s d 0x0102 true = true → which = 1 → off ≤ sizeOf key s.slu.clipLen → sizeOf key s.slu.clipLen - off ≤ d.dlen →
      ∃ t, exec (.stageRead d obj off which) s = .next t ∧ Told s t ∧
        .write d.tenant d.dptr (Mem.readAll cfgDefault s.slu.force (cfgAddr key off) (sizeOf key s.slu.clipLen - off)) ∈ t.hif.out ∧
        answered s t d stOk (sizeOf key s.slu.clipLen - off) []) ∧
    (canTake s d 0x0102 true = true → which = 0 → x.objs.contains key = true → off ≤ sizeOf key x.clipLen → sizeOf key x.clipLen - off ≤ d.dlen →
      ∃ t, exec (.stageRead d obj off which) s = .next t ∧ Told s t ∧
        .write d.tenant d.dptr (Mem.readAll cfgDefault x.mem (cfgAddr key off) (sizeOf key x.clipLen - off)) ∈ t.hif.out) ∧
    (canTake s d 0x0103 false = true →
      ∃ t, exec (.stageDiscard d 0xFFFF) s = .next t ∧
        Told { s with slu := { s.slu with stages := tput s.slu.stages d.tenant { x with objs := [], mem := [], clipLen := 0, sgen := (x.sgen + 1) % 2 ^ 32 } } } t ∧
        answered s t d stOk 0 (le 4 ((x.sgen + 1) % 2 ^ 32)))

/-- A staged byte reads back as written, and every other byte of the set reads as before. Rests on R529. -/
def Obligations.StagedBytesReadBack : Prop :=
  ∀ (x : Stage) (key off : Nat) (src : Mem × Nat) (data : Bytes), x.objs.contains key = true → Mem.wf cfgDefault x.mem = true →
    Mem.wf cfgDefault (stagePut x key off src false data).mem = true ∧
    (∀ k, k < data.length → Mem.read cfgDefault (stagePut x key off src false data).mem (cfgAddr key off + k) = nth 0 data k) ∧
    (∀ a, a < cfgAddr key off ∨ cfgAddr key off + data.length ≤ a →
      Mem.read cfgDefault (stagePut x key off src false data).mem a = Mem.read cfgDefault x.mem a)

/-- CHECK stamps a set that passes with its SGEN and digest, and unstamps one that fails. Rests on R532, R241. -/
def Obligations.CheckStampsAPassingSet : Prop :=
  ∀ (s : State) (d : Desc), canTake s d 0x0104 false = true →
    let x := stage s d.tenant
    (checkFails s d.tenant = none → ∃ t, exec (.check d) s = .next t ∧
      Told { s with slu := { s.slu with stages := tput s.slu.stages d.tenant { x with stamped := some x.sgen, digest := commitDigest x } } } t ∧
      answered s t d stOk 0 (le 4 x.sgen ++ (commitDigest x).take 8 ++ zeros 4)) ∧
    (∀ rule obj, checkFails s d.tenant = some (rule, obj) → ∃ t, exec (.check d) s = .next t ∧
      Told { s with slu := { s.slu with stages := tput s.slu.stages d.tenant { x with stamped := none, digest := [] } } } t ∧
      answered s t d (if rule = 3 then stSealed else stCheckFail) 0 (le 4 x.sgen ++ zeros 8 ++ le 2 obj ++ le 2 rule))

/-- CHECK rejects a section whose incomer has ROLE OUTLET or is a member of the section. Formalises R206. -/
def Obligations.CheckRejectsABadSectionIncomer : Prop :=
  ∀ (s : State) (d : Desc) (k : Nat), canTake s d 0x0104 false = true → k < 8 →
    sectionField (candidate s d.tenant) k 0 2 < 256 →
    mpRole (candidate s d.tenant) (sectionField (candidate s d.tenant) k 0 2) = 0 ∨
      mpSection (candidate s d.tenant) (sectionField (candidate s d.tenant) k 0 2) = k →
    ∃ t, exec (.check d) s = .next t ∧ (stage t d.tenant).stamped = none ∧
      ∃ rule obj, answered s t d (if rule = 3 then stSealed else stCheckFail) 0 (le 4 (stage s d.tenant).sgen ++ zeros 8 ++ le 2 obj ++ le 2 rule)

/-- COMMIT_AT freezes a checked set behind a cue, COMMIT_CANCEL withdraws it, and the cue puts it in force or aborts it late.
Rests on R514, R533, R534, R536, R49, R51. -/
def Obligations.CommitsPendAndApply : Prop :=
  ∀ (s : State),
    (∀ (d : Desc) (gen stamp q : Nat), canTake s d 0x0105 false = true → agreedSet s d.tenant = false → pickCue s d.tenant = some q →
      let st := if stamp = 0 then boundaryAfter s 8 else stamp
      let x := stage s d.tenant
      firstFail (commitChecks s d.tenant gen stamp st 8) = none →
      ∃ t, exec (.commitAt d gen stamp) s = .next t ∧
        Told { s with
          slu := { s.slu with
            stages := tput s.slu.stages d.tenant { x with objs := [], mem := [], clipLen := 0, sgen := (x.sgen + 1) % 2 ^ 32 }
            images := tput s.slu.images d.tenant ⟨x.objs, x.mem, x.clipLen, st, q, true, false⟩ }
          clk := { s.clk with cues := tput s.clk.cues q ⟨st, cueCommit, d.tenant, .pending, gen⟩ } } t ∧
        answered s t d stOk 0 (le 7 st ++ le 2 q)) ∧
    (∀ (d : Desc) (q : Nat), canTake s d 0x0106 false = true → cuePending (cue s q) = true → (cue s q).owner = d.tenant →
      (cue s q).kind = cueCommit → nowStamp s + angleBits ≤ (cue s q).stamp →
      ∃ t, exec (.commitCancel d q) s = .next t ∧
        Told { s with slu := { s.slu with images := tdel s.slu.images d.tenant }
                      clk := { s.clk with cues := tput s.clk.cues q { cue s q with state := .cancelled } } } t ∧
        answered s t d stOk 0 []) ∧
    (∀ (q : Nat) (i : Image), calm s = true → cueDue s q cueCommit = true → tfind s.slu.images (cue s q).owner = some i →
      i.agreed = false → calSet i.objs = false →
      (nowCycle s ≤ Stamp.cycle (cue s q).stamp → i.durable = true →
        tenantRemoves s (withObjects s i.objs i.mem i.clipLen) = false →
        (∀ typ ∈ [objMp, objClock, objComp, objCalendar, objBilling, objSlot, objCredit, objRelay, objRadio, objAnn, objClip, objTenant],
          touches i typ = false) →
        ∃ t, exec (.cfgCommit q) s = .next t ∧
          Told { s with
            slu := { s.slu with
              force := (withObjects s i.objs i.mem i.clipLen).slu.force
              clipLen := (withObjects s i.objs i.mem i.clipLen).slu.clipLen
              images := tdel s.slu.images (cue s q).owner
              past := (s.slu.past.filter fun p => decide (nowCycle s ≤ p.1 + 64)) ++ [(nowCycle s, s.slu.force)] }
            clk := { s.clk with cues := tput s.clk.cues q { cue s q with state := .done } } } t) ∧
      (Stamp.cycle (cue s q).stamp < nowCycle s → (dom s 12).state = .idle →
        ∃ t, exec (.cfgCommit q) s = .next t ∧ t.slu.images = tdel s.slu.images (cue s q).owner ∧ t.slu.force = s.slu.force ∧
          (cue t q).state = .late)) ∧
    (∀ (q : Nat) (i : Image), calm s = true → cueDue s q cueCascade = true → tfind s.slu.images (cue s q).owner = some i →
      calSet i.objs = false → s.ril.member = false → nowCycle s ≤ Stamp.cycle (cue s q).stamp → i.durable = true →
      tenantRemoves s (withObjects s i.objs i.mem i.clipLen) = false →
      (∀ typ ∈ [objMp, objClock, objComp, objCalendar, objBilling, objSlot, objCredit, objRelay, objRadio, objAnn, objClip, objTenant],
        touches i typ = false) →
      ∃ t, exec (.cascadeCommit q) s = .next t ∧ t.slu.force = (withObjects s i.objs i.mem i.clipLen).slu.force ∧
        t.slu.images = tdel s.slu.images (cue s q).owner ∧ (cue t q).state = .done)

/-- A staging command leaves the staging set of every other tenant as it was. Formalises R514. -/
def Obligations.StagingStaysWithItsTenant : Prop :=
  ∀ (s t : State) (c : Instr) (d : Desc), calm s = true →
    (∃ obj off flags data, c = .stageWrite d obj off flags data) ∨ (∃ obj off which, c = .stageRead d obj off which) ∨
      (∃ obj, c = .stageDiscard d obj) ∨ c = .check d ∨ (∃ gen stamp, c = .commitAt d gen stamp) ∨ (∃ q, c = .commitCancel d q) →
    exec c s = .next t → ∀ u, u ≠ d.tenant → stage t u = stage s u

/-- RING_DELETE of ring 0 or 1, and FAULT_READ outside a tenant's own domain or with FLAGS bit 0, are refused with
ST_NOT_PERMITTED. Formalises R511. -/
def Obligations.RingAndFaultCommandsAreGuarded : Prop :=
  ∀ (s : State) (d : Desc),
    (∀ i, canTake s d 0x0003 false = true → i ≤ 1 → ∃ t, exec (.ringDelete d i) s = .next t ∧ Told s t ∧ answered s t d stNotPermitted 0 []) ∧
    (∀ k n f, canTake s d 0x0005 true = true → d.tenant ≠ 0 → k ≠ 16 ∨ n ≠ d.tenant ∨ bit f 0 = true →
      ∃ t, exec (.faultRead d k n f) s = .next t ∧ Told s t ∧ answered s t d stNotPermitted 0 []) ∧
    (∀ f, canTake s d 0x0005 true = true → tenantDefined s d.tenant = true → bit f 0 = false → 32 ≤ d.dlen →
      ∃ t, exec (.faultRead d 16 d.tenant f) s = .next t ∧ Told s t ∧ answered s t d stOk 32 [] ∧
        .write d.tenant d.dptr (faultBlock s (16 + d.tenant) false) ∈ t.hif.out) ∧
    (∀ k f, canTake s d 0x0005 true = true → d.tenant = 0 → k < 16 → 8224 ≤ d.dlen →
      ∃ t, exec (.faultRead d k 0 f) s = .next t ∧ Told s t ∧ .write 0 d.dptr (faultBlock s k (bit f 0)) ∈ t.hif.out)

/-- A fault level that completes uncovers the next, one that overruns its time escalates, and a finished escalation leaves its
domain IDLE. Rests on R399, R400, R398. -/
def Obligations.FaultHandlingEnds : Prop :=
  ∀ (s : State), calm s = true →
    (∀ (k : Nat) (l : Level), (dom s k).state = .handling → (dom s k).stack = [l] →
      ((dom s k).queue = [] → exec (.faultLevelComplete k) s = .next (setDom s k { dom s k with state := .idle, stack := [] })) ∧
      (∀ p, (dom s k).queue = [p] → exec (.faultLevelComplete k) s =
        .next (setDom s k { dom s k with stack := [⟨p.1, p.2, s.bkd.tick, false⟩], queue := [] }))) ∧
    (∀ (k : Nat) (l : Level) (rest : List Level), (dom s k).state = .handling → (dom s k).stack = l :: rest → l.since + 3277 ≤ s.bkd.tick →
      (16 ≤ k → ∃ t, exec (.faultLevelTimeout k) s = .next t ∧ (dom t k).state = .escalating ∧ bit t.reg.overrun 16 = true ∧
        ((ctx s (k - 16)).state = .active → (ctx t (k - 16)).state = .resetting)) ∧
      (k = 0 ∨ k = 1 ∨ k = 4 → ∃ t, exec (.faultLevelTimeout k) s = .next t ∧ t.pwr.inReset = true ∧ t.pwr.last.cause = 0x0C)) ∧
    (∀ (k : Nat) (obs : TrainObs), (dom s k).state = .escalating →
      (k = 8 ∨ k = 12 ∨ k = 13 ∨ k = 14 → s.pwr.serviceDown = false →
        exec (.escalationComplete k obs) s = .next (setDom s k { dom s k with state := .idle, stack := [], queue := [] })) ∧
      (16 ≤ k → (ctx s (k - 16)).teardown = none →
        exec (.escalationComplete k obs) s = .next (setDom s k { dom s k with state := .idle, stack := [], queue := [] })))

/-- The end of a suppression span reports what it suppressed, a free place reports what was lost, and a tamper record is written
when its span ends. Rests on R392, R393, R403. -/
def Obligations.SuppressionLossesAndTamperWrites : Prop :=
  ∀ (s : State), calm s = true →
    (∃ t, exec .eventSuppressionSpanEnd s = .next t ∧ Told s t ∧ (s.ev.suppressed.length ≤ 64 → t.ev.suppressed = []) ∧
      (s.ev.suppressed = [] → t.ev.counts = [] ∧ t.ev.span = s.bkd.tick / 32768) ∧
      (∀ i n, s.ev.suppressed = [(i, n)] → s.clk.cycle.isSome = true → logged s t 67 (le 2 i ++ le 4 n))) ∧
    (s.ev.lost ≠ [] → waitingEvents s < 8192 → (dom s 15).state = .idle →
      ∃ t, exec .eventBlockPlaceFree s = .next t ∧ Told s t ∧
        (s.clk.cycle.isSome = true → logged s t 68 ((span 0 16).map fun c => le 2 (min 65535 (tget 0 s.ev.lost c))).flatten)) ∧
    (∀ key, s.ev.tamperDirty.contains key = true → tget 0 s.ev.tamperWrite key + 32768 ≤ s.bkd.tick →
      exec (.tamperWriteSpanEnd key) s = .next { s with ev := { s.ev with
        tampersFlash := tput s.ev.tampersFlash key (tget {} s.ev.tampers key)
        tamperWrite := tput s.ev.tamperWrite key s.bkd.tick
        tamperDirty := s.ev.tamperDirty.filter (· != key) } })

/-- Announcement, certificate, join messages, time limits and readmission move a head as the join and exclusion rules say. Rests
on R98, R102, R103, R105, R106, R110. -/
def Obligations.HeadsJoin : Prop :=
  ∀ (s : State), calm s = true →
    (∀ (pos : Nat) (b : Bytes), arrives s pos 0x81 b = true → (head s pos).state = .repeater → fld (boxWhole s pos b) 12 1 = 1 →
      (head s pos).unsupported = false → serialFits s pos (fld (boxWhole s pos b) 0 8) = true →
      ∃ t, exec (.announce pos b) s = .next t ∧ (head t pos).serial = fld (boxWhole s pos b) 0 8 ∧ (head t pos).state = .repeater ∧
        (head t pos).join.step = 1 ∧ (head t pos).join.certLen = fld (boxWhole s pos b) 10 2 ∧ acked t pos b) ∧
    (∀ (pos : Nat) (b : Bytes), arrives s pos 0x82 b = true → (head s pos).state = .repeater → (head s pos).join.step = 1 →
      (head s pos).unsupported = false → s.key.drbg = true →
      ∃ t, exec (.cert pos b) s = .next t ∧
        (if certOk s (head s pos) (boxWhole s pos b) then acked t pos b ∧ (head t pos).state = .joining ∧ (head t pos).join.step = 2 ∧
            (head t pos).join.cert = boxWhole s pos b
          else (head t pos).state = .excluded)) ∧
    (∀ (pos : Nat) (b : Bytes), arrives s pos 0x83 b = true → (head s pos).state = .joining → (head s pos).join.step = 2 →
      serialFits s pos (head s pos).serial = true →
      ∃ t, exec (.joinHead pos b) s = .next t ∧
        (if Config.ecdsaVerify (Config.certKey (head s pos).join.cert)
            (Config.sha256 ((head s pos).join.hubContent ++ (boxWhole s pos b).take 80)) (slice (boxWhole s pos b) 80 64)
          then (head t pos).state = .joining ∧ (head t pos).join.step = 4 ∧ (head t pos).keys.length = 4
          else (head t pos).state = .excluded)) ∧
    (∀ (pos : Nat) (b : Bytes), arrives s pos 0x84 b = true → (head s pos).state = .joining → (head s pos).join.step = 4 →
      serialFits s pos (head s pos).serial = true →
      ∃ t, exec (.joinFinish pos b) s = .next t ∧
        (if (boxWhole s pos b).take 16 = be 16 (Config.cmac (nth 0 (head s pos).keys 3) (0x44 :: (head s pos).join.transcript))
          then (head t pos).state = .active ∧ (head t pos).session = some (head s pos).join.start ∧
            (∀ c, c < 3 → ∃ m ∈ t.ply.queue, m.addr = pos ∧ m.typ = 0x46 ∧ m.payload = [BitVec.ofNat 8 c])
          else (head t pos).state = .excluded)) ∧
    (∀ p : Nat, (head s p).state = .joining → (head s p).join.since + 256 < s.ply.frame →
      ∃ t, exec (.joinStepTimeout p) s = .next t ∧ (head t p).state = .excluded) ∧
    (∀ p : Nat, (head s p).state = .excluded → (head s p).held = false → (head s p).exclUntil ≤ s.bkd.tick →
      ∃ t, exec (.exclusionHoldoffEnd p) s = .next t ∧ (head t p).state = if unreachable s p then .isolated else .repeater) ∧
    (∀ (d : Desc) (p : Nat), canTake s d 0x0307 false = true → d.tenant = 0 → p < 64 → (head s p).held = true →
      ∃ t, exec (.plyReadmit d p) s = .next t ∧ (head t p).state = .repeater ∧ (head t p).held = false ∧ (head t p).counted = (head s p).counted ∧
        answered s t d stOk 0 [])

/-- Acknowledgements, surveys, versions, event buffers, sync results and autonomous reports of a head are taken as their rules
say. Rests on R96, R100, R119, R137, R143, R144, R145, R146, R160, R175. -/
def Obligations.HeadMessagesAreTaken : Prop :=
  ∀ (s : State) (pos : Nat) (b : Bytes), calm s = true → (dom s 0).state = .idle → (dom s 1).state = .idle → (dom s 2).state = .idle →
    let h := head s pos
    let m := boxWhole s pos b
    (arrives s pos 0x87 b = true → ∃ t, exec (.ack pos b) s = .next t ∧
      (head t pos).unacked = h.unacked.filter (fun x => x.mseq != fld m 0 2) ∧ (head t pos).state = h.state ∧ t.ply.queue = s.ply.queue) ∧
    (arrives s pos 0x88 b = true → ∃ t, exec (.surveyReply pos b) s = .next t ∧ acked t pos b ∧ (head t pos).rLat = fld m 4 2 ∧
      (head t pos).nextDA2 = some ((s.ply.la : Int) - fld m 4 2 - signed 32 (fld m 0 4), s.ply.frame)) ∧
    (arrives s pos 0x89 b = true → ∃ t, exec (.version pos b) s = .next t ∧
      (if versionOk m then acked t pos b ∧ (head t pos).state = h.state ∧ (head t pos).version = m ∧ (head t pos).mpCount = fld m 1 1 ∧
          (head t pos).nextGd = some (fld m 14 4, h.session.getD s.ply.frame)
        else (head t pos).state = .repeater ∧ (head t pos).unsupported = true)) ∧
    (arrives s pos 0x8B b = true → fld m 0 1 = 1 → fld m 2 2 = 0 → fld m 8 1 = 1 → tget 0 s.ply.eventSeqs h.serial < fld m 4 4 →
      ∃ t, exec (.event pos b) s = .next t ∧ acked t pos b ∧ tget 0 t.ply.eventSeqs h.serial = fld m 4 4 ∧
        (head t pos).reports = h.reports.filter (fun r => r.1 != 2)) ∧
    (arrives s pos 0x8C b = true → fld m 4 1 = 1 → ∃ t, exec (.syncDone pos b) s = .next t ∧ acked t pos b ∧
      ∀ c ∈ headChans pos, ∀ f off, (chan s c).syncWait = some (f, off) →
        (chan t c).syncWait = none ∧ (chan t c).reset = some (resetLabel s c f off, false)) ∧
    (arrives s pos 0x8A b = true → ∃ t, exec (.autonReport pos b) s = .next t ∧ acked t pos b ∧
      (head t pos).reports = h.reports.filter (fun r => r.1 != 1) ∧
      (head t pos).counted = (if Config.ecdsaVerify (Config.certKey h.join.cert) (Config.sha256 (m.take 1164)) (slice m 1164 64)
        then h.counted else s.bkd.tick :: h.counted))

/-- A slot frame starts, sections enter the histories, messages repeat, verdicts fall at their deadline and outputs release. Rests
on R88, R90, R96, R108, R109, R114, R143, R148, R185, R24. -/
def Obligations.FramesAndSections : Prop :=
  ∀ (s : State),
    (∀ loc : List (Nat × Nat), bare s = true → s.clk.log = [] → loc.length = 8 → (∀ i, i < 8 → (chan s (1088 + i)).label < nextFrame s) →
      ∃ t, exec (.slotFrameStart loc) s = .next t ∧ t.ply.started = true ∧ t.ply.frame = nextFrame s ∧
        t.ply.sent.map (·.frame) = some (wireFrame s (nextFrame s)) ∧
        ∀ i, i < 8 → (chan t (1088 + i)).label = nextFrame s ∧
          (chan t (1088 + i)).raw.head? = some (rawOf (loc.map (·.2)) i (nth 0 (loc.map (·.1)) i))) ∧
    (∀ (p : Nat) (b : Bytes), bare s = true → s.clk.log = [] → s.ply.started = true → s.ply.trained = true → s.ply.whole = false →
      s.ply.base ≤ s.ply.frame → p < 64 → sectionGood b = true → bit (fld b 60 1) 2 = false →
      (∀ c ∈ headChans p, (chan s c).label < s.ply.frame) →
      ∃ t, exec (.ringFrameReceived 0 s.ply.frame false [(p, b)]) s = .next t ∧ t.ply.lastA = some s.ply.frame ∧
        (head t p).state = .repeater ∧ (head t p).live.seenA = some s.ply.frame ∧ ∀ c ∈ headChans p, (chan t c).label = s.ply.frame) ∧
    (∀ (p mseq : Nat) (m : DownMsg), calm s = true → (head s p).unacked.find? (fun x => x.mseq == mseq) = some m →
      m.frame + 64 ≤ s.ply.frame → m.repeats < 8 →
      exec (.messageRepeatExpire p mseq) s = .next { s with ply := { s.ply with
        heads := tput s.ply.heads p { head s p with unacked := (head s p).unacked.filter (fun x => x.mseq != mseq) }
        queue := s.ply.queue ++ [{ m with repeats := m.repeats + 1 }] } }) ∧
    (∀ (p code : Nat) (r : Nat × Nat), calm s = true → (dom s 2).state = .idle → (head s p).reports.find? (fun x => x.1 == code) = some r →
      r.2 ≤ s.ply.frame →
      ∃ t, exec (.reportTimeout p code) s = .next t ∧ Told { s with ply := { s.ply with
        heads := tput s.ply.heads p { head s p with reports := (head s p).reports.filter (fun x => x.1 != code) } } } t) ∧
    (∀ (p w : Nat) (rx : WinRx), calm s = true → (dom s 2).state = .idle → (dom s 1).state = .idle → p < 64 → s.flt.chans = [] →
      s.pqe.sense = [] → s.ev.early = [] → (head s p).state = .repeater → tfind (head s p).win w = some rx → thas (head s p).verdicts w = false →
      s.ply.started = true → 256 * w + 512 ≤ s.ply.frame →
      ∃ t, exec (.verdictDeadline p w) s = .next t ∧
        tfind (head t p).verdicts w = some (verdictOf p rx (tfind (head s p).win (w + 1))) ∧ thas (head t p).win w = false) ∧
    (∀ (o : MpOut) (f : Nat), calm s = true → s.ply.started = true → f ≤ s.ply.frame → mpAbsent s 256 = false → (mpOf s 256).queue = [o] →
      o.last + 512 ≤ f → o.k ≠ 127 → (∀ c, (mpOf s 256).cur = some c → c.cycle = o.cycle) →
      (∀ p, p < 4 → fld (pinOf s p).cfg 0 2 ≠ 256) →
      ∃ t, exec (.releaseInstant 256 f) s = .next t ∧ (mpOf t 256).queue = [] ∧
        (if outBad s o || decide ((mpOf s 256).sinceBad < 127)
          then (mpOf t 256).run.isSome = true ∧ (mpOf t 256).acc = (mpOf s 256).acc
          else (mpOf t 256).run = none ∧ ∃ units : List Nat, (mpOf t 256).acc = addList (mpOf s 256).acc units ∧
            (mpOf t 256).uncommitted = addList (mpOf s 256).uncommitted units))

/-- A cycle boundary moves the clock, takes the next number, is logged and is anchored. Rests on R31, R36, R39, R43, R46, R617. -/
def Obligations.ABoundaryNumbersTheCycle : Prop :=
  ∀ (s : State) (o : BoundaryObs),
    (calm s = true → s.clk.numbering = false ∨ s.lgl.halt = true →
      ∃ t, exec (.cycleBoundary o) s = .next t ∧ Told { s with clk := (moveClock (track s o).1 o).clk } t ∧
        t.clk.state = nextClock (track s o).1 o ∧ t.clk.cycle = s.clk.cycle) ∧
    (∀ c : Nat, bare s = true → s.clk.numbering = true → s.clk.cycle = some c → s.pwr.serviceDown = true → s.ril.member = false →
      s.ril.joined = false → s.ril.steps = [] → s.lgl.pending = none → s.bkd.breakLatch = none → s.cis.ladNext = [] → s.cis.ladFirst = [] →
      s.met.recon = [] → (c + 1) % 1048576 ≠ 0 → (∀ k, k < 8 → sectionField s k 0 2 = 0xFFFF) →
      ∃ t, exec (.cycleBoundary o) s = .next t ∧ t.clk.cycle = some (c + 1) ∧ t.clk.tick = s.bkd.tick ∧ t.clk.frame = s.ply.frame ∧
        t.clk.state = nextClock (track s o).1 o ∧ t.clk.log.head?.map (fun e => (e.cycle, e.ticks)) = some (c + 1, s.bkd.tick) ∧
        (if s.bkd.ret.nextB then t.bkd.ret.anchorB else t.bkd.ret.anchorA).cycle = c + 1 ∧
        (if s.bkd.ret.nextB then t.bkd.ret.anchorB else t.bkd.ret.anchorA).ticks = s.bkd.tick ∧
        (if s.bkd.ret.nextB then t.bkd.ret.anchorB else t.bkd.ret.anchorA).good = true)

/-- A sync is scheduled by its command or its pin, starts at its action frame, and falls back to the computed label. Rests on
R170, R171, R174, R114, R51. -/
def Obligations.SyncResetsRun : Prop :=
  ∀ (s : State),
    (∀ (d : Desc) (heads loc st q : Nat), canTake s d 0x0302 false = true → d.tenant = 0 → s.ril.master = false → s.ril.member = false →
      syncArg heads (bit loc 0) ≠ 0 → st ≠ 0 → cueCheck s cueSync st = none → syncConflict s st (syncArg heads (bit loc 0)) = false →
      cueRoom s 0 = none → pickCue s 0 = some q →
      ∃ t, exec (.syncReset d heads loc st) s = .next t ∧
        Told { s with clk := { s.clk with cues := tput s.clk.cues q ⟨st, cueSync, 0, .pending, syncArg heads (bit loc 0)⟩ } } t ∧
        answered s t d stOk 0 (le 7 st ++ le 2 q)) ∧
    (∀ (q c : Nat), calm s = true → bit (syncField s 0 1) 0 = true → s.flt.lastEdge = none → s.ril.member = false → s.ril.master = false →
      s.clk.cycle = some c → cueRoom s 0 = none → pickCue s 0 = some q →
      let st := mkStamp (c + syncField s 1 1 + 1) (syncField s 2 2)
      syncConflict s st (syncArg (2 ^ 64 - 1) true) = false →
      ∃ t, exec (.syncInEdge true) s = .next t ∧ Told { s with
        flt := { s.flt with lastEdge := some (nowStamp s) }
        clk := { s.clk with cues := tput s.clk.cues q ⟨st, cueSync, 0, .pending, syncArg (2 ^ 64 - 1) true⟩ } } t) ∧
    (∀ (q : Nat), calm s = true → (cue s q).state = .pending → (cue s q).kind = cueSync → s.clk.cycle.isSome = true → s.pwr.serviceDown = false →
      let fo := framePlace (stampFrames s (cue s q).stamp)
      s.ply.frame + 16 ≤ fo.1 → fo.1 ≤ s.ply.frame + 64 →
      ∃ t, exec (.decimSync q) s = .next t ∧ (cue t q).state = .armed ∧ fo ∈ t.ply.syncFrames ∧
        (bit (cue s q).arg 64 = true → ∀ c ∈ localChans, (chan t c).syncWait = some fo)) ∧
    (∀ (c f off : Nat), calm s = true → (chan s c).syncWait = some (f, off) → f + 64 ≤ s.ply.frame →
      exec (.syncSettleTimeout c) s = .next { s with flt := { s.flt with chans := tput s.flt.chans c { chan s c with
        syncWait := none, reset := some (resetLabel s c f off, true) } } })

/-- A due test pulse is emitted, ends at its width, and the junction's range is noted and logged. Rests on R195, R201, R202. -/
def Obligations.TestPulsesAndTemperature : Prop :=
  ∀ (s : State), calm s = true →
    (∀ p : Nat, p < s.met.pins.length → 0 < (pinOf s p).pending → (pinOf s p).high = false →
      (∀ r, (pinOf s p).rise = some r → r + 4 ≤ s.ply.frame) →
      ∃ t, exec (.cfSpacingExpire p) s = .next t ∧ t = { s with met := { s.met with pins := t.met.pins } } ∧ (pinOf t p).high = true ∧
        (pinOf t p).rise = some s.ply.frame ∧ (pinOf t p).pending + 1 = (pinOf s p).pending ∧ (pinOf t p).count = (pinOf s p).count + 1) ∧
    (∀ (p r : Nat), p < s.met.pins.length → (pinOf s p).pending = 0 → (pinOf s p).high = true → (pinOf s p).rise = some r →
      (pinOf s p).width ≤ (s.ply.frame - r) * 100 →
      exec (.cfWidthEnd p) s = .next { s with met := { s.met with pins := setNth s.met.pins p { pinOf s p with high := false } } }) ∧
    (∀ (outside : Bool) (temp : Int), s.met.tempExt ≠ outside → legalReadOnly s = false → s.lgl.roll.length + 1 < rollCapacity →
      ∃ t, exec (.junctionTempRange outside temp) s = .next t ∧ t.met = { s.met with tempExt := outside } ∧ t.lgl.seq = s.lgl.seq + 1 ∧
        t.lgl.roll.length = s.lgl.roll.length + 1 ∧ t.lgl.perm = s.lgl.perm)

/-- SEAL waits for the boundary, the seal pins are followed, and the display shows, rotates and holds its screens. Rests on R239,
R242, R243, R252, R253, R254. -/
def Obligations.TheSealAndItsDisplay : Prop :=
  ∀ (s : State),
    (∀ (d : Desc) (digest : Nat), canTake s d 0x0107 true = true → d.tenant = 0 → s.lgl.lockStrapped = true → s.lgl.brkOpen = false →
      s.bkd.breakLatch = none → s.lgl.state ≠ .sealed → calPending s = false → be 32 digest = calDigest s → 65 ≤ permFree s →
      ∃ t o, exec (.seal d digest) s = .next t ∧ o.desc = d ∧ o.opc = 0x0107 ∧ o.committed = true ∧
        Told { s with lgl := { s.lgl with pending := some digest }, cmd := { s.cmd with opens := s.cmd.opens ++ [o] } } t) ∧
    (∀ first : Nat, exec (.sealBrkOpen first true) s = .next { s with
      lgl := { s.lgl with brkOpen := true }, bkd := { s.bkd with breakLatch := s.bkd.breakLatch.or (some first) } }) ∧
    (∀ first : Nat, exec (.sealBrkOpen first false) s = .next { s with lgl := { s.lgl with brkOpen := false } }) ∧
    (∀ b : Bool, calm s = true →
      (s.lgl.state ≠ .sealed → exec (.sealLockChange b) s = .next { s with lgl := { s.lgl with lockStrapped := b } }) ∧
      (s.lgl.state = .sealed → s.lgl.lockStrapped ≠ b → ∃ t, exec (.sealLockChange b) s = .next t ∧ t.lgl.lockStrapped = b ∧
        (tget {} t.ev.tampers (tamperKey tamperDevice 2)).count = satAdd 32 (tget {} s.ev.tampers (tamperKey tamperDevice 2)).count 1)) ∧
    (calm s = true →
      (s.lgl.frameAt + 16384 ≤ s.bkd.tick → exec .ldspFrameTimer s = .next { s with lgl := { s.lgl with
        frame := ldspFrame s, ldspSeq := (s.lgl.ldspSeq + 1) % 256, frameAt := s.bkd.tick } }) ∧
      (s.lgl.holdUntil = none → s.lgl.screenAt + secs 5 ≤ s.bkd.tick → exec .ldspScreenTimer s = .next { s with lgl := { s.lgl with
        screen := nextScreen s, screenAt := s.bkd.tick } }) ∧
      (∀ ms, 50 ≤ ms → ms ≤ 1000 → exec (.ldspButton ms) s = .next { s with lgl := { s.lgl with
        screen := nextScreen s, screenAt := s.bkd.tick, holdUntil := some (s.bkd.tick + secs 60) } }) ∧
      (∀ ms, 2000 ≤ ms → 0x100 ≤ s.lgl.screen → exec (.ldspButton ms) s = .next { s with lgl := { s.lgl with
        screen := s.lgl.screen / 8 * 8 + (s.lgl.screen % 8 + 1) % 7, screenAt := s.bkd.tick, holdUntil := some (s.bkd.tick + secs 60) } }) ∧
      (∀ u, s.lgl.holdUntil = some u → u ≤ s.bkd.tick → exec .ldspHoldExpire s = .next { s with lgl := { s.lgl with
        holdUntil := none, screenAt := s.bkd.tick, screen := if s.lgl.screen < 0x100 then s.lgl.screen else s.lgl.screen / 8 * 8 } }))

/-- A capture is triggered by its command or its cue, completes when its cycles are there, and is read and released. Rests on
R218, R219, R516. -/
def Obligations.CapturesRun : Prop :=
  ∀ (s : State),
    (∀ (d : Desc) (k i : Nat), canTake s d 0x0305 false = true → d.tenant = 0 → k < 16 → capCh s k ≠ [] → bit (capTrig s k) 5 = true →
      (span 0 4).find? (fun j => (nth {} (capSet s k).slots j).state == .collecting) = none →
      (span 0 (capSlots s k)).find? (fun j => (nth {} (capSet s k).slots j).state == .free) = some i → i < (capSet s k).slots.length →
      ∃ t, exec (.captureNow d k) s = .next t ∧ (nth {} (capSet t k).slots i).state = .collecting ∧
        (nth {} (capSet t k).slots i).stamp = nowStamp s ∧ answered s t d stOk 0 []) ∧
    (∀ (q k i : Nat), calm s = true → cueDue s q cueCapture = true → (cue s q).arg = k → mkStamp (nowCycle s) 0 ≤ cueInstant (cue s q).stamp →
      capCh s k ≠ [] → bit (capTrig s k) 5 = true →
      (span 0 4).find? (fun j => (nth {} (capSet s k).slots j).state == .collecting) = none →
      (span 0 (capSlots s k)).find? (fun j => (nth {} (capSet s k).slots j).state == .free) = some i → i < (capSet s k).slots.length →
      ∃ t, exec (.capture q) s = .next t ∧ (cue t q).state = .done ∧ (nth {} (capSet t k).slots i).state = .collecting ∧
        (nth {} (capSet t k).slots i).stamp = cueInstant (cue s q).stamp) ∧
    (∀ (k i : Nat), calm s = true → capOverwrite s k = false → i < (capSet s k).slots.length →
      (nth {} (capSet s k).slots i).state = .collecting → (nth {} (capSet s k).slots i).stopped = false →
      ((nth {} (capSet s k).slots i).chs.all fun c => (nth {} (capSet s k).slots i).data.any fun x =>
        x.ch == c && x.cycle + 1 == (nth {} (capSet s k).slots i).stop && x.k == 127) = true →
      ∃ t, exec (.captureComplete k i) s = .next t ∧ (nth {} (capSet t k).slots i).state = .ready) ∧
    (∀ (d : Desc) (k i off f : Nat), canTake s d 0x0306 true = true → d.tenant = 0 → k < 16 → i < 4 → f < 2 → i < (capSet s k).slots.length →
      (nth {} (capSet s k).slots i).state = .ready → off ≤ (capBytes s k i).length →
      ∃ t, exec (.captureRead d k i off f) s = .next t ∧ .write 0 d.dptr (((capBytes s k i).drop off).take d.dlen) ∈ t.hif.out ∧
        (nth {} (capSet t k).slots i).state = if bit f 0 then .free else .ready)

/-- Spare tests queue, releases clear, mismatches and timeouts end a rotation, and the schedules advance. Rests on R213, R224,
R226, R228, R230, R516. -/
def Obligations.SparesRotate : Prop :=
  ∀ (s : State),
    (∀ (d : Desc) (hd ch : Nat), canTake s d 0x0303 false = true → d.tenant = 0 → (hd < 64 ∧ ch < 16) ∨ (hd = 0xFF ∧ ch < 7) →
      let x := spare s (spareArg hd)
      x.parked = none → x.faulty = false → x.phase = .idle → (x.queue.any fun r => r.ch == ch) = false → x.queue.length < 4 →
      ∃ t, exec (.spareTest d hd ch) s = .next t ∧
        Told { s with pqe := { s.pqe with spares := tput s.pqe.spares (spareArg hd) { x with queue := x.queue ++ [⟨ch, 1, false⟩] } } } t ∧
        answered s t d stOk 0 (le 1 (x.queue.length + 1))) ∧
    (∀ (d : Desc) (hd : Nat), canTake s d 0x0304 false = true → d.tenant = 0 → hd < 64 ∨ hd = 0xFF → (spare s (spareArg hd)).faulty = true →
      ∃ t, exec (.spareRelease d hd 0xFF) s = .next t ∧
        Told { s with pqe := { s.pqe with spares := tput s.pqe.spares (spareArg hd) { spare s (spareArg hd) with faulty := false, spareFails := 0 } } } t ∧
        answered s t d stOk 0 []) ∧
    (∀ p : Nat, calm s = true → (dom s 1).state = .idle → 8 ≤ (spare s p).mismatch → rotNeed s (spare s p).phase ≠ 0 →
      ∃ t, exec (.spareFlagsMismatch p) s = .next t ∧ (spare t p).mismatch = 0 ∧
        (spare t p).phase = if (spare s p).parked.isSome then .park else .idle) ∧
    (∀ (p m : Nat), calm s = true → (dom s 1).state = .idle → (spare s p).measure = some m → m + 16 ≤ nowCycle s →
      rotNeed s (spare s p).phase ≠ 0 →
      ∃ t, exec (.spareMeasurementTimeout p) s = .next t ∧ (spare t p).measure = none ∧
        (spare t p).phase = if (spare s p).parked.isSome then .park else .idle) ∧
    (∀ c : Nat, calm s = true → qualityField s 358 2 ≠ 0 → s.pqe.lastAuto + secs (qualityField s 358 2) ≤ s.bkd.tick →
      ((span 0 1096).map fun i => (s.pqe.autoNext + i) % 1096).find? (fun c => autoChannel s c && (spare s (spareSet c)).queue.isEmpty &&
        (spare s (spareSet c)).parked.isNone && !(spare s (spareSet c)).faulty) = some c →
      exec .rotationScheduleTick s = .next { s with pqe := { s.pqe with
        lastAuto := s.bkd.tick
        spares := tput s.pqe.spares (spareSet c) { spare s (spareSet c) with queue := [⟨c - setBase (spareSet c), 0, false⟩] }
        autoNext := (c + 1) % 1096 } }) ∧
    (calm s = true → s.pqe.freqStart = none →
      exec .frequencyIntervalEnd s = .next { s with pqe := { s.pqe with freqStart := some (nextInterval s) } }) ∧
    (∀ st, calm s = true → s.pqe.freqStart = some st → st + 327680 ≤ s.bkd.tick →
      ∃ t, exec .frequencyIntervalEnd s = .next t ∧ t.pqe.freqStart = some (st + 327680))

/-- SESSION_OPEN, SESSION_CLOSE and BILL_END record what they ask for behind a report cue. Rests on R268, R269, R270, R275, R518. -/
def Obligations.SessionsAndPeriodsAreAsked : Prop :=
  ∀ (s : State) (d : Desc) (st : Stamp), d.tenant = 0 → cueCheck s cueReport (stampOr s st) = none → cueRoom s 0 = none →
    (∀ m n f : Nat, canTake s d 0x0501 false = true → m < 256 → f ≤ 1 → mpAbsent s m = false → tenantDefined s n = true → mpTaken s m = false →
      s.tar.nextId ≤ 0xFFFFFFFE → s.tar.nextId + 1 < s.tar.blockEnd →
      ∃ t, exec (.sessionOpen d m n f st) s = .next t ∧
        Told (createCue (setSession { s with tar := { s.tar with nextId := s.tar.nextId + 1 } } s.tar.nextId
          { mp := m, tenant := n, start := Stamp.cycle (stampOr s st), nonPerishable := bit f 0 }) cueReport (stampOr s st) 0 0).1 t ∧
        answered s t d stOk 0 (le 4 s.tar.nextId ++ le 7 (stampOr s st))) ∧
    (∀ (id : Nat) (x : Session), canTake s d 0x0502 false = true → sessionById s id = some x → x.isOpen = true →
      ∃ t, exec (.sessionClose d id st) s = .next t ∧
        Told (createCue (setSession s id { x with
          closeAt := some (x.closeAt.elim (Stamp.cycle (stampOr s st)) fun c => min c.1 (Stamp.cycle (stampOr s st)), 0) })
          cueReport (stampOr s st) 0 0).1 t ∧
        answered s t d stOk 0 (le 7 (stampOr s st))) ∧
    (∀ n : Nat, canTake s d 0x0504 false = true → tenantDefined s n = true →
      ((bill s n).ends.all fun e => decide (e + 1 < Stamp.cycle (stampOr s st) ∨ Stamp.cycle (stampOr s st) + 1 < e)) = true →
      ∃ t, exec (.billEnd d n st) s = .next t ∧
        Told (createCue (setBill s n { bill s n with ends := (bill s n).ends ++ [Stamp.cycle (stampOr s st)] }) cueReport (stampOr s st) 0 0).1 t ∧
        answered s t d stOk 0 (le 7 (stampOr s st) ++
          le 4 ((bill s n).period + ((bill s n).ends.filter (fun e => decide (e < Stamp.cycle (stampOr s st)))).length)))

/-- A due tariff cue sets the rate, a due report cut closes, ends and opens, and a settled snapshot is archived. Rests on R257,
R261, R262, R268, R275, R276, R277. -/
def Obligations.TariffCuesRun : Prop :=
  ∀ (s : State), calm s = true →
    (∀ (q : Nat) (r : Rd), cueDue s q cueTariff = true → bit (cue s q).arg 14 = false → r = cfgRd s (slotKey ((cue s q).arg % 256) false) →
      slotPresent (cfgRd s (slotKey ((cue s q).arg % 256) true)) = false → slotPresent r = true →
      ∃ t, exec (.tariffSwitch q) s = .next t ∧ cuePending (cue t q) = false ∧
        (calState t ((cue s q).arg % 256)).rate = rateAt r (tariffLocal s (utcAt s ((cue s q).arg / 65536)))) ∧
    (∀ q : Nat, cueDue s q cueTariff = true → bit (cue s q).arg 14 = false → Mem.wf cfgDefault s.slu.force = true →
      slotPresent (cfgRd s (slotKey ((cue s q).arg % 256) true)) = true →
      (cfg s (slotKey ((cue s q).arg % 256) true) 8 8 : Int) ≤ utcAt s ((cue s q).arg / 65536) →
      ∃ t, exec (.tariffSwitch q) s = .next t ∧ cuePending (cue t q) = false ∧
        cfgBytes t (slotKey ((cue s q).arg % 256) false) 0 3536 = (cfgBytes s (slotKey ((cue s q).arg % 256) true) 0 3536).take 8 ++ zeros 8 ++
          (cfgBytes s (slotKey ((cue s q).arg % 256) true) 0 3536).drop 16 ∧
        cfgBytes t (slotKey ((cue s q).arg % 256) true) 0 3536 = zeros 3536) ∧
    (∀ q : Nat, cueDue s q cueReport = true →
      ∃ t, exec (.reportCut q) s = .next t ∧ (t.pwr.inReset = false →
        cuePending (cue t q) = false ∧
        (∀ n, n < 256 → ((bill s n).ends.any fun e => decide (e ≤ nowCycle s)) = true →
          (bill t n).period = (bill s n).period + 1 ∧ (bill t n).lastB = some (nowCycle s)) ∧
        (∀ id x, sessionById s id = some x → x.isOpen = true → x.closeAt.any (fun c => decide (c.1 ≤ nowCycle s)) = true →
          (sessionById t id).bind (·.closed) = some (nowCycle s)) ∧
        (∀ id x, sessionById s id = some x → x.opened = false → x.closed = none → x.start ≤ nowCycle s →
          (sessionById t id).map (fun y => (y.opened, y.start)) = some (true, nowCycle s)))) ∧
    (∀ (n : Nat) (p : Snap) (rest : List Snap), (bill s n).pend = p :: rest → allSettled s p.cycle = true →
      ∃ t, exec (.snapshotComplete n) s = .next t ∧
        Kept (setBill s n { bill s n with pend := rest, snaps := (p :: (bill s n).snaps).take 24 }) t)

/-- Registers, sessions and bills are read at DPTR, and a signed reading opens its signature. Rests on R187, R191, R324, R325,
R338, R342, R516, R517, R518. -/
def Obligations.TariffAndMeterReads : Prop :=
  ∀ (s : State) (d : Desc), d.tenant = 0 →
    (∀ m n w : Nat, canTake s d 0x0301 true = true → 1 ≤ n → m + n ≤ 257 → w < 2 →
      ((span m n).flatMap fun k => metRecord s k (w == 1)).length ≤ d.dlen →
      ∃ t, exec (.readRegisters d m n w) s = .next t ∧ .write 0 d.dptr ((span m n).flatMap fun k => metRecord s k (w == 1)) ∈ t.hif.out ∧
        answered s t d stOk ((span m n).flatMap fun k => metRecord s k (w == 1)).length [] ∧
        (∀ k ∈ span m n, mpOf t k = { mpOf s k with filled := false }) ∧ ∀ k, k ∉ span m n → mpOf t k = mpOf s k) ∧
    (∀ (n a k : Nat) (l : List (Nat × Session)), canTake s d 0x0503 true = true → 1 ≤ k → k ≤ 256 → n = 0xFF ∨ tenantDefined s n = true →
      l = ((sessions s).filter fun p => p.2.isOpen && decide (a ≤ p.1) && (n == 0xFF || p.2.tenant == n)) →
      ((l.take k).map fun p => sessionBytes s p.1 p.2).flatten.length ≤ d.dlen →
      ∃ t, exec (.sessionList d n a k) s = .next t ∧ Told s t ∧
        .write 0 d.dptr ((l.take k).map fun p => sessionBytes s p.1 p.2).flatten ∈ t.hif.out ∧
        answered s t d stOk ((l.take k).map fun p => sessionBytes s p.1 p.2).flatten.length (le 4 (((l.drop k).head?).elim 0 (·.1)))) ∧
    (∀ w n i k : Nat, canTake s d 0x0505 true = true → w ≤ 3 → 1 ≤ k → k ≤ 24 → tenantDefined s n = true →
      (w = 0 → ((bill s n).snaps.any fun p => p.period == i) = true) → (w = 2 → (sessionById s i).any Session.isOpen = true) → (w = 3 → i < 256) →
      (billOut s w n i k).length ≤ d.dlen →
      ∃ t, exec (.billRead d w n i k) s = .next t ∧ Told s t ∧ .write 0 d.dptr (billOut s w n i k) ∈ t.hif.out ∧
        answered s t d stOk (billOut s w n i k).length []) ∧
    (∀ (ks n f c : Nat) (b : Bytes) (items : List Bytes), canTake s d 0x0401 true = true → signRoom s 0 = true → ks ≤ 2 → (ks = 2 → s.ril.master = true) →
      1 ≤ n → n ≤ 16 → f < 2 → 8 * n ≤ b.length → 1024 ≤ d.dlen → (dom s 5).state = .idle → s.ril.aggs = [] →
      (s.cmd.opens.all fun o => o.opc != 0x0401 || o.token != s.cus.nextToken) = true →
      ((requestsOf b n).all fun r => reqWell r && reqFound s r && reqT r != 8) = true →
      items = blobItems s (settledBoundary s) f c (requestsOf b n) (fun _ => []) → 96 + items.flatten.length ≤ 1024 →
      slotReady s (blobSlot 0 ks) = true → (keyCtr s (blobSlot 0 ks)).next < 0xFFFFFFFF →
      (keyCtr s (blobSlot 0 ks)).next < ctrTop s (blobSlot 0 ks) →
      ∃ t o, exec (.readSigned d ks n f c b) s = .next t ∧ t.cus.ops = s.cus.ops ++ [o] ∧ o.opened = true ∧ o.slot = blobSlot 0 ks ∧
        o.ctr = (keyCtr s (blobSlot 0 ks)).next ∧ (keyCtr t (blobSlot 0 ks)).next = (keyCtr s (blobSlot 0 ks)).next + 1 ∧
        o.body = blobHeader (flag (legalValid s) 0) (96 + items.flatten.length) o.slot o.ctr o.kgen 0 items.length ++ items.flatten)

/-- A token that decodes is credited once and its ID is taken, from a command or from the keypad; any other leaves the account as
it was. Rests on R279, R281, R285, R286, R287, R289, R292, R519. -/
def Obligations.TokensAreChecked : Prop :=
  ∀ (s : State) (n : Nat), s.cis.readOnly.contains 2 = false → prepaid s n = true →
    (∀ (d : Desc) (b : Bytes), canTake s d 0x0601 false = true → d.tenant = 0 ∨ d.tenant = n → tenantDefined s n = true →
      tget 0 s.crd.funcLock d.tenant ≤ s.bkd.tick →
      if b.length = 20 ∧ (b.all fun c => decide (48 ≤ c.toNat ∧ c.toNat ≤ 57)) = true then
        let r := decodeToken (refreshWindow s n) n (b.map fun c => c.toNat - 48)
        let x := account (refreshWindow s n) n
        ∃ t, exec (.tokenSubmit d n b) s = .next t ∧
          if r.1 = 0 then account t n = { idTake x (tokId (r.2.getD 0)) with
              due := x.due + (tokCredit (r.2.getD 0) : Nat), ecDue := x.ecDue || tokClass (r.2.getD 0) == 1 } ∧
            answered s t d stOk 0 (le 2 (tokId (r.2.getD 0)) ++ le 1 (tokClass (r.2.getD 0)) ++ le 1 (tokSub (r.2.getD 0)) ++ zeros 4 ++
              le 8 (tokCredit (r.2.getD 0)))
          else account t n = x ∧ answered s t d r.1 0 []
      else ∃ t, exec (.tokenSubmit d n b) s = .next t ∧ account t n = account s n ∧ answered s t d stTokenFormat 0 []) ∧
    (calm s = true → s.crd.lockDue = false →
      exec (.keypadKey 14) s = .next (setKeypad s {}) ∧
      (s.crd.keypad.phase = 0 ∨ s.crd.keypad.phase = 4 →
        exec (.keypadKey 10) s = .next (setKeypad s { phase := 1 }) ∧ exec (.keypadKey 11) s = .next (setKeypad s { phase := 3 })) ∧
      (∀ k, k < 10 → s.crd.keypad.phase = 1 ∨ s.crd.keypad.phase = 3 → s.crd.keypad.mp.length < 3 →
        exec (.keypadKey k) s = .next (setKeypad s { s.crd.keypad with mp := s.crd.keypad.mp ++ [k] })) ∧
      (∀ k, k < 10 → s.crd.keypad.phase = 2 → s.crd.keypad.digits.length < 20 →
        exec (.keypadKey k) s = .next (setKeypad s { s.crd.keypad with digits := s.crd.keypad.digits ++ [k] })) ∧
      (keypadLocked s = false → s.crd.keypad.mp ≠ [] → digitsVal s.crd.keypad.mp ≤ 255 → mpAbsent s (digitsVal s.crd.keypad.mp) = false →
        mpTenant s (digitsVal s.crd.keypad.mp) = n →
        (s.crd.keypad.phase = 1 → exec (.keypadKey 15) s = .next (setKeypad s { s.crd.keypad with phase := 2 })) ∧
        (s.crd.keypad.phase = 2 → s.crd.keypad.digits.length = 20 →
          let r := decodeToken (refreshWindow s n) n s.crd.keypad.digits
          let x := account (refreshWindow s n) n
          ∃ t, exec (.keypadKey 15) s = .next t ∧ t.crd.keypad = { last := s.bkd.tick } ∧
            account t n = if r.1 = 0 then { idTake x (tokId (r.2.getD 0)) with
              due := x.due + (tokCredit (r.2.getD 0) : Nat), ecDue := x.ecDue || tokClass (r.2.getD 0) == 1 } else x) ∧
        (s.crd.keypad.phase = 3 → ecRefusal s n = none →
          ∃ t, exec (.keypadKey 15) s = .next t ∧ t.crd.keypad = { last := s.bkd.tick } ∧
            account t n = { account s n with ec := true, ecUsed := true, ecDue := false, state := 2 })))

/-- Emergency credit is granted, accounts are read, the keypad unlocks, forgets old rejections and drops an idle entry. Rests on
R279, R288, R292, R519. -/
def Obligations.AccountsAndLockouts : Prop :=
  ∀ (s : State),
    (∀ (d : Desc) (n : Nat), canTake s d 0x0602 false = true → d.tenant = 0 ∨ d.tenant = n → tenantDefined s n = true → ecRefusal s n = none →
      ∃ t, exec (.ecGrant d n) s = .next t ∧
        Told (setAccount s n { account s n with ec := true, ecUsed := true, ecDue := false, state := 2 }) t ∧ answered s t d stOk 0 []) ∧
    (∀ (d : Desc) (n : Nat), canTake s d 0x0606 true = true → d.tenant = 0 ∨ d.tenant = n → tenantDefined s n = true → 48 ≤ d.dlen →
      ∃ t, exec (.creditRead d n) s = .next t ∧ Told s t ∧ .write d.tenant d.dptr (accountBytes s n) ∈ t.hif.out ∧
        (accountBytes s n).length = 48 ∧ answered s t d stOk 48 []) ∧
    (∀ d : Desc, canTake s d 0x0605 false = true → d.tenant = 0 → s.bkd.ret.lockUntil ≠ 0 →
      ∃ t, exec (.keypadUnlock d) s = .next t ∧
        Told { setLock s 0 s.bkd.ret.bad with crd := { s.crd with lockSaid := false } } t ∧ answered s t d stOk 0 []) ∧
    (calm s = true → s.bkd.ret.lockUntil ≠ 0 → s.bkd.ret.lockUntil ≤ nowSec s →
      ∃ t, exec .keypadLockEnd s = .next t ∧ Told { setLock s 0 s.bkd.ret.bad with crd := { s.crd with lockSaid := false } } t) ∧
    (calm s = true → exec .keypadBadExpire s = .next (setLock s s.bkd.ret.lockUntil (freshBad s))) ∧
    (calm s = true → s.crd.keypad.phase ≠ 0 → s.crd.keypad.last + secs 30 ≤ s.bkd.tick →
      ∃ t, exec .keypadEntryTimeout s = .next t ∧ t.crd = { s.crd with keypad := { last := s.bkd.tick } })

/-- Consent is given and revoked, RELAY_SET creates or takes over a switching, and relays are read. Rests on R294, R295, R296,
R297, R298, R519, R520. -/
def Obligations.SwitchingIsAsked : Prop :=
  ∀ (s : State) (d : Desc), d.tenant = 0 →
    (∀ (id : Nat) (x : Session), sessionById s id = some x → x.isOpen = true →
      (canTake s d 0x0603 false = true → ∃ t, exec (.consentDisconnect d id) s = .next t ∧
        sessionById t id = some { x with consent := true } ∧ answered s t d stOk 0 []) ∧
      (canTake s d 0x0604 false = true → ∃ t, exec (.consentRevoke d id) s = .next t ∧
        sessionById t id = some { x with consent := false } ∧ answered s t d stOk 0 [] ∧
        (x.nonPerishable = false → (seqOf s x.mp).any (fun q => q.credit && !q.operator) = true → seqOf t x.mp = none))) ∧
    (∀ (m i : Nat) (st sw : Stamp) (u : State), canTake s d 0x0701 false = true → m < 256 → mpAbsent s m = false →
      (st ≠ 0 → cueCheck s cueRelay st = none) →
      ((if st = 0 then startClose s m 1 else placeSwitch 1 s m 1 st 1 false) = .ok (u, i, sw) →
        ∃ t, exec (.relaySet d m 1 st) s = .next t ∧ answered s t d stOk 0 (switchResult sw i) ∧
          (∀ p, openSession s m = some p → exhausted s p.2.tenant = true → (sessionById t p.1).map (·.overridden) = some true) ∧
          ((∀ p, openSession s m = some p → exhausted s p.2.tenant = false) → cue t i = ⟨sw, cueRelay, 0, .pending, relayArg m 1⟩)) ∧
      (seqOf s m = none → startOpen s m true false st = .ok (u, i, sw) →
        ∃ t q, exec (.relaySet d m 2 st) s = .next t ∧ answered s t d stOk 0 (switchResult sw i) ∧
          seqOf t m = some q ∧ q.operator = true ∧ q.credit = false ∧ q.phase = .cued ∧ q.switch = sw ∧ q.cue = i) ∧
      (∀ q, seqOf s m = some q → q.phase ≠ .held →
        ∃ t, exec (.relaySet d m 2 st) s = .next t ∧ Told (setSeq s m (some { q with operator := true })) t ∧
          answered s t d stOk 0 (switchResult q.switch q.cue))) ∧
    (∀ m n : Nat, canTake s d 0x0702 true = true → 1 ≤ n → m + n ≤ 256 → 24 * n ≤ d.dlen →
      ∃ t, exec (.relayRead d m n) s = .next t ∧ Told s t ∧ .write 0 d.dptr ((span m n).flatMap (relayEntry s)) ∈ t.hif.out ∧
        ((span m n).flatMap (relayEntry s)).length = 24 * n ∧ answered s t d stOk (24 * n) [])

/-- Switching cues end at their stamp, arms are accepted, refused and done, and relay states follow limit and feedback. Rests on
R51, R54, R56, R57, R117, R300, R448. -/
def Obligations.RelaysMove : Prop :=
  ∀ (s : State), calm s = true →
    (∀ q : Nat, cueDue s q cueRelay = true → ∃ t, exec (.relaySwitch q) s = .next t ∧ cuePending (cue t q) = false ∧
      ((seqOf s ((cue s q).arg % 65536)).any (fun x => x.cue == q) = true → seqOf t ((cue s q).arg % 65536) = none)) ∧
    (∀ (q : Nat) (a : Arm), cueDue s q cueRelay = false → armOf s q = some a → (cue s q).kind = cueRelay → cuePending (cue s q) = true →
      a.state = .reserved → a.send = nextFrame s → (head s a.head).state = .active → seqOf s a.mp = none →
      exec (.relaySwitch q) s = .next (setCue s q { cue s q with state := .armed })) ∧
    (∀ (m : Nat) (q : RelSeq), seqOf s m = some q → q.phase ≠ .held → q.switch ≤ nowStamp s → s.clk.cycle.isSome = true →
      ∃ t, exec (.warnPlayEnd m) s = .next t ∧ seqOf t m = none ∧ m ∉ warned t 0 ∧ m ∉ warned t 1) ∧
    (∀ m : Nat, (relay s m).limit ≤ s.bkd.tick →
      ((relay s m).state = .closing → ∃ t, exec (.relayLimitExpire m) s = .next t ∧ (relay t m).state = .faultNoclose) ∧
      ((relay s m).state = .opening → ∃ t, exec (.relayLimitExpire m) s = .next t ∧ (relay t m).state = .faultWelded)) ∧
    (∀ (m u n : Nat) (st : RelayState), persistOf s m = some (st, n) → (relay s m).since = some u → u + n ≤ s.bkd.tick →
      ∃ t, exec (.relayFeedbackPersist m) s = .next t ∧ (relay t m).state = st) ∧
    (∀ (p : Nat) (b m : Bytes) (a : Arm), arrives s p 0x85 b = true → m = boxWhole s p b → m.length = 12 → armById s p (fld m 0 4) = some a →
      a.state = .sent → s.ply.frame < a.act →
      (fld m 4 1 = 0 → ∃ t, exec (.armAck p b) s = .next t ∧ acked t p b ∧
        t.ply.arms = s.ply.arms.map fun x => if x.id = a.id ∧ x.head = a.head then { a with state := .accepted } else x) ∧
      (fld m 4 1 ≠ 0 → ∃ t, exec (.armAck p b) s = .next t ∧ acked t p b ∧ t.ply.arms = s.ply.arms.erase a ∧ cuePending (cue t a.cue) = false)) ∧
    (∀ (p : Nat) (b m : Bytes) (a : Arm), arrives s p 0x86 b = true → m = boxWhole s p b → m.length = 12 → armById s p (fld m 0 4) = some a →
      (fld m 4 1 = 0 → ∃ t, exec (.armResult p b) s = .next t ∧ acked t p b ∧ t.ply.arms = s.ply.arms.erase a ∧ cuePending (cue t a.cue) = false) ∧
      (fld m 4 1 = 1 → ∃ t, exec (.armResult p b) s = .next t ∧ acked t p b ∧ t.ply.arms = s.ply.arms.erase a ∧
        (relay t a.mp).byCredit = (a.cmd == 2 && a.cause == 0)))

/-- Notes, bindings and unbindings append one linked record to the chain, and a silent logger opens a gap. Rests on R303, R304,
R305, R309, R311, R317, R421, R521. -/
def Obligations.CustodyRecordsAreWritten : Prop :=
  ∀ (s : State) (id : Nat) (c : Chain), chainOf s id = some c → c.full = false → c.closed = false → c.count + 1 < 255 → c.seq + 1 < 2 ^ 48 - 2 →
    (sessionById s id).any Session.isOpen = true →
    (∀ (d : Desc) (b : Bytes), canTake s d 0x0803 false = true → d.tenant = 0 ∨ d.tenant = c.tenant →
      (c.notes.filter fun t => decide (s.bkd.tick < t + secs 60)).length < 16 →
      ∃ t e, exec (.custodySubmit d id b) s = .next t ∧ chainOf t id = some e ∧ e.seq = c.seq + 1 ∧
        e.last = recordBytes s c 8 3 d.tenant (pad 24 b) true ∧ answered s t d stOk 0 (le 6 c.seq)) ∧
    (∀ (d : Desc) (h : Nat) (l : Lease), canTake s d 0x0801 false = true → d.tenant = 0 ∨ d.tenant = c.tenant → tfind s.cmp.leases h = some l →
      (∀ p, c.binds.find? (fun p => p.2.short == h && l.eui == p.2.eui) = some p →
        ∃ t, exec (.custodyBind d id h) s = .next t ∧ Told s t ∧ answered s t d stOk 0 (le 1 p.1)) ∧
      (∀ i, c.binds.find? (fun p => p.2.short == h && l.eui == p.2.eui) = none → (span 0 4).find? (fun k => !thas c.binds k) = some i →
        c.binds.length < 4 → (keySlot s l.slot).owner = 0 ∨ (keySlot s l.slot).owner = c.tenant →
        ∃ t e, exec (.custodyBind d id h) s = .next t ∧ chainOf t id = some e ∧ e.seq = c.seq + 1 ∧
          tfind e.binds i = some { short := h, eui := l.eui, evid := s.bkd.tick, heard := s.bkd.tick } ∧
          e.last = recordBytes s c 5 (1 + 16 * i) h (le 1 0 ++ zeros 1 ++ le 2 h ++ le 8 l.eui) false ∧ answered s t d stOk 0 (le 1 i))) ∧
    (∀ (d : Desc) (i : Nat) (b : Binding), canTake s d 0x0802 false = true → d.tenant = 0 ∨ d.tenant = c.tenant → i < 4 → tfind c.binds i = some b →
      ∃ t e, exec (.custodyUnbind d id i) s = .next t ∧ chainOf t id = some e ∧ e.seq = c.seq + 1 ∧ tfind e.binds i = none ∧
        e.last = recordBytes s c 5 (1 + 16 * i) b.short (le 1 1 ++ zeros 1 ++ le 2 b.short ++ le 8 b.eui) false ∧ answered s t d stOk 0 []) ∧
    (∀ (i : Nat) (b : Binding), calm s = true → tfind c.binds i = some b → gapOpen c 1 i = false → gapOpen c 2 i = false →
      b.heard + secs (custodyField s c.mp 6 2) ≤ s.bkd.tick →
      ∃ t e, exec (.loggerSilentExpire id i) s = .next t ∧ t = { s with cus := t.cus } ∧ chainOf t id = some e ∧
        e.gaps = c.gaps ++ [{ cause := 1, bind := i, start := stampOfTick s b.evid, startTicks := b.evid }])

/-- A key is generated, imported or erased by programming the next generation of its slot, which stands once it is read back.
Rests on R332, R333, R334, R335, R341, R522. -/
def Obligations.KeySlotsAreWritten : Prop :=
  ∀ (s : State) (d : Desc) (k : Nat), s.key.writes = [] → keysWritable s = true → d.tenant = 0 → fixedSlot k = false → k < 512 → nextGen s k ≤ 65535 →
    (canTake s d 0x0901 true = true → signKind k = true → drbgUp s = true → 160 ≤ d.dlen →
      ∃ t w, exec (.keyGenerate d k) s = .next t ∧ t.key.writes = [w] ∧ t.key.slots = s.key.slots ∧ w.slot = k ∧ w.started = true ∧
        w.record.valid = true ∧ w.record.origin = 1 ∧ w.record.kgen = (keySlot s k).kgen + 1 ∧ w.record.mat = Config.freeValue s.free) ∧
    (∀ b : Bytes, canTake s d 0x0902 true = true → 128 ≤ b.length → fld b 0 2 = 0x4B49 → fld b 2 2 = k → slotKind k = some (fld b 6 1) →
      (importLen (fld b 6 1)).isSome = true → (fld b 6 1 = 8 ∨ fld b 6 1 = 9 → tenantDefined s (fld b 7 1) = true) →
      (fld b 6 1 = 8 → ∀ x, tokenSlot s (fld b 7 1) = some x → x = k) →
      if fld b 8 8 = Config.deviceId ∧ fld b 4 2 = nextGen s k ∧ fld b 16 1 = (importLen (fld b 6 1)).getD 0 ∧
          b.length = 128 + (importLen (fld b 6 1)).getD 0 ∧ (blobMaterial b (fld b 6 1) ((importLen (fld b 6 1)).getD 0)).isSome = true
      then ∃ t w, exec (.keyImport d b) s = .next t ∧ t.key.writes = [w] ∧ t.key.slots = s.key.slots ∧ w.slot = k ∧ w.started = true ∧
        w.record.valid = true ∧ w.record.origin = 2 ∧ w.record.kgen = (keySlot s k).kgen + 1 ∧
        some w.record.mat = blobMaterial b (fld b 6 1) ((importLen (fld b 6 1)).getD 0)
      else ∃ t, exec (.keyImport d b) s = .next t ∧ Told s t ∧ answered s t d stKeyWrap 0 []) ∧
    (canTake s d 0x0903 false = true → (slotKind k).isSome = true → slotKind k ≠ some 7 → (keySlot s k).valid = true → s.cus.ops = [] →
      ∃ t w, exec (.keyErase d k) s = .next t ∧ t.key.writes = [w] ∧ t.key.slots = s.key.slots ∧ w.slot = k ∧ w.started = true ∧
        w.record.valid = false ∧ w.record.kgen = (keySlot s k).kgen + 1) ∧
    (∀ w : KeyWrite, w.slot = k → calm s = true → w.started = true → (w.opc = 0x0901 → drbgUp s = true) → ∃ t, exec .keyRecordReadback { s with key := { s.key with writes := [w] } } = .next t ∧
      t.key.writes = [] ∧ keySlot t k = w.record ∧ (t.cmd.opens.all fun o => o.opc != w.opc || o.token != w.token) = true)

/-- An attestation waits for its signature, a signature ends the oldest open operation, and the random source reseeds, fails and
is tried again. Rests on R315, R329, R330, R337, R340, R522. -/
def Obligations.SignaturesAndRandomness : Prop :=
  ∀ (s : State),
    (∀ (d : Desc) (k : Nat), canTake s d 0x0904 true = true → signRoom s d.tenant = true → mayAttest s d.tenant k = true → k < 512 →
      p256Slot k = true → slotReady s k = true → 160 ≤ d.dlen →
      ∃ t o, exec (.keyAttest d k) s = .next t ∧ t.cus.ops = s.cus.ops ++ [o] ∧ o.opened = true ∧ o.purpose = 3 ∧ o.mat = Config.deviceKey ∧
        o.body = attestHead s k) ∧
    (∀ op : SignOp, calm s = true → drbgUp s = true → s.cus.ops.find? (·.opened) = some op →
      (op.purpose = 0 → tailRoom s 2 = true →
        ∃ t, exec .signatureComplete s = .next t ∧ t.cus.ops = s.cus.ops.erase op ∧
          (t.cis.tail.any fun i => i.kind == 2 && i.body == op.body ++ signBytes op.mat op.body (Config.freeValue s.free)) = true) ∧
      (∀ o : OpenCmd, op.purpose = 3 → waitingCmds s 0x0904 op.token = [o] → live s o.desc.tenant = true →
        ∃ t, exec .signatureComplete s = .next t ∧ t.cus.ops = s.cus.ops.erase op ∧
          .write o.desc.tenant o.desc.dptr (op.body ++ signBytes op.mat op.body (Config.freeValue s.free)) ∈ t.hif.out)) ∧
    (calm s = true → reseedDue s = true →
      exec .drbgReseed s = .next { s with key := { s.key with requests := 0, seeded := s.bkd.tick } }) ∧
    (calm s = true → (dom s 5).state = .idle →
      ∃ t, exec .entropyTestFail s = .next t ∧ Told { s with key := { s.key with drbg := false, retryAt := s.bkd.tick + 32768 } } t) ∧
    (calm s = true → s.key.drbg = false → s.key.retryAt ≤ s.bkd.tick →
      (∃ t, exec (.drbgRetry true) s = .next t ∧ t.key.drbg = true ∧ t.key.seeded = s.bkd.tick) ∧
      ((dom s 5).state = .idle →
        ∃ t, exec (.drbgRetry false) s = .next t ∧ Told { s with key := { s.key with retryAt := s.bkd.tick + 32768 } } t))

/-- Programs archive the tail, erases free a block, increments move a ladder by one, patrol notes damage, and a failure retires a
block. Rests on R359, R364, R368, R369, R376, R378, R380. -/
def Obligations.FlashOperationsComplete : Prop :=
  ∀ (s : State), calm s = true →
    (∀ (b : Nat) (it : Item) (rest : List Item), (blockOf s b).part = 3 → s.cis.tail = it :: rest → s.cis.readOnly.contains 3 = false →
      (s.cis.prog + 1 < it.units → exec (.flashProgramComplete b true) s = .next { s with cis := { s.cis with prog := s.cis.prog + 1 } }) ∧
      (it.units ≤ s.cis.prog + 1 → s.cis.waiting = [] → s.cis.segs.getLast?.any (fun g => decide (g.2.2 + it.units ≤ 765)) = true →
        ∃ t, exec (.flashProgramComplete b true) s = .next t ∧ t = { s with cis := { s.cis with
          tail := rest, prog := 0, log := s.cis.log ++ [it], segs := t.cis.segs } } ∧
          t.cis.segs.getLast?.map (·.2.2) = s.cis.segs.getLast?.map (fun g => g.2.2 + it.units))) ∧
    (∀ b : Nat, b < 976 → (blockOf s b).part ≠ 3 → ∃ t, exec (.flashProgramComplete b false) s = .next t ∧ (blockOf t b).state = .retired) ∧
    (∀ (b : Nat) (e : Nat × Nat × Nat), s.cis.erases.find? (fun e => e.1 % 4 == b % 4) = some e → e.1 = b →
      (∃ t, exec (.blockEraseComplete b true) s = .next t ∧ t = { s with cis := t.cis } ∧
        blockOf t b = ⟨e.2.1, e.2.2, (blockOf s b).count + 1, .free, false, true, s.bkd.tick⟩ ∧ t.cis.erases = s.cis.erases.erase e) ∧
      (b < 976 → ∃ t, exec (.blockEraseComplete b false) s = .next t ∧ (blockOf t b).state = .retired)) ∧
    (∀ (k : Nat) (rest : List Nat), s.cis.incs = k :: rest → s.cis.readOnly.contains (k / 65536) = false →
      (ladder s k).parked = false → (ladder s k).f + 1 < 1920 →
      tget 0 s.cis.ladNext (k / 65536) / 4080 + 1 < tget 0 s.cis.ladFirst (k / 65536) + ladPairs (k / 65536) →
      ∃ t, exec (.ladderIncrementComplete 0) s = .next t ∧ ladderValue t k = ladderValue s k + 1) ∧
    (∀ a i : Nat, exec (.patrolRead a i 0) s = .next s) ∧
    (∀ a i : Nat, a ≠ 11 → ∃ t, exec (.patrolRead a i 1) s = .next t ∧ Kept s t) ∧
    (∀ i : Nat, ∃ t, exec (.patrolRead 10 i 2) s = .next t ∧
      t.cis.log = s.cis.log.map fun x => if x.aseq = i then { x with damaged := true } else x) ∧
    (∀ i : Nat, 65536 ≤ i → ∃ t, exec (.patrolRead 11 i 3) s = .next t ∧ ladder t i = { ladder s i with weak := (ladder s i).weak + 1 })

/-- The archive, the legal log and the tamper records are read. Rests on R250, R381, R403, R501, R523. -/
def Obligations.LogsAndArchiveAreRead : Prop :=
  ∀ (s : State) (d : Desc), d.tenant = 0 →
    (∀ first n k rg f ses : Nat, canTake s d 0x0A01 false = true → 1 ≤ n → n ≤ 4096 → f < 2 → k < 256 → rg < 64 →
      (ring s 0 rg).typ = .str → (ring s 0 rg).state = .active → (ring s 0 rg).page = none → s.cmd.opens = [] →
      (s.cis.log.all fun i => decide (i.aseq < first)) = true →
      ∃ t, exec (.archiveRead d first n k rg f ses) s = .next t ∧
        answered s t d (if first < lowestAseq s then stArchiveGone else stOk) 0
          (readResult s [first, n, k, rg, f, ses, 0, flag (decide (first < lowestAseq s)) 0, highestAseq s])) ∧
    (∀ (first k rg : Nat) (p : OpenPage) (it : Item), canTake s d 0x0A01 false = true → k < 256 → rg < 64 →
      (ring s 0 rg).typ = .str → (ring s 0 rg).state = .active → (ring s 0 rg).page = some p → p.closing = none → s.cmd.opens = [] →
      0 < ringFree (ring s 0 rg) → s.cis.log = [it] → it.damaged = false → first = it.aseq → k = 0 ∨ bit k it.kind = true →
      p.fill + recSize ⟨it.kind, 1, it.aseq, it.tenant, it.session, it.body⟩ ≤ 4096 →
      ∃ t, exec (.archiveRead d first 1 k rg 0 0) s = .next t ∧ (ring t 0 rg).page = none ∧
        .write 0 p.addr ((p.recs ++ [(⟨it.kind, 1, it.aseq, it.tenant, it.session, it.body⟩ : StreamRec)]).map recBytes).flatten ∈ t.hif.out ∧
        answered s t d stOk 0 (le 6 it.aseq ++ le 4 1 ++ le 6 it.aseq)) ∧
    (∀ (first n : Nat) (l : List Bytes), canTake s d 0x0A02 true = true → 1 ≤ n → n ≤ 4096 →
      l = ((logAll s).filter fun e => decide (first ≤ fld e 0 4)).take n →
      (l.flatten.length ≤ d.dlen → ∃ t, exec (.legalLogRead d first n 0) s = .next t ∧ Told s t ∧ .write 0 d.dptr l.flatten ∈ t.hif.out ∧
        answered s t d stOk l.flatten.length
          (le 4 ((l.head?).elim first fun e => fld e 0 4) ++ le 2 l.length ++ le 4 (((logAll s).head?).elim s.lgl.seq fun e => fld e 0 4))) ∧
      (l.flatten.length + 64 ≤ d.dlen → signRoom s 0 = true →
        ∃ t o, exec (.legalLogRead d first n 1) s = .next t ∧ t.cus.ops = s.cus.ops ++ [o] ∧ o.slot = 1 ∧ o.opened = true ∧ o.body = l.flatten ∧
          o.purpose = 2 ∧ o.mat = Config.sealKey)) ∧
    (∀ k m : Nat, canTake s d 0x0A03 true = true → k = 0 ∧ m < 256 ∨ k = 1 → (tamperPage s (if k = 1 then tamperDevice else m)).length ≤ d.dlen →
      ∃ t, exec (.tamperRead d k m) s = .next t ∧ Told s t ∧ .write 0 d.dptr (tamperPage s (if k = 1 then tamperDevice else m)) ∈ t.hif.out ∧
        answered s t d stOk (tamperPage s (if k = 1 then tamperDevice else m)).length [])

/-- Commands queue frames; a frame that may go starts, defers on a busy channel, expires or ends with its airtime booked; beacons
follow their interval. Rests on R347, R409, R411, R412, R413, R419, R427, R428, R429, R431, R433, R524. -/
def Obligations.TheRadioSends : Prop :=
  ∀ (s : State),
    (∀ (d : Desc) (a n : Nat) (l : List (Nat × Lease)), canTake s d 0x0B01 true = true → d.tenant = 0 → 1 ≤ n → n ≤ 4096 →
      l = (s.cmp.leases.filter fun p => decide (a ≤ p.1)) → ((l.take n).flatMap fun p => leaseEntry s p.1 p.2).length ≤ d.dlen →
      ∃ t, exec (.leaseList d a n) s = .next t ∧ Told s t ∧ .write 0 d.dptr ((l.take n).flatMap fun p => leaseEntry s p.1 p.2) ∈ t.hif.out ∧
        answered s t d stOk ((l.take n).flatMap fun p => leaseEntry s p.1 p.2).length (le 2 (((l.drop n).head?).elim 0 (·.1)))) ∧
    (∀ (d : Desc) (e h : Nat) (l : Lease), canTake s d 0x0B02 false = true → d.tenant = 0 → leaseOf s e = some (h, l) →
      ∃ t, exec (.cmpRevoke d e) s = .next t ∧ t.cmp.leases = tdel s.cmp.leases h ∧ answered s t d stOk 0 [] ∧
        t.cmp.queue.map (fun f => (f.typ, f.dst, f.sealSlot)) = s.cmp.queue.map (fun f => (f.typ, f.dst, f.sealSlot)) ++
          if s.cmp.mode = 1 ∧ slotReady s l.slot = true then [(7, h, some l.slot)] else []) ∧
    (∀ (d : Desc) (h k : Nat) (b : Bytes) (l : Lease), canTake s d 0x0B03 true = true → slotKind k = some 9 → (keySlot s k).valid = true →
      (keySlot s k).owner = d.tenant → 1 ≤ d.dlen → d.dlen ≤ 200 → d.dlen ≤ b.length → tfind s.cmp.leases h = some l → l.slot = k → s.cmp.mode = 1 →
      ∃ t f, exec (.cmpPush d h k b) s = .next t ∧ t.cmp.queue = s.cmp.queue ++ [f] ∧ f.typ = 6 ∧ f.dst = h ∧ f.payload = b.take d.dlen ∧
        f.id = s.cmp.nextId ∧ waitingCmds t 0x0B03 f.id ≠ []) ∧
    (∀ (d : Desc) (b : Bytes), canTake s d 0x0B04 true = true → d.tenant = 0 → 1 ≤ d.dlen → d.dlen ≤ 255 → d.dlen ≤ b.length → s.cmp.mode = 2 →
      ∃ t f, exec (.radioTx d b) s = .next t ∧ t.cmp.queue = s.cmp.queue ++ [f] ∧ f.raw = true ∧ f.payload = b.take d.dlen ∧
        f.id = s.cmp.nextId ∧ waitingCmds t 0x0B04 f.id ≠ []) ∧
    (∀ (i : Nat) (f : TxFrame), calm s = true → queued s i = some f → canSend s f = true →
      (∀ c : Instr, c = .txBackoffExpire i false ∨ (0 < f.deferrals ∧ c = .lbtDeferExpire i false) ∨
        (s.cmp.queue.head? = some f ∧ c = .bandSilenceEnd false) →
        (f.sealSlot = none → ∃ t, exec c s = .next t ∧ t.cmp.air = some (onAir s f (f.fc % 4294967296)) ∧
          t.cmp.queue = s.cmp.queue.filter fun x => x.id != f.id) ∧
        (∀ k, f.sealSlot = some k → slotReady s k = true → (keyCtr s (512 + k)).next < 0xFFFFFFFF → (keyCtr s (512 + k)).next < ctrTop s (512 + k) →
          ∃ t, exec c s = .next t ∧ t.cmp.air = some (onAir s f (keyCtr s (512 + k)).next) ∧
            (keyCtr t (512 + k)).next = (keyCtr s (512 + k)).next + 1)) ∧
      (bit (bandField s s.cmp.band 0 1) 1 = true → f.deferrals < 8 →
        exec (.txBackoffExpire i true) s = .next (putFrame s { f with deferrals := f.deferrals + 1 }))) ∧
    (∀ (i u : Nat) (f : TxFrame), calm s = true → queued s i = some f → f.refused = some u → u + secs 60 ≤ s.bkd.tick →
      ∃ t, exec (.generalFrameTimeout i) s = .next t ∧ t.cmp.queue = s.cmp.queue.filter fun x => x.id != f.id) ∧
    (∀ a : OnAir, calm s = true → s.cmp.air = some a →
      ∃ t, exec .transmissionEnd s = .next t ∧ t.cmp.air = none ∧
        t.cmp.silentTill = s.bkd.tick + (bandField s a.band 20 2 * 32768 + 999) / 1000 ∧
        nsum ((tget [] t.cmp.account a.band).map (·.2)) = nsum ((tget [] s.cmp.account a.band).map (·.2)) + a.air) ∧
    (calm s = true → s.cmp.mode = 1 → s.cmp.nextBeacon ≤ s.bkd.tick →
      (s.cmp.switch = none → s.cmp.hold.contains s.cmp.band = false → ∃ t, exec .beaconInterval s = .next t ∧ t = { s with cmp := t.cmp } ∧
        t.cmp.bseq = s.cmp.bseq + 1 ∧ t.cmp.nextBeacon = s.cmp.nextBeacon + secs (radioField s 4 1) ∧
        t.cmp.queue = s.cmp.queue ++ [{ beaconFrame { s with cmp := { s.cmp with bseq := s.cmp.bseq + 1 } } with id := s.cmp.nextId }]) ∧
      (∀ w, s.cmp.switch = some w → w.at_ ≤ s.cmp.bseq + 1 → ∃ t, exec .beaconInterval s = .next t ∧ t.cmp.bseq = s.cmp.bseq + 1 ∧
        t.cmp.switch = none ∧ (t.cmp.band, t.cmp.ch, t.cmp.rate) = objBand s)) ∧
    (∀ k : Nat, calm s = true → s.clk.cycle.isSome = true → (dom s 7).state = .idle →
      ∃ t, exec (.radioTxFault k) s = .next t ∧ Kept s t ∧ logged s t 0x70B (le 1 k))

/-- A join that opens gets a lease and an answer, data that opens raises the floor; other frames change neither; leases,
quarantines and accounts run out. Rests on R348, R408, R411, R412, R416, R417, R418, R433. -/
def Obligations.TheRadioReceives : Prop :=
  ∀ (s : State), calm s = true → s.pwr.serviceDown = false → s.cmp.air = none →
    (∀ (p : Bytes) (r : Int) (k h : Nat), s.cmp.mode = 1 → campion s p = true → s.cmp.seen = [] → fld p 5 2 = 0 → frameSlot s p = (k, none) →
      (fld p 0 1 % 16 = 1 → fcOk s (fld p 14 8) k (fld p 10 4) = true → bit (radioField s 6 1) 0 = true → s.cmp.leases.length < 4096 →
        freeShort s (fld p 14 8) (keySlot s k).owner = some h →
        ∃ t, exec (.joinReq p r) s = .next t ∧
          if (openFrame s p k (fld p 14 8) 8).isSome = true then
            tfind t.cmp.leases h = some ⟨fld p 14 8, k, (keySlot s k).owner, 1, s.bkd.tick + leaseTicks s⟩ ∧
              t.cmp.queue.map (fun f => (f.typ, f.eui)) = s.cmp.queue.map (fun f => (f.typ, f.eui)) ++ [(2, some (fld p 14 8))]
          else t.cmp.leases = s.cmp.leases ∧ t.cmp.queue = s.cmp.queue) ∧
      (∀ l, fld p 0 1 % 16 = 3 → tfind s.cmp.leases (fld p 3 2) = some l → fcOk s l.eui k (fld p 10 4) = true →
        ∃ t, exec (.data p r) s = .next t ∧
          if (openFrame s p k l.eui 0).isSome = true then (floorOf t l.eui k).map (·.fc) = some (fld p 10 4)
          else t.cmp.floors = s.cmp.floors ∧ t.cmp.leases = s.cmp.leases)) ∧
    (∀ (p : Bytes) (r : Int) (g : Bool), exec (.rawPpdu p r g false) s = .next { s with cmp := { s.cmp with badPhy := s.cmp.badPhy + 1 } } ∧
      (s.cmp.mode = 1 → bit (radioField s 6 1) 1 = false →
        exec (.rawPpdu p r false true) s = .next { s with cmp := { s.cmp with foreign := s.cmp.foreign + 1 } }) ∧
      (s.cmp.mode = 2 → 64 ≤ radioField s 12 1 → ∃ t, exec (.rawPpdu p r g true) s = .next t ∧ t.cmp.rawDrops = s.cmp.rawDrops + 1) ∧
      (∀ i f, s.cmp.mode = 2 → i = radioField s 12 1 → i < 64 → (ring s 0 i).typ = .raw → (ring s 0 i).state = .active → (ring s 0 i).dropping = none →
        (ring s 0 i).staged = [] → (ring s 0 i).page = none → (ring s 0 i).bufEmpty = true → ringUsed (ring s 0 (ring s 0 i).pair) = 0 →
        f = (⟨p, r, g, bit (bandField s s.cmp.band 0 1) 2, s.cmp.rate⟩ : RxFrame) →
        mayStage s 0 (recSize ⟨0x30, 0, 0, 0, 0xFFFFFFFF, rawRecord s f false⟩) = true →
        ∃ t, exec (.rawPpdu p r g true) s = .next t ∧ (ring t 0 i).staged = [⟨0x30, 0, 0, 0, 0xFFFFFFFF, rawRecord s f false⟩])) ∧
    (∀ (h : Nat) (l : Lease), tfind s.cmp.leases h = some l → l.till ≤ s.bkd.tick →
      (l.state = 1 → ∃ t, exec (.leaseExpire h) s = .next t ∧
        Told { s with cmp := { s.cmp with leases := tput s.cmp.leases h { l with state := 2, till := l.till + leaseTicks s } } } t) ∧
      (l.state = 2 → exec (.quarantineExpire h) s = .next { s with cmp := { s.cmp with leases := tdel s.cmp.leases h } })) ∧
    (∀ b : Nat, ∃ t, exec (.accountBucketExpire b) s = .next t ∧
      t.cmp.account = tput s.cmp.account b ((tget [] s.cmp.account b).filter fun p => decide (nowSec s < p.1 + 3600)) ∧
      t.cmp.hold = if s.cmp.hold.contains b = true ∧ account3 s b * 10 ≤ budget s b * 3000 * 9 then s.cmp.hold.filter (· != b) else s.cmp.hold)

/-- A play joins the stack, ends or loops with its clip, stops on command; tones and PCM start and end. Rests on R445, R446, R447,
R448, R449, R502, R525. -/
def Obligations.PlaysTonesAndAudio : Prop :=
  ∀ (s : State), calm s = true →
    (∀ (d : Desc) (a : Nat), canTake s d 0x0C01 false = true → d.tenant = 0 →
      playRefusal s (argChan a) (argClip a) = none → (annChan s (argChan a)).stack.length < 4 →
      ∃ t, exec (.annPlay d a) s = .next t ∧ answered s t d stOk 0 [] ∧
        ((annChan t (argChan a)).stack.any fun y => y.clip == argClip a && y.owners.contains ⟨0, argTag a, argLoop a⟩) = true) ∧
    (∀ (q a : Nat), cueDue s q cueAnn = true → (cue s q).arg = a → warnOfCue s q = none →
      playRefusal s (argChan a) (argClip a) = none → (annChan s (argChan a)).stack.length < 4 →
      ∃ t, exec (.annStart q) s = .next t ∧ cuePending (cue t q) = false ∧
        ((annChan t (argChan a)).stack.any fun y => y.clip == argClip a && y.owners.contains ⟨1, argTag a, argLoop a⟩) = true) ∧
    (∀ (q a m : Nat) (x : RelSeq), cueDue s q cueAnn = true → (cue s q).arg = a → warnOfCue s q = some m → seqOf s m = some x →
      playRefusal s (argChan a) (argClip a) = none → (annChan s (argChan a)).stack.length < 4 →
      ∃ t, exec (.annStart q) s = .next t ∧ cuePending (cue t q) = false ∧ seqOf t m = some { x with phase := .warning } ∧
        ((annChan t (argChan a)).stack.any fun y => y.clip == argClip a && y.owners.contains ⟨2 + m, argTag a, true⟩) = true) ∧
    (∀ (d : Desc) (c k : Nat), canTake s d 0x0C02 false = true → d.tenant = 0 → c < 2 → k < 64 ∨ k = 255 →
      ∃ t, exec (.annStop d c k) s = .next t ∧
        ((annChan t c).stack.all fun y => y.owners.all fun o => !((k == 255 || y.clip == k) && decide (o.src < 2))) = true ∧
        answered s t d stOk 0 (le 1 (nsum ((annChan s c).stack.map fun y =>
          (y.owners.filter (fun o => (k == 255 || y.clip == k) && decide (o.src < 2))).length)))) ∧
    (∀ (d : Desc) (g c f a u : Nat), canTake s d 0x0C03 false = true → d.tenant = 0 → g < 3 → c < 2 →
      (a = 255 → ∃ t, exec (.annTone d g c f a u) s = .next t ∧ answered s t d stOk 0 [] ∧
        tfind (annChan t 0).tones g = none ∧ tfind (annChan t 1).tones g = none) ∧
      (a ≠ 255 → 20 ≤ f → f ≤ 20000 → annAvailable s c = true → ∃ t, exec (.annTone d g c f a u) s = .next t ∧ answered s t d stOk 0 [] ∧
        tfind (annChan t c).tones g = some { freq := f, att := a, till := if u = 0 then none else some (soundFrom s c + msTicks u) } ∧
        tfind (annChan t (1 - c)).tones g = none)) ∧
    (∀ (c : Nat) (y : Sounding) (rest : List Sounding), (annChan s c).stack = y :: rest → y.started = true → y.held = none →
      y.since + clipTicks y.len ≤ s.bkd.tick →
      ∃ t, exec (.clipEnd c) s = .next t ∧
        ((annChan t c).stack.all fun z => z.clip != y.clip || z.owners.all fun o => o.loop && clipLen s y.clip != 0) = true ∧
        (clipLen s y.clip ≠ 0 → (y.owners.any fun o => o.loop) = true →
          (annChan t c).stack.head? = some { y with
            owners := y.owners.filter fun o => o.loop, since := y.since + clipTicks y.len, len := clipLen s y.clip })) ∧
    (∀ (g c u : Nat) (x : Tone), c < 2 → tfind (annChan s c).tones g = some x → x.till = some u → u ≤ s.bkd.tick →
      ∃ t, exec (.toneEnd g) s = .next t ∧ t = { s with ann := t.ann } ∧ tfind (annChan t c).tones g = none) ∧
    (∀ (i : Nat) (p : HostPost) (rest : List HostPost), audRing s = some i → (ring s 0 i).posts = p :: rest → audEntryOk s p = true →
      ∃ t, exec .audBufferRead s = .next t ∧ t.ann.pcm = true ∧ t.ann.pcmAt = s.bkd.tick ∧ t.ann.underrun = false ∧
        (ring t 0 i).head = ((ring s 0 i).head + 1) % ringSize (ring s 0 i) ∧ (ring t 0 i).posts = rest) ∧
    (∀ n : Nat, s.ann.pcm = true → s.ann.underrun = false → (dom s 11).state = .idle →
      ∃ t, exec (.pcmBufferEmpty n) s = .next t ∧ Told { s with ann := { s.ann with underrun := true } } t) ∧
    (s.ann.pcm = true → s.ann.pcmAt + secs (annField s 2 2) ≤ s.bkd.tick →
      ∃ t, exec .pcmIdleExpire s = .next t ∧ t = { s with ann := t.ann } ∧ t.ann.pcm = false ∧ t.ann.underrun = false)

/-- A channel runs after STARTING, stops when idle, retries after a shutdown and latches when no retry is left. Rests on R439,
R440, R441, R442, R525. -/
def Obligations.ChannelsStartStopAndShut : Prop :=
  ∀ (s : State) (c : Nat), calm s = true →
    ((annChan s c).state = .starting → (annChan s c).since + msTicks 23 ≤ s.bkd.tick →
      ∃ t, exec (.startingComplete c) s = .next t ∧
        Told (setAnnChan s c { annChan s c with state := .run, since := s.bkd.tick, clean := s.bkd.tick }) t) ∧
    ((annChan s c).state = .stopping → (annChan s c).since + msTicks 21 ≤ s.bkd.tick →
      ∃ t, exec (.stoppingComplete c) s = .next t ∧ (annChan t c).state = if (annChan s c).toMuted = true ∧ s.ann.mute = true then .muted else offState s c) ∧
    ((annChan s c).state = .run → annSource s c = false →
      max (annChan s c).idle (annChan s c).since + secs (annField s 2 2) ≤ s.bkd.tick →
      ∃ t, exec (.idleTimeout c) s = .next t ∧ Told (setAnnChan s c { annChan s c with state := .stopping, since := s.bkd.tick }) t) ∧
    ((annChan s c).state = .run ∨ (annChan s c).state = .starting →
      (∀ h, ∃ t, exec (.overCurrentShutdown c h) s = .next t ∧ (annChan t c).retries = (annChan s c).retries - 1 ∧
        (annChan t c).state = if (annChan s c).retries = 0 then .latched else .retry) ∧
      (∃ t, exec (.loopFaultShutdown c) s = .next t ∧ (annChan t c).retries = (annChan s c).retries - 1 ∧
        (annChan t c).state = if (annChan s c).retries = 0 then .latched else .retry)) ∧
    ((annChan s c).state = .retry → (annChan s c).since + msTicks 200 ≤ s.bkd.tick →
      ∃ t, exec (.retryExpire c) s = .next t ∧ (annChan t c).state = .starting) ∧
    ((annChan s c).state = .run → (annChan s c).clean + secs 60 ≤ s.bkd.tick →
      exec (.retryRestore c) s = .next (setAnnChan s c { annChan s c with retries := 8 })) ∧
    (∀ d : Desc, canTake s d 0x0C04 false = true → d.tenant = 0 → c < 2 →
      ∃ t, exec (.annReset d c) s = .next t ∧
        (annChan t c).state = (if (annChan s c).state = .latched then offState s c else (annChan s c).state) ∧
        ((annChan s c).state = .latched → (annChan t c).retries = 8) ∧
        answered s t d stOk 0 (le 1 (annCode (if (annChan s c).state = .latched then offState s c else (annChan s c).state))))

/-- A hot die, a low supply, a lost link and MUTE take every channel that is not latched out, and their ends bring it back. Rests
on R438, R439, R443, R451, R452. -/
def Obligations.SupplyLinkAndMute : Prop :=
  ∀ (s : State), calm s = true →
    (∀ b, 3 ≤ b → s.ann.band < 3 → ∃ t, exec (.powerDieTempBand b) s = .next t ∧ t.ann.band = b ∧ t.ann.reduced = true ∧
      ∀ c, (annChan t c).state = if (annChan s c).state = .latched then .latched else .thermal) ∧
    (∃ t, exec (.powerDieTempBand 2) s = .next t ∧ t.ann.band = 2 ∧ t.ann.reduced = true ∧ ∀ c, (annChan t c).state = (annChan s c).state) ∧
    (∃ t, exec (.powerDieTempBand 0) s = .next t ∧ t.ann.band = 0 ∧ t.ann.reduced = false ∧
      ∀ c, (annChan t c).state = if (annChan s c).state = .thermal then offState { s with ann := { s.ann with band := 0 } } c
        else (annChan s c).state) ∧
    (∀ mv, s.ann.vspkGood = true → ∃ t, exec (.vspkUvlo mv) s = .next t ∧ t.ann.vspkGood = false ∧
      ∀ c, (annChan t c).state = if (annChan s c).state = .latched then .latched else .uvlo) ∧
    (∃ t, exec .vspkRecovered s = .next t ∧ t.ann.vspkGood = true ∧
      ∀ c, (annChan t c).state = if (annChan s c).state = .uvlo then offState { s with ann := { s.ann with vspkGood := true } } c
        else (annChan s c).state) ∧
    (s.ann.linkGood = true → ∃ t, exec .annLinkLost s = .next t ∧ t.ann.linkGood = false ∧
      ∀ c, (annChan t c).state = if (annChan s c).state = .latched then .latched else .linkLost) ∧
    (∀ us, s.ann.linkGood = false → ∃ t, exec (.annLinkValid us) s = .next t ∧ t.ann.linkGood = true ∧
      ∀ c, (annChan t c).state = if (annChan s c).state = .linkLost then offState { s with ann := { s.ann with linkGood := true } } c
        else (annChan s c).state) ∧
    (∃ t, exec .muteRise s = .next t ∧ t.ann.mute = true ∧
      ∀ c, (annChan t c).state = (if (annChan s c).state = .run ∨ (annChan s c).state = .starting then .stopping else (annChan s c).state) ∧
        ((annChan s c).state = .run ∨ (annChan s c).state = .starting ∨ (annChan s c).state = .stopping → (annChan t c).toMuted = true)) ∧
    (s.ann.mute = true → ∃ t, exec .muteRelease s = .next t ∧ t.ann.mute = false ∧
      ∀ c, (annChan s c).state = .muted → (annChan t c).state = offState { s with ann := { s.ann with mute := false } } c)

/-- At the master JOIN is admitted or refused, STATUS, AGREE, DISAGREE, CONFIRM and AGG_REP of a member act only under a good tag.
Rests on R538, R539, R545, R546, R547, R549, R557, R559. -/
def Obligations.TheMasterHears : Prop :=
  ∀ (s : State) (port : Nat) (p : Bytes), calm s = true → s.ril.cascId = 0 → (dom s 10).state = .idle → (dom s 12).state = .idle →
    (rilHere s port p 0x10 = true → 1 ≤ rilSrc p → rilSrc p ≤ 7 → s.clk.cycle.isSome = true → drbgUp s = true →
      ∃ t, exec (.join port p) s = .next t ∧ (∀ i, i ≠ rilSrc p → rilEntry t i = rilEntry s i) ∧
        (joinRefusal s p = none → (rilEntry t (rilSrc p)).state = 1 ∧ (rilEntry t (rilSrc p)).start.isSome = true ∧ rilSent s t [(1, 0x11)]) ∧
        (∀ c, joinRefusal s p = some c → (rilEntry t (rilSrc p)).state = (if c ≤ 2 then (rilEntry s (rilSrc p)).state else 3) ∧
          (rilEntry t (rilSrc p)).cause = c ∧ rilSent s t [(1, 0x12)])) ∧
    (∀ (i : Nat) (e : RilEntry) (b : Bytes) (l : List Nat), rilSrc p = i → rilEntry s i = e → e.state = 2 → e.rx < rilCtr p → rilPayload p = b →
      l = joinedMembers (setEntry s i { e with rx := rilCtr p }) →
      (rilHere s port p 0x13 = true → ∃ t, exec (.status port p) s = .next t ∧
        if rilTagOk e.key p = true then
          t = setEntry s i { e with rx := rilCtr p, state := 2, flags := fld b 2 1, cause := fld b 3 1, deviceId := fld b 4 8,
                                    lfwVer := fld b 12 4, agreed := slice b 16 8, delay := fld b 24 4, phase := fld b 28 2,
                                    skew := fld b 30 2, heard := nowCycle s }
        else Kept s t) ∧
      (∀ a : Agreement, s.slu.agreement = some a → fld b 0 7 = a.image.stamp →
        (rilHere s port p 4 = true → a.awaiting.contains i = true → a.awaiting.filter (· != i) ≠ [] → ∃ t, exec (.agree port p) s = .next t ∧
          if rilTagOk e.key p = true then
            t.slu = { s.slu with agreement := some { a with awaiting := a.awaiting.filter (· != i) } } ∧ t.ril.out = s.ril.out
          else Kept s t) ∧
        (rilHere s port p 4 = true → a.awaiting = [i] → waitingCmds s 0x0105 0 ≠ [] →
          ∀ q, pickCue s 0 = some q → ∃ t, exec (.agree port p) s = .next t ∧
            if rilTagOk e.key p = true then
              t.slu.agreement = none ∧ t.slu.confirming = some (a.image.stamp, l) ∧
                tfind t.slu.images 0 = some { a.image with cue := q } ∧ cue t q = ⟨a.image.stamp, cueCascade, 0, .pending, a.gen⟩ ∧
                rilSent s t (l.map fun _ => (1, 6)) ∧ waitingCmds t 0x0105 0 = []
            else Kept s t) ∧
        (rilHere s port p 5 = true → ∃ t, exec (.disagree port p) s = .next t ∧
          if rilTagOk e.key p = true then
            t.slu = { s.slu with agreement := none } ∧ rilSent s t (l.map fun _ => (1, 7)) ∧ waitingCmds t 0x0105 0 = []
          else Kept s t)) ∧
      (∀ w, rilHere s port p 8 = true → s.slu.confirming = some (fld b 0 7, w) → w.filter (· != i) ≠ [] → ∃ t, exec (.confirm port p) s = .next t ∧
        if rilTagOk e.key p = true then
          t.slu = { s.slu with confirming := some (fld b 0 7, w.filter (· != i)) } ∧
            (rilEntry t i).flags = if fld b 7 1 ≠ 0 ∨ slice b 8 32 ≠ agreedDigest s then setBit e.flags 0 else e.flags
        else Kept s t) ∧
      (∀ g : AggReq, rilHere s port p 0x0A = true → s.ril.aggs = [g] → fld b 0 2 = g.reqId → g.awaiting.contains i = true →
        g.awaiting.filter (· != i) ≠ [] → bit (fld b 2 1) 1 = false → ∃ t, exec (.aggRep port p) s = .next t ∧
        if rilTagOk e.key p = true then
          t.ril.aggs = [{ g with awaiting := g.awaiting.filter (· != i), answers := g.answers ++ [slice b 4 20], ok := setBit g.ok i,
                                 held := if bit (fld b 2 1) 0 = true then setBit g.held i else g.held }]
        else Kept s t))

/-- A member takes BOUNDARY, SYNC, the agreement's messages, ADMIT, REFUSE, LEAVE and AGG_REQ, each only under a good tag. Rests
on R538, R545, R547, R548, R549, R550, R551, R559. -/
def Obligations.AMemberHears : Prop :=
  ∀ (s : State) (p b : Bytes), calm s = true → s.ril.member = true → s.ril.cascId < 8 → s.pwr.serviceDown = false → (dom s 10).state = .idle → (dom s 12).state = .idle →
    rilPayload p = b →
    (∀ n, s.ril.state = .joined → rilWhole p = true → rilForm p = true → rilDst p = 0xFF → s.ril.rxKg < rilCtr p → s.clk.cycle = some n →
      (rilType p = 1 → s.slu.verify = none → ∃ t q, exec (.boundary 0 p) s = .next t ∧ t.ril.out = s.ril.out ++ [(1, q)] ∧
        rilHopd q = (rilHopd p + s.ril.hop + Config.repeatLatency) % 2 ^ 32 ∧
        if rilTagOk s.ril.kg p = true then
          t.ril.last = some (boundaryOf p) ∧ t.ril.rxKg = rilCtr p ∧ t.ril.delay = (rilHopd p + s.ril.hop) % 2 ^ 32 ∧
            t.ril.next = if n < fld b 0 5 then some (boundaryOf p) else s.ril.next
        else t.ril.last = s.ril.last ∧ t.ril.rxKg = s.ril.rxKg ∧ t.ril.next = s.ril.next) ∧
      (∀ q, rilType p = 2 → cueCheck s cueSync (fld b 0 7) = none → pickCue s 0 = some q →
        ∃ t, exec (.sync 0 p) s = .next t ∧ t.ril.out = s.ril.out ++ [(1, p)] ∧
          if rilTagOk s.ril.kg p = true then cue t q = ⟨fld b 0 7, cueSync, 0, .pending, 0⟩ ∧ t.ril.rxKg = rilCtr p
          else t.clk = s.clk ∧ t.ril.rxKg = s.ril.rxKg)) ∧
    (∀ (st : Stamp) (x : Stage), s.ril.state = .joined → s.ril.rxKs < rilCtr p → fld b 0 7 = st → stage s 0 = x →
      (rilHere s 0 p 3 = true →
        (x.stamped = some x.sgen → x.digest = slice b 7 32 → thas s.slu.images 0 = false → nowStamp s + 8 * angleBits ≤ st →
          ∃ t, exec (.prepare 0 p) s = .next t ∧
            if rilTagOk s.ril.ks p = true then t.slu = { s.slu with prepared := some st } ∧ rilSent s t [(0, 4)] else Kept s t) ∧
        (st < nowStamp s + 8 * angleBits → s.slu.held = false → ∃ t, exec (.prepare 0 p) s = .next t ∧
          if rilTagOk s.ril.ks p = true then t.slu = { s.slu with held := true, heldCause := 0 } ∧ rilSent s t [(0, 5), (0, 0x13)]
          else Kept s t)) ∧
      (rilHere s 0 p 6 = true → s.slu.prepared = some st → x.stamped = some x.sgen → ∀ q, pickCue s 0 = some q →
        ∃ t, exec (.commit 0 p) s = .next t ∧
          if rilTagOk s.ril.ks p = true then
            t.slu.prepared = none ∧ cue t q = ⟨st, cueCommit, 0, .pending, x.sgen⟩ ∧
              tfind t.slu.images 0 = some ⟨x.objs, x.mem, x.clipLen, st, q, imageDurable s x.objs, true⟩
          else Kept s t) ∧
      (rilHere s 0 p 7 = true → s.slu.prepared = some st → ∃ t, exec (.abort 0 p) s = .next t ∧
        if rilTagOk s.ril.ks p = true then t.slu = { s.slu with prepared := none } else Kept s t) ∧
      (rilHere s 0 p 0x14 = true → ∃ t, exec (.leave 0 p) s = .next t ∧
        if rilTagOk s.ril.ks p = true then t.ril.state = .detached ∧ t.clk.state ≠ .slave else Kept s t) ∧
      (rilHere s 0 p 9 = true → s.ril.asked = [] → ∃ t, exec (.aggReq 0 p) s = .next t ∧
        if rilTagOk s.ril.ks p = true then
          if Stamp.cycle (fld b 2 7) < s.ril.since ∨ settledAt s (Stamp.cycle (fld b 2 7)) = true then t.ril.asked = [] ∧ rilSent s t [(0, 0x0A)]
          else t.ril.asked = [(fld b 0 2, fld b 2 7, slice b 9 8, nowCycle s)] ∧ t.ril.out = s.ril.out
        else Kept s t)) ∧
    (s.ril.state = .joining →
      (rilHere s 0 p 0x11 = true → ∃ t, exec (.rillAdmit 0 p) s = .next t ∧
        if fld b 0 8 = Config.deviceId % 2 ^ 64 ∧ rilTagOk (material s 4) p = true then
          t.ril.start = some (fld b 40 5) ∧ t.ril.txKs = 0 ∧ t.ril.rxKs = 0 ∧
            t.ril.ks = sessionKs s (slice b 8 16) s.ril.nonce (masterDevice s) Config.deviceId ∧ t.ril.kg = groupKg s (slice b 24 16) (masterDevice s)
        else Kept s t) ∧
      (rilHere s 0 p 0x12 = true → ∃ t, exec (.refuse 0 p) s = .next t ∧
        if fld b 0 8 = Config.deviceId % 2 ^ 64 ∧ rilTagOk (material s 4) p = true then
          t.ril.state = .isolated ∧ t.ril.retryAt = some (nowTick s + secs 600) ∧ t.ril.refusal = fld b 8 1
        else Kept s t))

/-- CASCADE_STATUS answers the record; echoes measure the hop; links, straps and packets of a bad form are reported. Rests on
R515, R540, R541, R543, R544, R548, R557. -/
def Obligations.RillPortsAndStatus : Prop :=
  ∀ (s : State), calm s = true →
    (∀ d : Desc, canTake s d 0x0D01 true = true → d.tenant = 0 → (cascadeRecord s).length ≤ d.dlen →
      ∃ t, exec (.cascadeStatus d) s = .next t ∧ Told s t ∧ .write 0 d.dptr (cascadeRecord s) ∈ t.hif.out ∧
        answered s t d stOk (cascadeRecord s).length (le 1 s.ril.cascId ++ le 1 (rilRole s))) ∧
    (∀ (port : Nat) (p : Bytes), s.ril.cascEn = true → rilWhole p = true → rilForm p = true → s.ril.cascId ≠ 0 ∨ port ≠ 0 →
      (rilType p = 0x20 → exec (.echoReq port p) s = .next { s with
        free := s.free + 1
        ril := { s.ril with out := s.ril.out ++ [(port, rilPacket 0x21 s.ril.cascId 0xFE 0 0 0 0 (le 4 (Config.freeValue s.free)))] } }) ∧
      (∀ r, rilType p = 0x21 → exec (.echoRep port p r) s = .next { s with
        ril := { s.ril with hop := if port = 0 then (r - fld (rilPayload p) 0 4) / 2 else s.ril.hop } })) ∧
    (∀ (port : Nat) (p : Bytes), s.ril.cascEn = true → s.ril.cascId ≠ 0 ∨ port ≠ 0 → rilWhole p = true → rilForm p = false →
      (dom s 10).state = .idle → s.clk.cycle.isSome = true →
      ∃ t, exec (.rillBadPacket port p) s = .next t ∧ Kept s t ∧ logged s t 0x7D7 (le 1 port ++ le 1 (rilType p) ++ le 1 2)) ∧
    (∀ up : Bool,
      (s.ril.linkU = up → exec (.rilPortLinkChange 0 up) s = .next s) ∧ (s.ril.linkD = up → exec (.rilPortLinkChange 1 up) s = .next s) ∧
      ((dom s 10).state = .idle →
        (s.ril.linkU ≠ up → ∃ t, exec (.rilPortLinkChange 0 up) s = .next t ∧ Told { s with ril := { s.ril with linkU := up } } t ∧
          (s.clk.cycle.isSome = true → logged s t 0x7D0 (le 1 0 ++ le 1 (flag up 0)))) ∧
        (s.ril.linkD ≠ up → ∃ t, exec (.rilPortLinkChange 1 up) s = .next t ∧ Told { s with ril := { s.ril with linkD := up } } t ∧
          (s.clk.cycle.isSome = true → logged s t 0x7D0 (le 1 1 ++ le 1 (flag up 0)))))) ∧
    (∀ (en : Bool) (i : Nat),
      (s.ril.pinEn = en → s.ril.pinId = i % 8 → exec (.strapChange en i) s = .next s) ∧
      (s.ril.pinEn ≠ en ∨ s.ril.pinId ≠ i % 8 → (dom s 10).state = .idle →
        ∃ t, exec (.strapChange en i) s = .next t ∧ Told { s with ril := { s.ril with pinEn := en, pinId := i % 8 } } t ∧
          t.ril.cascEn = s.ril.cascEn ∧ t.ril.cascId = s.ril.cascId))

/-- Each time limit of the cascade that has passed has its effect: detachment, LOST, a new JOIN, an aborted agreement, HELD,
missing answers. Rests on R538, R539, R546, R547, R550, R552, R559. -/
def Obligations.TheCascadeTimesOut : Prop :=
  ∀ (s : State), calm s = true → s.pwr.serviceDown = false → (dom s 10).state = .idle → (dom s 12).state = .idle →
    (∀ n, s.ril.member = true → s.ril.state = .joining → s.ril.start = none → s.ril.lastJoin = some n → n + 64 ≤ nowCycle s →
      ∃ t, exec .joinAnswerTimeout s = .next t ∧ t.ril.state = .detached ∧ t.ril.lastJoin = some n) ∧
    (∀ i, s.ril.master = true → (rilEntry s i).state = 2 → (rilEntry s i).heard + 64 ≤ nowCycle s →
      ∃ t, exec (.memberStatusTimeout i) s = .next t ∧ Told (setEntry s i { rilEntry s i with state := 4 }) t) ∧
    (∀ u, s.ril.member = true → s.ril.state = .isolated → s.ril.retryAt = some u → u ≤ nowTick s → s.clk.cycle.isSome = true → drbgUp s = true →
      ∃ t, exec .refusalRetryExpire s = .next t ∧ t.ril.state = .joining ∧ t.ril.lastJoin = some (nowCycle s) ∧ rilSent s t [(0, 0x10), (0, 0x20)]) ∧
    (∀ a : Agreement, s.slu.agreement = some a → a.since + 4 ≤ nowCycle s → a.awaiting ≠ [] →
      ∃ t, exec .prepareReplyTimeout s = .next t ∧ t.slu = { s.slu with agreement := none } ∧
        rilSent s t ((joinedMembers s).map fun _ => (1, 7)) ∧ waitingCmds t 0x0105 0 = []) ∧
    (∀ st, s.slu.prepared = some st → s.slu.held = false →
      (st ≤ nowStamp s + 8 * angleBits → ∃ t, exec .decisionDeadline s = .next t ∧ t.slu = { s.slu with prepared := none, held := true, heldCause := 2 }) ∧
      (nowStamp s + 8 * angleBits < st → exec .decisionDeadline s = .next s)) ∧
    (∀ st, s.slu.confirming = none → s.slu.unconfirmed = some st → st + 4 * angleBits ≤ nowStamp s → s.slu.held = false →
      ∃ t, exec .confirmTimeout s = .next t ∧ t.slu = { s.slu with unconfirmed := none, held := true, heldCause := 1 }) ∧
    (∀ st l, s.slu.unconfirmed = none → s.slu.confirming = some (st, l) → st + 4 * angleBits ≤ nowStamp s →
      ∃ t, exec .confirmTimeout s = .next t ∧ t.slu = { s.slu with confirming := none } ∧ ∀ i ∈ l, bit (rilEntry t i).flags 0 = true) ∧
    (∀ g : AggReq, s.ril.aggs = [g] → g.since + 8 ≤ nowCycle s → waitingCmds s 0x0401 g.token = [] →
      ∃ t, exec .aggReqTimeout s = .next t ∧ t.ril.aggs = []) ∧
    (s.ril.joined = true → s.ril.next = none → s.ril.placeOwn = false →
      (65536 + 8192) * 32768 * 65536 ≤ ((nowTick s - s.clk.tick) * 65536 - s.clk.tickFrac) * s.clk.freq →
      (s.ril.selfPlaced < 2 →
        exec .boundaryMissing s = .next { s with ril := { s.ril with placeOwn := true, selfPlaced := s.ril.selfPlaced + 1 } }) ∧
      (2 ≤ s.ril.selfPlaced → ∃ t, exec .boundaryMissing s = .next t ∧ t.ril.state = .detached ∧ t.clk.state ≠ .slave))

/-- Each reset input brings a running hub into CHIP reset with its cause; a reset that stands keeps its cause. Rests on R21, R563,
R564, R565, R566, R570, R575, R579, R580. -/
def Obligations.ResetsBringTheHubDown : Prop :=
  ∀ (s : State),
    (calm s = true → s.cis.incs = [] → s.pwr.committing = false →
      (∃ t, exec .por s = .next t ∧ CameDown s t 1 ∧ t.pwr.railBad = false) ∧
      (∃ t, exec .bor s = .next t ∧ CameDown s t 3 ∧ t.pwr.railBad = true) ∧
      (∃ t, exec (.resetN true) s = .next t ∧ CameDown s t 4 ∧ t.pwr.resetNLow = true) ∧
      (∀ us, ∃ t, exec (.refclkLoss us) s = .next t ∧ CameDown s t 0x0A ∧ t.pwr.refStopped = true ∧ t.pwr.last.refUs = us) ∧
      (∃ t, exec .legalEngineFault s = .next t ∧ CameDown s t 7) ∧
      (∃ t, exec .wdtLegal s = .next t ∧ CameDown s t 8) ∧
      (∃ t, exec .wdtSystem s = .next t ∧ CameDown s t 9)) ∧
    exec (.resetN false) s = .next { s with pwr := { s.pwr with resetNLow := false } } ∧
    exec .pfHoldRelease s = .next { s with pwr := { s.pwr with pfHold := false } } ∧
    (s.pwr.inReset = true →
      exec .legalEngineFault s = .next s ∧ exec .wdtLegal s = .next s ∧ exec .wdtSystem s = .next s ∧ (∀ us, exec (.refclkLoss us) s = .next s) ∧
      exec (.resetN true) s = .next { s with pwr := { s.pwr with resetNLow := true } } ∧
      exec .por s = .next { s with pwr := { s.pwr with railBad := false }, bkd := { s.bkd with fromRef := s.bkd.fromRef || s.bkd.crystalStopped } })

/-- PFAIL runs the steps of Table PWR.6: whole, it leaves the residual journal image and PF_HOLD; cut short, it leaves the steps
done. Rests on R192, R372, R572, R573, R575. -/
def Obligations.ThePowerFailCommit : Prop :=
  ∀ (s : State) (done us : Nat), calm s = true → s.cis.incs = [] → s.cmp.air = none → (∀ c, (annChan s c).stack = []) →
    (s.pwr.committing = true → exec (.pfail done us) s = .next s) ∧
    (s.pwr.committing = false → 6 ≤ done → ∃ t, exec (.pfail done us) s = .next t ∧ t.pwr.inReset = true ∧ t.pwr.pfHold = true ∧
      t.pwr.last.cause = 5 ∧ t.pwr.last.commit = some (63, us, s.bkd.tick) ∧ clearVolatile t = t ∧
      (s.pwr.resumed = true → journalErased s = true → t.pwr.last.step4Due = true ∧
        ∃ i, t.cis.image = some i ∧ i.run = runNumber s ∧ i.pages.map (·.1) = presentMps s ∧ ∀ p ∈ i.pages, p.2.res = residuals s p.1)) ∧
    (s.pwr.committing = false → done < 6 → ∃ t, exec (.pfail done us) s = .next t ∧ t.pwr.inReset = false ∧ t.pwr.committing = true ∧
      t.pwr.last.commit = some (2 ^ done - 1, us, s.bkd.tick))

/-- HUB_RESET completes and starts the reset of its scope; firmware is written and activated; the service cores come back; JTAG
activity is a tamper. Rests on R491, R512, R513, R547, R579, R581, R609. -/
def Obligations.ResetCommandsAndFirmware : Prop :=
  ∀ (s : State) (d : Desc), (d.tenant = 0 →
      (canTake s d 0x0006 false = true →
        (∀ n, ∃ t, exec (.hubReset d 1 n) s = .next t ∧ CameDown s t 0x0B ∧ answered s t d stOk 0 []) ∧
        (∀ n, ∃ t, exec (.hubReset d 2 n) s = .next t ∧ t.pwr.serviceDown = true ∧ t.pwr.serviceCause = 0x0B ∧ answered s t d stOk 0 []) ∧
        (∀ n, ∃ t, exec (.hubReset d 3 n) s = .next t ∧ t.hif.linkUp = false ∧ t.hif.funcs = [] ∧ (ctx t 0).state = .resetting ∧
          answered s t d stOk 0 []) ∧
        (∀ n, tenantDefined s n = true → n ≠ 0 → (ctx s n).state = .active ∨ (ctx s n).state = .attached →
          ∃ t, exec (.hubReset d 4 n) s = .next t ∧ (ctx t n).state = .resetting ∧ answered s t d stOk 0 [])) ∧
      (∀ (image off : Nat) (data : Bytes), canTake s d 0x0007 true = true → image ≤ 1 → image ≠ s.cmd.running → 1 ≤ d.dlen →
        data.length = d.dlen → off + d.dlen ≤ 2448000 → s.cis.readOnly.contains 2 = false →
        ∃ t, exec (.fwWrite d image off data) s = .next t ∧ answered s t d stOk 0 [] ∧
          Told { s with cmd := if image = 0 then { s.cmd with imageA := Mem.writeAll fwErased s.cmd.imageA off data }
                               else { s.cmd with imageB := Mem.writeAll fwErased s.cmd.imageB off data } } t) ∧
      (∀ (image len digest : Nat), canTake s d 0x0008 false = true → image ≤ 1 → len ≤ 2448000 → image ≠ s.cmd.running →
        64 < permFree s → noCommitCue s = true → ∃ t, exec (.fwActivate d image len digest) s = .next t ∧
          if Config.sha256 (Mem.readAll fwErased (fwImage s image) 0 len) = digest ∧ Config.imageSigned (fwImage s image) = true then
            answered s t d stOk 0 [] ∧ t.pwr.serviceDown = true ∧ t.pwr.serviceCause = 0x0E ∧ t.cmd.nextImage = some image ∧
              t.lgl.fwDigest = be 32 digest
          else answered s t d stFwBad 0 [] ∧ Told s t)) ∧
    (calm s = true → s.pwr.serviceDown = false → s.pwr.committing = false → (dom s 8).state = .idle →
      ∀ c, ∃ t, exec (.wdtService c) s = .next t ∧ t.pwr.serviceDown = true ∧ t.pwr.serviceCause = 0x0D ∧
        (s.clk.cycle.isSome = true → logged s t 0x003 (le 1 1 ++ le 1 c))) ∧
    (calm s = true → s.pwr.serviceDown = true → s.cmd.opens = [] → s.ply.arms = [] → s.cmp.rxq = [] → s.ril.waiting = [] →
      ∃ t, exec .serviceRestartComplete s = .next t ∧ t.pwr.serviceDown = false ∧ t.cmd.running = s.cmd.nextImage.getD s.cmd.running ∧
        t.cmd.nextImage = none ∧ ∀ k ∈ [8, 12, 13, 14], (dom s k).state = .escalating → (dom t k).state = .idle) ∧
    (calm s = true →
      (∀ u, s.reg.jtagBurst = some u → s.bkd.tick ≤ u + ticksPerSecond →
        exec .jtagActivity s = .next { s with reg := { s.reg with jtagBurst := some s.bkd.tick } }) ∧
      (s.reg.jtagBurst = none → (dom s 0).state = .idle →
        ∃ t, exec .jtagActivity s = .next t ∧ t.reg.jtagBurst = some s.bkd.tick ∧
          (tget {} t.ev.tampers (tamperKey tamperDevice 7)).count = satAdd 32 (tget {} s.ev.tampers (tamperKey tamperDevice 7)).count 1))

/-- CHIP_START does nothing while a cause holds the reset, and else starts the run at t0 with the clock in COAST_NOM. Rests on
R39, R60, R193, R541, R564, R568. -/
def Obligations.TheHubStartsWhenNothingHoldsIt : Prop :=
  ∀ (s : State) (obs : StartObs),
    (s.pwr.started = true ∨ s.pwr.pfHold = true ∨ s.pwr.resetNLow = true ∨ s.pwr.railBad = true ∨ s.bkd.pwronLow = true →
      exec (.chipStart obs) s = .next s) ∧
    (startsClean s obs = true → clearVolatile s = s → ∃ t, exec (.chipStart obs) s = .next t ∧ t.pwr.started = true ∧ t.pwr.inReset = false ∧
      t.pwr.t0 = s.bkd.tick ∧ t.clk.state = .coastNom ∧ t.clk.cycle = none ∧ t.ril.cascEn = s.ril.pinEn ∧ t.ril.cascId = s.ril.pinId ∧
      runNumber t = runNumber s + 1 ∧ t.bkd.ret.valid = true ∧ (∀ m ∈ presentMps s, residuals t m = residuals s m))
end

