-- ==== Sys2Proof/Laws/Ops.lean ====
section
/-!
SUPPORT. What the shared operations can change: one lemma for each, over two relations.  `Kept s t` says that `t` has the
blocks of `s` that no delivery to the host touches; a meaning's own effect on them is read through it.
-/
namespace Sys2Proof.Laws

open Sys2Proof.Machine

end Sys2Proof.Laws

namespace Sys2Proof.Machine

open Sys2Proof.Laws

theorem Kept.refl (s : State) : Kept s s :=
  ⟨rfl, rfl, rfl, rfl, rfl, rfl, rfl, rfl, rfl, rfl, rfl, rfl, rfl, rfl, rfl, rfl, rfl, rfl, rfl⟩

theorem Kept.trans {s t u : State} (h : Kept s t) (g : Kept t u) : Kept s u :=
  ⟨g.pending.trans h.pending, g.free.trans h.free, g.clk.trans h.clk, g.bkd.trans h.bkd, g.ply.trans h.ply, g.flt.trans h.flt,
   g.met.trans h.met, g.pqe.trans h.pqe, g.lgl.trans h.lgl, g.tar.trans h.tar, g.crd.trans h.crd, g.cus.trans h.cus,
   g.key.trans h.key, g.cmp.trans h.cmp, g.ann.trans h.ann, g.slu.trans h.slu, g.ril.trans h.ril, g.pwr.trans h.pwr,
   g.reg.trans h.reg⟩

theorem Kept.foldl {α : Type} (f : State → α → State) (hf : ∀ s a, Kept s (f s a)) (l : List α) (s : State) :
    Kept s (l.foldl f s) := by
  induction l generalizing s with
  | nil => exact Kept.refl s
  | cons a l ih => exact (hf s a).trans (ih (f s a))

theorem Kept.ite {s t u : State} {c : Prop} [Decidable c] (ht : Kept s t) (hu : Kept s u) : Kept s (if c then t else u) := by
  split
  · exact ht
  · exact hu

end Sys2Proof.Machine

namespace Sys2Proof.Laws

open Sys2Proof.Machine

/-! ### Writes to the host -/

theorem dma_kept (s : State) (t a : Nat) (b : Bytes) : Kept s (dma s t a b) := by
  unfold dma; split <;> constructor <;> rfl

theorem sendMsi_kept (s : State) (t v : Nat) : Kept s (sendMsi s t v) := by
  unfold sendMsi; extract_lets f
  split
  · split <;> constructor <;> rfl
  · exact Kept.refl s

theorem setRing_kept (s : State) (t i : Nat) (r : Ring) : Kept s (setRing s t i r) := by
  constructor <;> rfl

theorem setCtx_kept (s : State) (t : Nat) (c : Ctx) : Kept s (setCtx s t c) := by
  constructor <;> rfl

theorem setDom_kept (s : State) (k : Nat) (d : Dom) : Kept s (setDom s k d) := by
  constructor <;> rfl

theorem writeShadow_kept (s : State) (t i : Nat) : Kept s (writeShadow s t i) := dma_kept _ _ _ _

theorem signalRing_kept (s : State) (t i : Nat) : Kept s (signalRing s t i) := by
  have h := (setRing_kept s t i { ring s t i with unsig := 0 }).trans (writeShadow_kept _ t i)
  unfold signalRing
  exact Kept.ite (h.trans (sendMsi_kept _ _ _)) h

theorem produce_kept (s : State) (t i : Nat) (b : Bytes) : Kept s (produce s t i b) := by
  unfold produce
  extract_lets r s1 tail r1 s2
  have h : Kept s s2 := (dma_kept s t (r.base + r.tail * entrySize r.typ) b).trans (setRing_kept s1 t i r1)
  exact Kept.ite (h.trans (signalRing_kept _ _ _)) h

theorem consumeEntry_kept (s : State) (t i : Nat) : Kept s (consumeEntry s t i) := by
  unfold consumeEntry
  extract_lets r before r1 s1
  have h : Kept s s1 := setRing_kept s t i r1
  split
  · exact h.trans (writeShadow_kept s1 t i)
  · exact h.trans (writeShadow_kept s1 t i)
  · exact Kept.ite (h.trans (signalRing_kept s1 t i)) h

/-! ### Event records -/

theorem evtPush_kept (s : State) (t i : Nat) (r : EventRec) : Kept s (evtPush s t i r) := by
  unfold evtPush
  extract_lets q l
  exact Kept.ite (Kept.refl s) (Kept.ite (produce_kept _ _ _ _) (Kept.ite (setRing_kept _ _ _ _) (setRing_kept _ _ _ _)))

theorem deliver_kept (s : State) (r : EventRec) : Kept s (deliver s r) := by
  unfold deliver
  refine Kept.foldl _ (fun a t => ?_) _ _
  refine Kept.ite ?_ (Kept.refl a)
  split
  · exact evtPush_kept _ _ _ _
  · exact Kept.refl a

theorem tailPush_kept (s : State) (it : Item) : Kept s (tailPush s it) := by
  constructor <;> rfl

theorem admitRecord_kept (s : State) (r : EventRec) : Kept s (admitRecord s r) := by
  unfold admitRecord
  refine Kept.ite (deliver_kept _ _) (Kept.ite ((tailPush_kept _ _).trans (deliver_kept _ _)) (Kept.ite ?_ ?_)) <;>
    constructor <;> rfl

theorem issueRecord_kept (s : State) (r : EventRec) : Kept s (issueRecord s r) :=
  Kept.trans (by constructor <;> rfl) (admitRecord_kept _ _)

theorem issueRaised_kept (s : State) (x : Raised) : Kept s (issueRaised s x) := by
  unfold issueRaised
  refine Kept.trans ?_ (issueRecord_kept _ _)
  split <;> constructor <;> rfl

theorem issueBatch_kept (s : State) : Kept s (issueBatch s) :=
  Kept.trans (by constructor <;> rfl) (Kept.foldl _ issueRaised_kept _ _)

theorem spanNow_kept (s : State) : Kept s (spanNow s) := by
  unfold spanNow; split <;> constructor <;> rfl

theorem record_kept (s : State) (e : EvReq) (sev k depth rflags : Nat) : Kept s (record s e sev k depth rflags) := by
  unfold record
  refine (spanNow_kept s).trans ?_
  extract_lets s0 n s1 r
  exact Kept.ite (by constructor <;> rfl) (Kept.ite (by constructor <;> rfl) (by constructor <;> rfl))

theorem inform_kept (s : State) (e : EvReq) : Kept s (inform s e) := record_kept _ _ _ _ _ _

theorem setRingState_kept (s : State) (t i : Nat) (st : RingState) (c : Nat) : Kept s (setRingState s t i st c) :=
  ((setRing_kept _ _ _ _).trans (inform_kept _ _)).trans (writeShadow_kept _ _ _)

/-! ### Taking and completing a command -/

theorem take_kept (s : State) (d : Desc) : Kept s (take s d) :=
  (consumeEntry_kept _ _ _).trans (setRing_kept _ _ _ _)

theorem completeOne_kept (s : State) (d : Desc) (q st x : Nat) (r : Bytes) : Kept s (completeOne s d q st x r) := by
  unfold completeOne
  extract_lets c r0
  exact Kept.ite ((setRing_kept _ _ _ _).trans (produce_kept _ _ _ _)) (Kept.refl s)

theorem settleDelete_kept (s : State) (d : Desc) : Kept s (settleDelete s d) := by
  unfold settleDelete
  refine Kept.ite ?_ (Kept.refl s)
  split
  · exact (Kept.trans (by constructor <;> rfl) (setRingState_kept _ _ _ _ _)).trans (completeOne_kept _ _ _ _ _ _)
  · exact Kept.refl s

theorem complete_kept (s : State) (d : Desc) (q st x : Nat) (r : Bytes) : Kept s (complete s d q st x r) :=
  (completeOne_kept _ _ _ _ _ _).trans (settleDelete_kept _ _)

theorem reply_kept (s : State) (d : Desc) (st : Nat) (r : Bytes) : Kept s (reply s d st r) := complete_kept _ _ _ _ _ _

theorem replyOut_kept (s : State) (d : Desc) (o r : Bytes) : Kept s (replyOut s d o r) := by
  unfold replyOut
  exact Kept.ite (complete_kept _ _ _ _ _ _) ((dma_kept _ _ _ _).trans (complete_kept _ _ _ _ _ _))

theorem defer_kept (s : State) (d : Desc) (opc tok : Nat) (a : List Nat) (c : Bool) (r o : Bytes) :
    Kept s (defer s d opc tok a c r o) := by
  constructor <;> rfl

/-! ### What sending to the host leaves alone -/

/-- `t` differs from `s` only by what has been sent to the host: entries in rings, shadows and messages, put behind what was
there. -/
structure Sent (s t : State) : Prop where
  kept : Kept s t
  ev : t.ev = s.ev
  cis : t.cis = s.cis
  cmd : t.cmd = s.cmd
  ctxs : t.hif.ctxs = s.hif.ctxs
  out : ∃ l, t.hif.out = s.hif.out ++ l

theorem Sent.refl (s : State) : Sent s s := ⟨Kept.refl s, rfl, rfl, rfl, rfl, [], by simp⟩

theorem Sent.trans {s t u : State} (h : Sent s t) (g : Sent t u) : Sent s u := by
  obtain ⟨l, hl⟩ := h.out
  obtain ⟨m, hm⟩ := g.out
  exact ⟨h.kept.trans g.kept, g.ev.trans h.ev, g.cis.trans h.cis, g.cmd.trans h.cmd, g.ctxs.trans h.ctxs, l ++ m,
    by rw [hm, hl, List.append_assoc]⟩

theorem Sent.ite {s t u : State} {c : Prop} [Decidable c] (ht : Sent s t) (hu : Sent s u) : Sent s (if c then t else u) := by
  split
  · exact ht
  · exact hu

theorem Sent.foldl {α : Type} (f : State → α → State) (hf : ∀ s a, Sent s (f s a)) (l : List α) (s : State) :
    Sent s (l.foldl f s) := by
  induction l generalizing s with
  | nil => exact Sent.refl s
  | cons a l ih => exact (hf s a).trans (ih (f s a))

theorem dma_sent (s : State) (t a : Nat) (b : Bytes) : Sent s (dma s t a b) := by
  unfold dma
  split
  · exact ⟨by constructor <;> rfl, rfl, rfl, rfl, rfl, _, rfl⟩
  · exact Sent.refl s

theorem sendMsi_sent (s : State) (t v : Nat) : Sent s (sendMsi s t v) := by
  unfold sendMsi; extract_lets f
  split
  · split
    · exact ⟨by constructor <;> rfl, rfl, rfl, rfl, rfl, [], (List.append_nil _).symm⟩
    · exact ⟨by constructor <;> rfl, rfl, rfl, rfl, rfl, _, rfl⟩
  · exact Sent.refl s

theorem setRing_sent (s : State) (t i : Nat) (r : Ring) : Sent s (setRing s t i r) :=
  ⟨setRing_kept s t i r, rfl, rfl, rfl, rfl, [], by simp [setRing]⟩

theorem writeShadow_sent (s : State) (t i : Nat) : Sent s (writeShadow s t i) := dma_sent _ _ _ _

theorem signalRing_sent (s : State) (t i : Nat) : Sent s (signalRing s t i) := by
  have h := (setRing_sent s t i { ring s t i with unsig := 0 }).trans (writeShadow_sent _ t i)
  unfold signalRing
  exact Sent.ite (h.trans (sendMsi_sent _ _ _)) h

theorem produce_sent (s : State) (t i : Nat) (b : Bytes) : Sent s (produce s t i b) := by
  unfold produce
  extract_lets r s1 tail r1 s2
  have h : Sent s s2 := (dma_sent s t (r.base + r.tail * entrySize r.typ) b).trans (setRing_sent s1 t i r1)
  exact Sent.ite (h.trans (signalRing_sent _ _ _)) h

theorem consumeEntry_sent (s : State) (t i : Nat) : Sent s (consumeEntry s t i) := by
  unfold consumeEntry
  extract_lets r before r1 s1
  have h : Sent s s1 := setRing_sent s t i r1
  split
  · exact h.trans (writeShadow_sent s1 t i)
  · exact h.trans (writeShadow_sent s1 t i)
  · exact Sent.ite (h.trans (signalRing_sent s1 t i)) h

theorem take_sent (s : State) (d : Desc) : Sent s (take s d) :=
  (consumeEntry_sent _ _ _).trans (setRing_sent _ _ _ _)

theorem evtPush_sent (s : State) (t i : Nat) (r : EventRec) : Sent s (evtPush s t i r) := by
  unfold evtPush
  extract_lets q l
  exact Sent.ite (Sent.refl s) (Sent.ite (produce_sent _ _ _ _) (Sent.ite (setRing_sent _ _ _ _) (setRing_sent _ _ _ _)))

theorem deliver_sent (s : State) (r : EventRec) : Sent s (deliver s r) := by
  unfold deliver
  refine Sent.foldl _ (fun a t => ?_) _ _
  refine Sent.ite ?_ (Sent.refl a)
  split
  · exact evtPush_sent _ _ _ _
  · exact Sent.refl a

theorem admitRecord_ev (s : State) (r : EventRec) :
    (admitRecord s r).ev.doms = s.ev.doms ∧ (admitRecord s r).ev.batch = s.ev.batch ∧ (admitRecord s r).cis.tailSaid = s.cis.tailSaid := by
  unfold admitRecord
  split
  · rw [(deliver_sent s r).ev, (deliver_sent s r).cis]; exact ⟨rfl, rfl, rfl⟩
  · split
    · rw [(deliver_sent (tailPush s (eventItem r)) r).ev, (deliver_sent (tailPush s (eventItem r)) r).cis]; exact ⟨rfl, rfl, rfl⟩
    · generalize (if exemptEvent r.id r.sev = true then 8192 else 7168) = n
      split <;> exact ⟨rfl, rfl, rfl⟩

theorem issueRaised_ev (s : State) (x : Raised) :
    (issueRaised s x).ev.doms = s.ev.doms ∧ (issueRaised s x).ev.batch = s.ev.batch ∧
      (issueRaised s x).cis.tailSaid = s.cis.tailSaid := by
  unfold issueRaised issueRecord
  refine ⟨(admitRecord_ev _ _).1.trans ?_, (admitRecord_ev _ _).2.1.trans ?_, (admitRecord_ev _ _).2.2.trans ?_⟩ <;> split <;> rfl

theorem issueAll_ev (l : List Raised) (s : State) :
    (l.foldl issueRaised s).ev.doms = s.ev.doms ∧ (l.foldl issueRaised s).ev.batch = s.ev.batch ∧
      (l.foldl issueRaised s).cis.tailSaid = s.cis.tailSaid := by
  induction l generalizing s with
  | nil => exact ⟨rfl, rfl, rfl⟩
  | cons x l ih =>
    obtain ⟨a, b, c⟩ := ih (issueRaised s x)
    obtain ⟨a', b', c'⟩ := issueRaised_ev s x
    exact ⟨a.trans a', b.trans b', c.trans c'⟩

theorem issueBatch_doms (s : State) : (issueBatch s).ev.doms = s.ev.doms := (issueAll_ev _ _).1

theorem issueBatch_batch (s : State) : (issueBatch s).ev.batch = [] := (issueAll_ev _ _).2.1

/-! ### Faults that do not escalate their domain, and the end of a step -/

theorem placeFault_roomy (s : State) (k sev c : Nat) (nested : Bool) (h : roomy s k = true) :
    placeFault (dom s k) sev nested ≠ .escalate c := by
  unfold placeFault
  unfold roomy at h
  cases hs : (dom s k).state <;> simp only [hs] at h ⊢
  · simp
  · cases hst : (dom s k).stack with
    | nil => simp
    | cons x l =>
      simp only [hst, decide_eq_true_eq] at h ⊢
      split
      · rw [if_neg (by omega)]; simp
      · rw [if_neg (by omega)]; simp
  · simp

theorem raise_kept (s : State) (e : EvReq)
    (h : roomy s (match e.dom with | some t => 16 + t | none => defaultDomain e.id) = true) : Kept s (raise s e) := by
  unfold raise
  extract_lets sev k p e1 s1 s2 v3 s3
  refine Kept.ite (inform_kept _ _) ?_
  have hk : Kept s s3 := by
    refine Kept.trans (record_kept s e1 sev k (placeDepth (dom s k) p) 0) ?_
    constructor <;> rfl
  have hp : ∀ c, p ≠ .escalate c := fun c => placeFault_roomy s k sev c e.nested h
  clear_value s3 p
  cases p
  case escalate c => exact absurd rfl (hp c)
  all_goals exact hk.trans (setDom_kept _ _ _)

theorem noteTail_kept (s : State) (h : roomy s 6 = true) : Kept s (noteTail s) := by
  unfold noteTail
  refine Kept.ite ?_ (Kept.refl s)
  exact Kept.trans (by constructor <;> rfl) (raise_kept _ _ h)

/-- The end of a step changes none of these blocks while the archive's domain has room for its report of a full tail. -/
theorem settle_kept (s : State) (hr : s.pwr.inReset = false) (h : roomy s 6 = true) : Kept s (settle s) := by
  unfold settle
  rw [if_neg (by simp [hr])]
  refine ((issueBatch_kept s).trans (noteTail_kept _ ?_)).trans (issueBatch_kept _)
  unfold roomy dom at h ⊢
  rw [issueBatch_doms]; exact h

theorem settle_batch (s : State) : (settle s).ev.batch = [] := by
  unfold settle
  split
  · rfl
  · exact issueBatch_batch _

end Sys2Proof.Laws
end

