-- ==== Sys2Proof/Laws/Tables.lean ====
section
/-!
SUPPORT. Sparse tables and byte memories: what a read gives after a write, and that every memory operation keeps the canonical
form.
-/
namespace Sys2Proof.Laws

open Sys2Proof.Machine

/-! ### Tables -/

theorem tget_tput {α : Type} (d : α) (m : Tbl α) (k j : Nat) (v : α) : tget d (tput m k v) j = if j = k then v else tget d m j := by
  induction m with
  | nil =>
    by_cases hj : j = k
    · simp [tput, tget, hj]
    · simp [tput, tget, hj]
  | cons p m ih =>
    obtain ⟨k', v'⟩ := p
    by_cases h1 : k < k'
    · by_cases hj : j = k
      · simp [tput, tget, h1, hj]
      · by_cases hl : j < k
        · have h2 : j ≠ k' := by omega
          have h3 : j < k' := by omega
          simp [tput, tget, h1, hj, hl, h2, h3]
        · simp [tput, tget, h1, hj, hl]
    · by_cases h2 : k = k'
      · subst h2
        by_cases hj : j = k
        · simp [tput, tget, hj]
        · simp [tput, tget, hj]
      · by_cases hj : j = k
        · subst hj
          simp [tput, tget, h1, h2, ih]
        · simp [tput, tget, h1, h2, ih, hj]

theorem tget_tput_self {α : Type} (d : α) (m : Tbl α) (k : Nat) (v : α) : tget d (tput m k v) k = v := by
  rw [tget_tput, if_pos rfl]

theorem tget_tput_ne {α : Type} (d : α) (m : Tbl α) (k j : Nat) (v : α) (h : j ≠ k) : tget d (tput m k v) j = tget d m j := by
  rw [tget_tput, if_neg h]

theorem tfind_tput_self {α : Type} (m : Tbl α) (k : Nat) (v : α) : tfind (tput m k v) k = some v := by
  induction m with
  | nil => simp [tput, tfind]
  | cons p m ih =>
    obtain ⟨k', v'⟩ := p
    by_cases h1 : k < k'
    · simp [tput, tfind, h1]
    · by_cases h2 : k = k'
      · simp [tput, tfind, h2]
      · have h3 : (k' == k) = false := by simp; omega
        simpa [tput, tfind, h1, h2, h3] using ih

/-! ### Byte memories -/

theorem wfFrom_mono (f : Nat → Byte) (lo lo' : Nat) (m : Mem) (h : lo' ≤ lo) (hw : Mem.wfFrom f lo m = true) :
    Mem.wfFrom f lo' m = true := by
  cases m with
  | nil => rfl
  | cons p m =>
    obtain ⟨a, v⟩ := p
    simp only [Mem.wfFrom, Bool.and_eq_true, decide_eq_true_eq] at hw ⊢
    exact ⟨⟨by omega, hw.1.2⟩, hw.2⟩

theorem write_wfFrom (f : Nat → Byte) (m : Mem) (lo a : Nat) (v : Byte) (hl : lo ≤ a) (hw : Mem.wfFrom f lo m = true) :
    Mem.wfFrom f lo (Mem.write f m a v) = true := by
  induction m generalizing lo with
  | nil =>
    by_cases hv : v = f a
    · simp [Mem.write, Mem.wfFrom, hv]
    · simp [Mem.write, Mem.wfFrom, hv, hl]
  | cons p m ih =>
    obtain ⟨b, w⟩ := p
    have hw0 := hw
    simp only [Mem.wfFrom, Bool.and_eq_true, decide_eq_true_eq] at hw
    obtain ⟨⟨h1, h2⟩, h3⟩ := hw
    by_cases ha : a < b
    · by_cases hv : v = f a
      · simpa [Mem.write, ha, hv] using hw0
      · have h4 : a + 1 ≤ b := ha
        simp [Mem.write, ha, hv, Mem.wfFrom, hl, h4, h3]
        simpa using h2
    · by_cases hb : a = b
      · subst hb
        by_cases hv : v = f a
        · simpa [Mem.write, hv] using wfFrom_mono f (a + 1) lo m (by omega) h3
        · simp [Mem.write, hv, Mem.wfFrom, hl, h3]
      · simp only [Mem.write, if_neg ha, if_neg hb, Mem.wfFrom, Bool.and_eq_true, decide_eq_true_eq]
        exact ⟨⟨h1, h2⟩, ih (b + 1) (by omega) h3⟩

theorem write_wf (f : Nat → Byte) (m : Mem) (a : Nat) (v : Byte) (h : Mem.wf f m = true) : Mem.wf f (Mem.write f m a v) = true :=
  write_wfFrom f m 0 a v (Nat.zero_le a) h

theorem writeAll_wf (f : Nat → Byte) (b : Bytes) (m : Mem) (a : Nat) (h : Mem.wf f m = true) :
    Mem.wf f (Mem.writeAll f m a b) = true := by
  induction b generalizing m a with
  | nil => exact h
  | cons v b ih => exact ih _ _ (write_wf f m a v h)

theorem drop_wfFrom (f : Nat → Byte) (m : Mem) (lo a n : Nat) (h : Mem.wfFrom f lo m = true) :
    Mem.wfFrom f lo (Mem.drop m a n) = true := by
  induction m generalizing lo with
  | nil => rfl
  | cons p m ih =>
    obtain ⟨b, w⟩ := p
    simp only [Mem.wfFrom, Bool.and_eq_true, decide_eq_true_eq] at h
    have hm := ih (b + 1) h.2
    unfold Mem.drop at hm ⊢
    rw [List.filter_cons]
    split
    · simp only [Mem.wfFrom, Bool.and_eq_true, decide_eq_true_eq]
      exact ⟨h.1, hm⟩
    · exact wfFrom_mono f (b + 1) lo _ (by omega) hm

theorem drop_wf (f : Nat → Byte) (m : Mem) (a n : Nat) (h : Mem.wf f m = true) : Mem.wf f (Mem.drop m a n) = true :=
  drop_wfFrom f m 0 a n h

theorem read_below (f : Nat → Byte) (m : Mem) (lo a : Nat) (h : a < lo) (hw : Mem.wfFrom f lo m = true) : Mem.read f m a = f a := by
  cases m with
  | nil => rfl
  | cons p m =>
    obtain ⟨b, w⟩ := p
    simp only [Mem.wfFrom, Bool.and_eq_true, decide_eq_true_eq] at hw
    have h1 : a ≠ b := by omega
    have h2 : a < b := by omega
    simp [Mem.read, h1, h2]

theorem read_write (f : Nat → Byte) (m : Mem) (lo a j : Nat) (v : Byte) (hw : Mem.wfFrom f lo m = true) :
    Mem.read f (Mem.write f m a v) j = if j = a then v else Mem.read f m j := by
  induction m generalizing lo with
  | nil =>
    by_cases hj : j = a
    · by_cases hv : v = f a <;> simp [Mem.write, Mem.read, hj, hv]
    · by_cases hv : v = f a <;> simp [Mem.write, Mem.read, hj, hv]
  | cons p m ih =>
    obtain ⟨b, w⟩ := p
    simp only [Mem.wfFrom, Bool.and_eq_true, decide_eq_true_eq] at hw
    obtain ⟨⟨h1, h2⟩, h3⟩ := hw
    by_cases ha : a < b
    · by_cases hv : v = f a
      · by_cases hj : j = a
        · have h4 : j ≠ b := by omega
          have h5 : j < b := by omega
          simp [Mem.write, Mem.read, ha, hv, hj]
          intro h6; omega
        · simp [Mem.write, ha, hv, hj]
      · by_cases hj : j = a
        · simp [Mem.write, Mem.read, ha, hv, hj]
        · by_cases hl : j < a
          · have h4 : j ≠ b := by omega
            have h5 : j < b := by omega
            simp [Mem.write, Mem.read, ha, hv, hj, hl, h4, h5]
          · simp [Mem.write, Mem.read, ha, hv, hj, hl]
    · by_cases hb : a = b
      · subst hb
        by_cases hv : v = f a
        · by_cases hj : j = a
          · subst hj
            simp [Mem.write, hv, read_below f m (j + 1) j (by omega) h3]
          · by_cases hl : j < a
            · simp [Mem.write, Mem.read, hv, hj, hl, read_below f m (a + 1) j (by omega) h3]
            · simp [Mem.write, Mem.read, hv, hj, hl]
        · by_cases hj : j = a
          · simp [Mem.write, Mem.read, hv, hj]
          · simp [Mem.write, Mem.read, hv, hj]
      · by_cases hj : j = a
        · subst hj
          simp [Mem.write, Mem.read, ha, hb, ih (b + 1) h3]
        · simp [Mem.write, Mem.read, ha, hb, ih (b + 1) h3, hj]

end Sys2Proof.Laws
end

