-- ==== Sys2Proof/Laws/Answers.lean ====
section
/-!
SUPPORT. Taking a command and completing it: the submission ring moves on by one entry, and the completion reaches the host.
-/
namespace Sys2Proof.Laws

open Sys2Proof.Machine

/-! ### What has been sent only grows -/

end Sys2Proof.Laws

namespace Sys2Proof.Machine

open Sys2Proof.Laws

theorem Grew.refl (s : State) : Grew s s := ⟨⟨[], by simp⟩⟩

end Sys2Proof.Machine

namespace Sys2Proof.Laws

open Sys2Proof.Machine

theorem Sent.grew {s t : State} (h : Sent s t) : Grew s t := ⟨h.out⟩

end Sys2Proof.Laws

namespace Sys2Proof.Machine

open Sys2Proof.Laws

theorem Grew.of_hif {s t : State} (h : t.hif = s.hif) : Grew s t := ⟨⟨[], by rw [h]; simp⟩⟩

theorem Grew.trans {s t u : State} (h : Grew s t) (g : Grew t u) : Grew s u := by
  obtain ⟨l, hl⟩ := h.out
  obtain ⟨m, hm⟩ := g.out
  exact ⟨⟨l ++ m, by rw [hm, hl, List.append_assoc]⟩⟩

theorem Grew.ite {s t u : State} {c : Prop} [Decidable c] (ht : Grew s t) (hu : Grew s u) : Grew s (if c then t else u) := by
  split
  · exact ht
  · exact hu

end Sys2Proof.Machine

namespace Sys2Proof.Laws

open Sys2Proof.Machine

/-- `t` agrees with `s` in the host interface, the rings, the command block and the archive. -/
structure Io (s t : State) : Prop where
  hif : t.hif = s.hif
  rng : t.rng = s.rng
  cmd : t.cmd = s.cmd
  cis : t.cis = s.cis

theorem Io.refl (s : State) : Io s s := ⟨rfl, rfl, rfl, rfl⟩

theorem Io.trans {s t u : State} (h : Io s t) (g : Io t u) : Io s u :=
  ⟨g.hif.trans h.hif, g.rng.trans h.rng, g.cmd.trans h.cmd, g.cis.trans h.cis⟩

theorem Io.ite {s t u : State} {c : Prop} [Decidable c] (ht : Io s t) (hu : Io s u) : Io s (if c then t else u) := by
  split
  · exact ht
  · exact hu

theorem spanNow_io (s : State) : Io s (spanNow s) := by
  unfold spanNow; split <;> constructor <;> rfl

theorem record_io (s : State) (e : EvReq) (sev k depth rflags : Nat) : Io s (record s e sev k depth rflags) := by
  unfold record
  refine (spanNow_io s).trans ?_
  extract_lets s0 n s1 r
  exact Io.ite (by constructor <;> rfl) (Io.ite (by constructor <;> rfl) (by constructor <;> rfl))

theorem inform_io (s : State) (e : EvReq) : Io s (inform s e) := record_io _ _ _ _ _ _

theorem admitRecord_grew (s : State) (r : EventRec) : Grew s (admitRecord s r) := by
  unfold admitRecord
  refine Grew.ite (deliver_sent s r).grew (Grew.ite ?_ ?_)
  · exact Grew.trans (t := tailPush s (eventItem r)) (Grew.of_hif rfl) (deliver_sent _ r).grew
  · generalize (if exemptEvent r.id r.sev = true then 8192 else 7168) = n
    split <;> exact Grew.of_hif rfl

theorem issueRaised_grew (s : State) (x : Raised) : Grew s (issueRaised s x) := by
  unfold issueRaised issueRecord
  refine Grew.trans ?_ (admitRecord_grew _ _)
  split <;> exact Grew.of_hif rfl

theorem issueAll_grew (l : List Raised) (s : State) : Grew s (l.foldl issueRaised s) := by
  induction l generalizing s with
  | nil => exact Grew.refl s
  | cons x l ih => exact (issueRaised_grew s x).trans (ih _)

theorem issueBatch_grew (s : State) : Grew s (issueBatch s) :=
  Grew.trans (t := { s with ev := { s.ev with batch := [] } }) (Grew.of_hif rfl) (issueAll_grew _ _)

/-- A fault that does not escalate its domain reaches neither a ring, nor the host interface, nor the command block. -/
theorem raise_io (s : State) (e : EvReq)
    (h : roomy s (match e.dom with | some t => 16 + t | none => defaultDomain e.id) = true) : Io s (raise s e) := by
  unfold raise
  extract_lets sev k p e1 s1 s2 v3 s3
  refine Io.ite (inform_io _ _) ?_
  have hi : Io s s3 := (record_io s e1 sev k (placeDepth (dom s k) p) 0).trans (by constructor <;> rfl)
  have hp : ∀ c, p ≠ .escalate c := fun c => placeFault_roomy s k sev c e.nested h
  clear_value s3 p
  cases p
  case escalate c => exact absurd rfl (hp c)
  all_goals exact hi.trans (by constructor <;> rfl)

theorem noteTail_grew (s : State) (h : roomy s 6 = true) : Grew s (noteTail s) := by
  unfold noteTail
  refine Grew.ite (Grew.of_hif ?_) (Grew.refl s)
  exact (raise_io _ _ h).hif

theorem settle_grew (s : State) (hr : s.pwr.inReset = false) (h : roomy s 6 = true) : Grew s (settle s) := by
  unfold settle
  rw [if_neg (by simp [hr])]
  refine ((issueBatch_grew s).trans (noteTail_grew _ ?_)).trans (issueBatch_grew _)
  unfold roomy dom at h ⊢
  rw [issueBatch_doms]; exact h

theorem setRingState_grew (s : State) (t i : Nat) (st : RingState) (c : Nat) : Grew s (setRingState s t i st c) := by
  unfold setRingState
  extract_lets old v s1 s2
  refine Grew.trans ?_ (writeShadow_sent _ t i).grew
  exact (Grew.of_hif (s := s) (t := s1) rfl).trans (Grew.of_hif (inform_io _ _).hif)

theorem completeOne_sent (s : State) (d : Desc) (q st x : Nat) (r : Bytes) : Sent s (completeOne s d q st x r) := by
  unfold completeOne
  extract_lets c r0
  exact Sent.ite ((setRing_sent _ _ _ _).trans (produce_sent _ _ _ _)) (Sent.refl s)

theorem settleDelete_grew (s : State) (d : Desc) : Grew s (settleDelete s d) := by
  unfold settleDelete
  refine Grew.ite ?_ (Grew.refl s)
  split
  · refine Grew.trans ?_ (completeOne_sent _ _ _ _ _ _).grew
    refine Grew.trans ?_ (setRingState_grew _ _ _ _ _)
    exact Grew.of_hif rfl
  · exact Grew.refl s

/-! ### Rings by index -/

theorem ring_setRing (s : State) (t i t' i' : Nat) (r : Ring) :
    ring (setRing s t i r) t' i' = if ringKey t' i' = ringKey t i then r else ring s t' i' := tget_tput _ _ _ _ _

theorem ring_setRing_self (s : State) (t i : Nat) (r : Ring) : ring (setRing s t i r) t i = r := by
  rw [ring_setRing, if_pos rfl]

theorem ring_setRing_ne (s : State) (t i j : Nat) (r : Ring) (h : j ≠ i) : ring (setRing s t i r) t j = ring s t j := by
  rw [ring_setRing, if_neg]; unfold ringKey; omega

theorem dma_rng (s : State) (t a : Nat) (b : Bytes) : (dma s t a b).rng = s.rng := by
  unfold dma; split <;> rfl

theorem dma_live (s : State) (t a : Nat) (b : Bytes) (u : Nat) : live (dma s t a b) u = live s u := by
  unfold dma; split <;> rfl

/-! ### Taking a command -/

theorem taken_ready {s : State} {d : Desc} {opc : Nat} {data : Bool} (h : taken s d opc data = true) : ready s d = true := by
  unfold taken at h
  simp only [Bool.and_eq_true] at h
  exact h.1.1

/-- What `ready` says of the two rings (R487). -/
theorem ready_rings {s : State} {d : Desc} (h : ready s d = true) :
    (ctx s d.tenant).state = .active ∧ (ring s d.tenant d.ring).state = .active ∧
      (ring s d.tenant (cplOf s d)).state = .active ∧ (ring s d.tenant (cplOf s d)).typ = .cpl ∧ cplOf s d ≠ d.ring ∧
      ((ring s d.tenant d.ring).typ = .adm ∨ (ring s d.tenant d.ring).typ = .sub) ∧ running s = true := by
  unfold ready at h
  simp only [Bool.and_eq_true, Bool.or_eq_true, beq_iff_eq, decide_eq_true_eq] at h
  obtain ⟨⟨⟨⟨⟨⟨⟨⟨⟨⟨⟨h1, _⟩, _⟩, h2⟩, h3⟩, h4⟩, _⟩, h5⟩, h6⟩, _⟩, _⟩, _⟩ := h
  refine ⟨h2, h3, h5, h6, ?_, h4, h1⟩
  intro he
  rw [he] at h6
  rcases h4 with h4 | h4 <;> rw [h4] at h6 <;> cases h6

theorem hostCmd_taken {s : State} {d : Desc} {opc : Nat} {data : Bool} (act : State → State) (h : taken s d opc data = true) :
    hostCmd s d opc data act = settle (act (take s d)) := by
  unfold taken at h
  simp only [Bool.and_eq_true, beq_iff_eq] at h
  unfold hostCmd
  simp [h.1.1, h.1.2, h.2]

theorem cplOf_congr {s u : State} {d : Desc} (h : (ring u d.tenant d.ring).pair = (ring s d.tenant d.ring).pair) :
    cplOf u d = cplOf s d := by
  unfold cplOf; rw [h]

/-- A taken command has moved its ring on by one entry; its completion ring is as it was but for the reservation. -/
theorem take_rings {s : State} {d : Desc} (h : ready s d = true) :
    cplOf (take s d) d = cplOf s d ∧
      ring (take s d) d.tenant d.ring = { ring s d.tenant d.ring with
        head := ((ring s d.tenant d.ring).head + 1) % ringSize (ring s d.tenant d.ring)
        total := ((ring s d.tenant d.ring).total + 1) % 2 ^ 32
        posts := (ring s d.tenant d.ring).posts.tail } ∧
      ring (take s d) d.tenant (cplOf s d) = { ring s d.tenant (cplOf s d) with
        reserved := (ring s d.tenant (cplOf s d)).reserved + 1 } := by
  obtain ⟨_, _, _, _, hne, ht, _⟩ := ready_rings h
  have hc : (consumeEntry s d.tenant d.ring).rng = (setRing s d.tenant d.ring { ring s d.tenant d.ring with
        head := ((ring s d.tenant d.ring).head + 1) % ringSize (ring s d.tenant d.ring)
        total := ((ring s d.tenant d.ring).total + 1) % 2 ^ 32
        posts := (ring s d.tenant d.ring).posts.tail }).rng := by
    unfold consumeEntry
    extract_lets r before r1 s1
    have e : ∀ u : State, (writeShadow u d.tenant d.ring).rng = u.rng := fun u => dma_rng _ _ _ _
    have e1 : r.typ = .adm ∨ r.typ = .sub := ht
    split
    · exact e s1
    · exact e s1
    · rename_i h1 h2
      rcases e1 with e1 | e1
      · exact absurd e1 h1
      · exact absurd e1 h2
  have hr : ∀ i, ring (consumeEntry s d.tenant d.ring) d.tenant i = ring (setRing s d.tenant d.ring { ring s d.tenant d.ring with
        head := ((ring s d.tenant d.ring).head + 1) % ringSize (ring s d.tenant d.ring)
        total := ((ring s d.tenant d.ring).total + 1) % 2 ^ 32
        posts := (ring s d.tenant d.ring).posts.tail }) d.tenant i := by
    intro i; unfold ring; rw [hc]; rfl
  have hcp : cplOf (consumeEntry s d.tenant d.ring) d = cplOf s d := by
    unfold cplOf; rw [hr, ring_setRing_self]
  have ht' : take s d = setRing (consumeEntry s d.tenant d.ring) d.tenant (cplOf s d)
      { ring (consumeEntry s d.tenant d.ring) d.tenant (cplOf s d) with
        reserved := (ring (consumeEntry s d.tenant d.ring) d.tenant (cplOf s d)).reserved + 1 } := by
    rw [← hcp]; rfl
  have hs := fun e => hne (Eq.symm e)
  rw [ht']
  refine ⟨?_, ?_, ?_⟩
  · refine cplOf_congr ?_
    rw [ring_setRing_ne _ _ _ _ _ hs, hr, ring_setRing_self]
  · rw [ring_setRing_ne _ _ _ _ _ hs, hr, ring_setRing_self]
  · rw [ring_setRing_self, hr, ring_setRing_ne _ _ _ _ _ hne]

theorem take_live (s : State) (d : Desc) (h : (ring s d.tenant d.ring).typ = .adm ∨ (ring s d.tenant d.ring).typ = .sub) (u : Nat) :
    live (take s d) u = live s u := by
  unfold take consumeEntry
  extract_lets r before r1 s1 s2 c
  have e : ∀ v : State, live (writeShadow v d.tenant d.ring) u = live v u := fun v => dma_live _ _ _ _ _
  have e1 : r.typ = .adm ∨ r.typ = .sub := h
  have : live s2 u = live s u := by
    simp only [s2]
    split
    · exact e s1
    · exact e s1
    · rename_i h1 h2
      rcases e1 with e1 | e1
      · exact absurd e1 h1
      · exact absurd e1 h2
  exact this

/-! ### The completion -/

theorem produce_out {s : State} {t : Nat} (i : Nat) (b : Bytes) (h : live s t = true) :
    ∃ after, (produce s t i b).hif.out =
      s.hif.out ++ [.write t ((ring s t i).base + (ring s t i).tail * entrySize (ring s t i).typ) b] ++ after := by
  unfold produce
  extract_lets r s1 tail r1 s2
  have e : s2.hif.out = s.hif.out ++ [.write t (r.base + r.tail * entrySize r.typ) b] := by
    change s1.hif.out = _
    simp only [s1]
    unfold dma
    rw [if_pos h]
  have g : Grew s2 (if max 1 r.modCnt ≤ r1.unsig ∨ r.modUs = 0 then signalRing s2 t i else s2) :=
    Grew.ite (signalRing_sent _ _ _).grew (Grew.refl _)
  obtain ⟨l, hl⟩ := g.out
  exact ⟨l, by rw [hl, e]⟩

/-- The completion of a taken command reaches the host, whatever the meaning has done to other blocks in between. -/
theorem complete_answered {s u : State} {d : Desc} {st x : Nat} {res : Bytes}
    (h : ready s d = true) (hl : live s d.tenant = true) (hr : u.rng = (take s d).rng) (hc : u.hif.ctxs = s.hif.ctxs)
    (hu : live u d.tenant = live (take s d) d.tenant) (ho : Grew (take s d) u) :
    answered s (complete u d (ring u d.tenant d.ring).head st x res) d st x res := by
  obtain ⟨ha, _, hca, hct, hne, ht, _⟩ := ready_rings h
  obtain ⟨t1, t2, t3⟩ := take_rings h
  have rr : ∀ i, ring u d.tenant i = ring (take s d) d.tenant i := by intro i; unfold ring; rw [hr]
  have ec : cplOf u d = cplOf s d := by
    have : cplOf u d = cplOf (take s d) d := by unfold cplOf; rw [rr]
    rw [this, t1]
  have eh : (ring u d.tenant d.ring).head = ((ring s d.tenant d.ring).head + 1) % ringSize (ring s d.tenant d.ring) := by
    rw [rr, t2]
  rw [eh]
  have hact : (ctx u d.tenant).state = .active := by unfold ctx; rw [hc]; exact ha
  obtain ⟨l0, hl0⟩ := (take_sent s d).out
  obtain ⟨l1, hl1⟩ := ho.out
  have key : ∃ after, (completeOne u d (((ring s d.tenant d.ring).head + 1) % ringSize (ring s d.tenant d.ring)) st x res).hif.out =
      u.hif.out ++ [.write d.tenant ((ring s d.tenant (cplOf s d)).base + (ring s d.tenant (cplOf s d)).tail * 32)
        (cplBytes d.cid st (((ring s d.tenant d.ring).head + 1) % ringSize (ring s d.tenant d.ring)) d.ring
          (ring s d.tenant (cplOf s d)).phase x res)] ++ after := by
    unfold completeOne
    extract_lets c r
    have e1 : c = cplOf s d := ec
    have e2 : r = { ring s d.tenant (cplOf s d) with reserved := (ring s d.tenant (cplOf s d)).reserved + 1 } := by
      simp only [r]; rw [e1, rr, t3]
    have e3 : r.state = .active := by rw [e2]; exact hca
    rw [if_pos ⟨hact, e3⟩]
    have hlu : live (setRing u d.tenant c { r with reserved := r.reserved - 1 }) d.tenant = true := by
      have e5 : live (setRing u d.tenant c { r with reserved := r.reserved - 1 }) d.tenant = live u d.tenant := rfl
      rw [e5, hu, take_live s d ht]; exact hl
    obtain ⟨after, ha⟩ := produce_out c (cplBytes d.cid st (((ring s d.tenant d.ring).head + 1) % ringSize (ring s d.tenant d.ring))
      d.ring r.phase x res) hlu
    refine ⟨after, ?_⟩
    rw [ring_setRing_self] at ha
    have e6 : (setRing u d.tenant c { r with reserved := r.reserved - 1 }).hif.out = u.hif.out := rfl
    rw [ha, e6, e2]
    simp only [hct, entrySize]
  obtain ⟨l2, hl2⟩ := key
  obtain ⟨l3, hl3⟩ := (settleDelete_grew (completeOne u d (((ring s d.tenant d.ring).head + 1) % ringSize (ring s d.tenant d.ring)) st x res) d).out
  refine ⟨l0 ++ l1, l2 ++ l3, ?_⟩
  unfold complete
  rw [hl3, hl2, hl1, hl0]
  simp [List.append_assoc]

theorem answered_grew {s t u : State} {d : Desc} {st x : Nat} {res : Bytes} (h : answered s t d st x res) (g : Grew t u) :
    answered s u d st x res := by
  obtain ⟨a, b, hab⟩ := h
  obtain ⟨l, hl⟩ := g.out
  exact ⟨a, b ++ l, by rw [hl, hab]; simp [List.append_assoc]⟩

/-! ### The whole of a host command -/

theorem record_doms (s : State) (e : EvReq) (sev k depth rflags : Nat) : (record s e sev k depth rflags).ev.doms = s.ev.doms := by
  unfold record
  have h0 : (spanNow s).ev.doms = s.ev.doms := by
    unfold spanNow; split <;> rfl
  extract_lets s0 n s1 r
  split
  · exact h0
  · split <;> exact h0

theorem setRingState_doms (s : State) (t i : Nat) (st : RingState) (c : Nat) : (setRingState s t i st c).ev.doms = s.ev.doms := by
  unfold setRingState
  extract_lets old v s1 s2
  rw [(writeShadow_sent s2 t i).ev]
  exact (record_doms s1 _ _ _ _ _).trans rfl

theorem complete_doms (s : State) (d : Desc) (q st x : Nat) (r : Bytes) : (complete s d q st x r).ev.doms = s.ev.doms := by
  unfold complete settleDelete
  have h : (completeOne s d q st x r).ev.doms = s.ev.doms := by rw [(completeOne_sent _ _ _ _ _ _).ev]
  split
  · split
    · rw [(completeOne_sent _ _ _ _ _ _).ev, setRingState_doms]
      exact h
    · exact h
  · exact h

theorem roomy_congr {s t : State} {k : Nat} (h : t.ev.doms = s.ev.doms) : roomy t k = roomy s k := by
  unfold roomy dom; rw [h]

/-- A command that is taken and completes with a status: the host gets the completion, and the step changes no more than the
meaning did. -/
theorem host_done {s u : State} {d : Desc} {opc : Nat} {data : Bool} {st x : Nat} {res : Bytes} (act : State → State)
    (h : taken s d opc data = true) (hl : live s d.tenant = true)
    (hact : act (take s d) = complete u d (ring u d.tenant d.ring).head st x res)
    (hr : u.rng = (take s d).rng) (hc : u.hif.ctxs = s.hif.ctxs) (hu : live u d.tenant = live (take s d) d.tenant)
    (ho : Grew (take s d) u) (hp : u.pwr.inReset = false) (h6 : roomy u 6 = true) :
    answered s (hostCmd s d opc data act) d st x res ∧ Kept u (hostCmd s d opc data act) := by
  rw [hostCmd_taken act h, hact]
  have hk := complete_kept u d (ring u d.tenant d.ring).head st x res
  have hp' : (complete u d (ring u d.tenant d.ring).head st x res).pwr.inReset = false := by rw [hk.pwr]; exact hp
  have h6' : roomy (complete u d (ring u d.tenant d.ring).head st x res) 6 = true := by
    rw [roomy_congr (complete_doms _ _ _ _ _ _)]; exact h6
  exact ⟨answered_grew (complete_answered (taken_ready h) hl hr hc hu ho) (settle_grew _ hp' h6'), hk.trans (settle_kept _ hp' h6')⟩

end Sys2Proof.Laws
end

