-- ==== Sys2Proof/Laws/Told.lean ====
section
/-!
SUPPORT. What the end of a step and the reports of a step leave alone outside the blocks of `Kept`: the state of functions and
contexts, the identity of rings, the commands in processing.
-/
namespace Sys2Proof.Laws

open Sys2Proof.Machine

end Sys2Proof.Laws

namespace Sys2Proof.Machine

open Sys2Proof.Laws

theorem Told.refl (s : State) : Told s s := ⟨Kept.refl s, rfl, fun _ => rfl, fun _ _ => rfl, rfl, Grew.refl s⟩

theorem Told.trans {s t u : State} (h : Told s t) (g : Told t u) : Told s u :=
  ⟨h.kept.trans g.kept, g.hif.trans h.hif, fun k => (g.fn k).trans (h.fn k), fun k i => (g.ids k i).trans (h.ids k i),
   g.cmd.trans h.cmd, h.out.trans g.out⟩

theorem Told.ite {s t u : State} {c : Prop} [Decidable c] (ht : Told s t) (hu : Told s u) : Told s (if c then t else u) := by
  split
  · exact ht
  · exact hu

theorem Told.foldl {α : Type} (f : State → α → State) (hf : ∀ s a, Told s (f s a)) (l : List α) (s : State) :
    Told s (l.foldl f s) := by
  induction l generalizing s with
  | nil => exact Told.refl s
  | cons a l ih => exact (hf s a).trans (ih (f s a))

/-- A change of the event block or the archive alone. -/
theorem Told.of_io {s t : State} (k : Kept s t) (hif : t.hif = s.hif) (rng : t.rng = s.rng) (cmd : t.cmd = s.cmd) : Told s t :=
  ⟨k, by rw [hif], fun _ => by unfold func; rw [hif], fun _ _ => by unfold ring; rw [rng], cmd, Grew.of_hif hif⟩

end Sys2Proof.Machine

namespace Sys2Proof.Laws

open Sys2Proof.Machine

theorem dma_told (s : State) (t a : Nat) (b : Bytes) : Told s (dma s t a b) := by
  refine ⟨dma_kept _ _ _ _, ?_, ?_, ?_, (dma_sent _ _ _ _).cmd, (dma_sent _ _ _ _).grew⟩
  · unfold dma; split <;> rfl
  · intro k; unfold dma; split <;> rfl
  · intro k i; unfold ring; rw [dma_rng]

theorem sendMsi_told (s : State) (t v : Nat) : Told s (sendMsi s t v) := by
  refine ⟨sendMsi_kept _ _ _, ?_, ?_, ?_, (sendMsi_sent _ _ _).cmd, (sendMsi_sent _ _ _).grew⟩
  · unfold sendMsi; extract_lets f
    split
    · split <;> rfl
    · rfl
  · intro k
    unfold sendMsi; extract_lets f
    split
    · split
      · change fnRest (tget {} (tput s.hif.funcs t _) k) = _
        rw [tget_tput]
        split
        · rename_i h; subst h; rfl
        · rfl
      · rfl
    · rfl
  · intro k i
    unfold sendMsi; extract_lets f
    split
    · split <;> rfl
    · rfl

theorem setRing_told (s : State) (t i : Nat) (r : Ring) (h : ringIds r = ringIds (ring s t i)) : Told s (setRing s t i r) := by
  refine ⟨setRing_kept _ _ _ _, rfl, fun _ => rfl, ?_, rfl, (setRing_sent _ _ _ _).grew⟩
  intro k j
  rw [ring_setRing]
  split
  · rename_i e
    have : ring s k j = ring s t i := by unfold ring; rw [e]
    rw [this]; exact h
  · rfl

theorem writeShadow_told (s : State) (t i : Nat) : Told s (writeShadow s t i) := dma_told _ _ _ _

theorem signalRing_told (s : State) (t i : Nat) : Told s (signalRing s t i) := by
  have h := (setRing_told s t i { ring s t i with unsig := 0 } rfl).trans (writeShadow_told _ t i)
  unfold signalRing
  exact Told.ite (h.trans (sendMsi_told _ _ _)) h

theorem produce_told (s : State) (t i : Nat) (b : Bytes) : Told s (produce s t i b) := by
  unfold produce
  extract_lets r s1 tail r1 s2
  have e : ring s1 t i = r := by unfold ring; rw [dma_rng]; rfl
  have h : Told s s2 := (dma_told s t _ b).trans (setRing_told s1 t i r1 (by rw [e]; rfl))
  exact Told.ite (h.trans (signalRing_told _ _ _)) h

theorem consumeEntry_told (s : State) (t i : Nat) : Told s (consumeEntry s t i) := by
  unfold consumeEntry
  extract_lets r before r1 s1
  have h : Told s s1 := setRing_told s t i r1 rfl
  split
  · exact h.trans (writeShadow_told s1 t i)
  · exact h.trans (writeShadow_told s1 t i)
  · exact Told.ite (h.trans (signalRing_told s1 t i)) h

theorem take_told (s : State) (d : Desc) : Told s (take s d) := by
  unfold take
  extract_lets s1 c
  exact (consumeEntry_told s d.tenant d.ring).trans (setRing_told _ _ _ _ rfl)

theorem evtPush_told (s : State) (t i : Nat) (r : EventRec) : Told s (evtPush s t i r) := by
  unfold evtPush
  extract_lets q l
  exact Told.ite (Told.refl s) (Told.ite (produce_told _ _ _ _) (Told.ite (setRing_told _ _ _ _ rfl) (setRing_told _ _ _ _ rfl)))

theorem deliver_told (s : State) (r : EventRec) : Told s (deliver s r) := by
  unfold deliver
  refine Told.foldl _ (fun a t => ?_) _ _
  refine Told.ite ?_ (Told.refl a)
  split
  · exact evtPush_told _ _ _ _
  · exact Told.refl a

theorem admitRecord_told (s : State) (r : EventRec) : Told s (admitRecord s r) := by
  unfold admitRecord
  refine Told.ite (deliver_told _ _) (Told.ite ?_ ?_)
  · exact (Told.of_io (tailPush_kept _ _) rfl rfl rfl).trans (deliver_told _ _)
  · generalize (if exemptEvent r.id r.sev = true then 8192 else 7168) = n
    split
    · exact Told.of_io (by constructor <;> rfl) rfl rfl rfl
    · exact Told.of_io (by constructor <;> rfl) rfl rfl rfl

theorem issueRaised_told (s : State) (x : Raised) : Told s (issueRaised s x) := by
  unfold issueRaised issueRecord
  refine Told.trans ?_ (admitRecord_told _ _)
  split
  · exact Told.of_io (by constructor <;> rfl) rfl rfl rfl
  · exact Told.of_io (by constructor <;> rfl) rfl rfl rfl

theorem issueBatch_told (s : State) : Told s (issueBatch s) := by
  unfold issueBatch
  refine Told.trans ?_ (Told.foldl _ issueRaised_told _ _)
  exact Told.of_io (by constructor <;> rfl) rfl rfl rfl

theorem inform_told (s : State) (e : EvReq) : Told s (inform s e) :=
  Told.of_io (inform_kept _ _) (inform_io _ _).hif (inform_io _ _).rng (inform_io _ _).cmd

theorem raise_told (s : State) (e : EvReq)
    (h : roomy s (match e.dom with | some t => 16 + t | none => defaultDomain e.id) = true) : Told s (raise s e) :=
  Told.of_io (raise_kept s e h) (raise_io s e h).hif (raise_io s e h).rng (raise_io s e h).cmd

theorem noteTail_told (s : State) (h : roomy s 6 = true) : Told s (noteTail s) := by
  unfold noteTail
  refine Told.ite ?_ (Told.refl s)
  refine Told.trans ?_ (raise_told _ _ h)
  exact Told.of_io (by constructor <;> rfl) rfl rfl rfl

theorem settle_told (s : State) (hr : s.pwr.inReset = false) (h : roomy s 6 = true) : Told s (settle s) := by
  unfold settle
  rw [if_neg (by simp [hr])]
  refine ((issueBatch_told s).trans (noteTail_told _ ?_)).trans (issueBatch_told _)
  rw [roomy_congr (issueBatch_doms s)]; exact h

theorem completeOne_told (s : State) (d : Desc) (q st x : Nat) (r : Bytes) : Told s (completeOne s d q st x r) := by
  unfold completeOne
  extract_lets c r0
  refine Told.ite ?_ (Told.refl s)
  exact (setRing_told s d.tenant c { r0 with reserved := r0.reserved - 1 } rfl).trans (produce_told _ _ _ _)

/-- A completion into a ring that is not being deleted. -/
theorem complete_told (s : State) (d : Desc) (q st x : Nat) (r : Bytes) (h : (ring s d.tenant d.ring).state ≠ .deleting) :
    Told s (complete s d q st x r) := by
  have hc := completeOne_told s d q st x r
  unfold complete settleDelete
  rw [if_neg]
  · exact hc
  · intro hd
    have e : (ring (completeOne s d q st x r) d.tenant d.ring).state = (ring s d.tenant d.ring).state :=
      congrArg (fun p => p.2.1) (hc.ids d.tenant d.ring)
    exact h (e ▸ hd.1)

/-- The end of a step that runs: everything but events, archived items and what is sent stays as the meaning left it. -/
theorem whenRunning_told (s : State) (f : State → State) (h : running s = true) (hr : (f s).pwr.inReset = false)
    (h6 : roomy (f s) 6 = true) : Told (f s) (whenRunning s f) := by
  unfold whenRunning
  rw [if_pos h]
  exact settle_told _ hr h6

end Sys2Proof.Laws

namespace Sys2Proof.Machine

open Sys2Proof.Laws

theorem Told.ctx {s t : State} (h : Told s t) (k : Nat) : ctx t k = ctx s k := by
  have : (hifRest t.hif).ctxs = (hifRest s.hif).ctxs := by rw [h.hif]
  have : t.hif.ctxs = s.hif.ctxs := this
  unfold Sys2Proof.Machine.ctx; rw [this]

end Sys2Proof.Machine

namespace Sys2Proof.Laws

open Sys2Proof.Machine

/-- What `calm` says. -/
theorem calm_parts {s : State} (h : calm s = true) :
    running s = true ∧ s.pwr.inReset = false ∧ s.ev.batch = [] ∧ TailTold s ∧ roomy s 6 = true := by
  unfold calm running at h
  simp only [Bool.and_eq_true, Bool.not_eq_true', Bool.or_eq_true, beq_iff_eq] at h
  obtain ⟨⟨⟨h1, h2⟩, h3⟩, h4⟩ := h
  refine ⟨by unfold running; simp [h1], h1, h2, ?_, ?_⟩
  · intro hf
    rcases h3 with h3 | h3
    · rw [h3] at hf; cases hf
    · exact h3
  · unfold roomy; rw [h4]

/-- What `canTake` says. -/
theorem canTake_parts {s : State} {d : Desc} {opc : Nat} {data : Bool} (h : canTake s d opc data = true) :
    taken s d opc data = true ∧ live s d.tenant = true ∧ s.pwr.inReset = false ∧ roomy s 6 = true := by
  unfold canTake at h
  simp only [Bool.and_eq_true] at h
  obtain ⟨_, h2, _, _, h5⟩ := calm_parts h.2
  exact ⟨h.1.1, h.1.2, h2, h5⟩

/-- A step that raised nothing ends as it is. -/
theorem settle_quiet (s : State) (hr : s.pwr.inReset = false) (hb : s.ev.batch = []) (ht : TailTold s) : settle s = s := by
  have hi : issueBatch s = s := by
    unfold issueBatch
    rw [hb]
    have : ({ s with ev := { s.ev with batch := [] } } : State) = s := by rw [← hb]
    exact this
  unfold settle
  rw [if_neg (by simp [hr]), hi]
  have hn : noteTail s = s := by
    unfold noteTail
    rw [if_neg]
    intro h
    simp only [Bool.and_eq_true, Bool.not_eq_true'] at h
    rw [ht h.1] at h
    cases h.2
  rw [hn, hi]

/-- A command that raises nothing, on a hub that runs: the step is the meaning. -/
theorem whenRunning_quiet {s : State} (f : State → State) (h : calm s = true) (hr : (f s).pwr = s.pwr) (he : (f s).ev.batch = s.ev.batch)
    (hc : (f s).cis = s.cis) : whenRunning s f = f s := by
  obtain ⟨h1, h2, h3, h4, _⟩ := calm_parts h
  unfold whenRunning
  rw [if_pos h1]
  refine settle_quiet _ (by rw [hr]; exact h2) (by rw [he]; exact h3) ?_
  unfold TailTold; rw [hc]; exact h4

theorem roomy_take (s : State) (d : Desc) (k : Nat) : roomy (take s d) k = roomy s k :=
  roomy_congr (by rw [(take_sent s d).ev])

/-- A command whose meaning changes no ring and completes at once: its completion reaches the host, and the step changes no more
than the meaning did. -/
theorem host_finish {s u : State} {d : Desc} {opc : Nat} {data : Bool} {st x : Nat} {res : Bytes} (act : State → State)
    (h : canTake s d opc data = true)
    (hact : act (take s d) = complete u d (ring u d.tenant d.ring).head st x res)
    (hr : u.rng = (take s d).rng) (hc : u.hif = (take s d).hif) (hp : u.pwr.inReset = s.pwr.inReset) (h6 : roomy u 6 = true) :
    answered s (hostCmd s d opc data act) d st x res ∧ Told u (hostCmd s d opc data act) := by
  obtain ⟨ht, hl, hi, _⟩ := canTake_parts h
  have hp' : u.pwr.inReset = false := by rw [hp, hi]
  have hlive : live u d.tenant = live (take s d) d.tenant := by unfold live funcExists func; rw [hc]
  have hctx : u.hif.ctxs = s.hif.ctxs := by rw [hc]; exact (take_sent s d).ctxs
  refine ⟨(host_done act ht hl hact hr hctx hlive (Grew.of_hif hc) hp' h6).1, ?_⟩
  rw [hostCmd_taken act ht, hact]
  have hd : (ring u d.tenant d.ring).state ≠ .deleting := by
    have : ring u d.tenant d.ring = ring (take s d) d.tenant d.ring := by unfold ring; rw [hr]
    rw [this, (take_rings (taken_ready ht)).2.1]
    have := (ready_rings (taken_ready ht)).2.1
    simp [this]
  have hk := complete_told u d (ring u d.tenant d.ring).head st x res hd
  refine hk.trans (settle_told _ ?_ ?_)
  · rw [hk.kept.pwr]; exact hp'
  · rw [roomy_congr (complete_doms _ _ _ _ _ _)]; exact h6

end Sys2Proof.Laws
end

