-- ==== Sys2Proof/Laws/State.lean ====
section
/-!
SUPPORT. What each named update of State changes, and that a frame passes through an update of one block.
-/
namespace Sys2Proof.Laws

open Sys2Proof.Machine

/-! ### Updates -/

@[simp] theorem setRing_pending (s : State) (t i : Nat) (r : Ring) : (setRing s t i r).pending = s.pending := rfl
@[simp] theorem setRing_free (s : State) (t i : Nat) (r : Ring) : (setRing s t i r).free = s.free := rfl
@[simp] theorem setRing_clk (s : State) (t i : Nat) (r : Ring) : (setRing s t i r).clk = s.clk := rfl
@[simp] theorem setRing_bkd (s : State) (t i : Nat) (r : Ring) : (setRing s t i r).bkd = s.bkd := rfl
@[simp] theorem setRing_ply (s : State) (t i : Nat) (r : Ring) : (setRing s t i r).ply = s.ply := rfl
@[simp] theorem setRing_flt (s : State) (t i : Nat) (r : Ring) : (setRing s t i r).flt = s.flt := rfl
@[simp] theorem setRing_met (s : State) (t i : Nat) (r : Ring) : (setRing s t i r).met = s.met := rfl
@[simp] theorem setRing_pqe (s : State) (t i : Nat) (r : Ring) : (setRing s t i r).pqe = s.pqe := rfl
@[simp] theorem setRing_lgl (s : State) (t i : Nat) (r : Ring) : (setRing s t i r).lgl = s.lgl := rfl
@[simp] theorem setRing_tar (s : State) (t i : Nat) (r : Ring) : (setRing s t i r).tar = s.tar := rfl
@[simp] theorem setRing_crd (s : State) (t i : Nat) (r : Ring) : (setRing s t i r).crd = s.crd := rfl
@[simp] theorem setRing_cus (s : State) (t i : Nat) (r : Ring) : (setRing s t i r).cus = s.cus := rfl
@[simp] theorem setRing_key (s : State) (t i : Nat) (r : Ring) : (setRing s t i r).key = s.key := rfl
@[simp] theorem setRing_cmp (s : State) (t i : Nat) (r : Ring) : (setRing s t i r).cmp = s.cmp := rfl
@[simp] theorem setRing_ann (s : State) (t i : Nat) (r : Ring) : (setRing s t i r).ann = s.ann := rfl
@[simp] theorem setRing_cis (s : State) (t i : Nat) (r : Ring) : (setRing s t i r).cis = s.cis := rfl
@[simp] theorem setRing_ev (s : State) (t i : Nat) (r : Ring) : (setRing s t i r).ev = s.ev := rfl
@[simp] theorem setRing_hif (s : State) (t i : Nat) (r : Ring) : (setRing s t i r).hif = s.hif := rfl
@[simp] theorem setRing_cmd (s : State) (t i : Nat) (r : Ring) : (setRing s t i r).cmd = s.cmd := rfl
@[simp] theorem setRing_slu (s : State) (t i : Nat) (r : Ring) : (setRing s t i r).slu = s.slu := rfl
@[simp] theorem setRing_ril (s : State) (t i : Nat) (r : Ring) : (setRing s t i r).ril = s.ril := rfl
@[simp] theorem setRing_pwr (s : State) (t i : Nat) (r : Ring) : (setRing s t i r).pwr = s.pwr := rfl
@[simp] theorem setRing_reg (s : State) (t i : Nat) (r : Ring) : (setRing s t i r).reg = s.reg := rfl

@[simp] theorem setCtx_pending (s : State) (t : Nat) (c : Ctx) : (setCtx s t c).pending = s.pending := rfl
@[simp] theorem setCtx_free (s : State) (t : Nat) (c : Ctx) : (setCtx s t c).free = s.free := rfl
@[simp] theorem setCtx_clk (s : State) (t : Nat) (c : Ctx) : (setCtx s t c).clk = s.clk := rfl
@[simp] theorem setCtx_bkd (s : State) (t : Nat) (c : Ctx) : (setCtx s t c).bkd = s.bkd := rfl
@[simp] theorem setCtx_ply (s : State) (t : Nat) (c : Ctx) : (setCtx s t c).ply = s.ply := rfl
@[simp] theorem setCtx_flt (s : State) (t : Nat) (c : Ctx) : (setCtx s t c).flt = s.flt := rfl
@[simp] theorem setCtx_met (s : State) (t : Nat) (c : Ctx) : (setCtx s t c).met = s.met := rfl
@[simp] theorem setCtx_pqe (s : State) (t : Nat) (c : Ctx) : (setCtx s t c).pqe = s.pqe := rfl
@[simp] theorem setCtx_lgl (s : State) (t : Nat) (c : Ctx) : (setCtx s t c).lgl = s.lgl := rfl
@[simp] theorem setCtx_tar (s : State) (t : Nat) (c : Ctx) : (setCtx s t c).tar = s.tar := rfl
@[simp] theorem setCtx_crd (s : State) (t : Nat) (c : Ctx) : (setCtx s t c).crd = s.crd := rfl
@[simp] theorem setCtx_cus (s : State) (t : Nat) (c : Ctx) : (setCtx s t c).cus = s.cus := rfl
@[simp] theorem setCtx_key (s : State) (t : Nat) (c : Ctx) : (setCtx s t c).key = s.key := rfl
@[simp] theorem setCtx_cmp (s : State) (t : Nat) (c : Ctx) : (setCtx s t c).cmp = s.cmp := rfl
@[simp] theorem setCtx_ann (s : State) (t : Nat) (c : Ctx) : (setCtx s t c).ann = s.ann := rfl
@[simp] theorem setCtx_cis (s : State) (t : Nat) (c : Ctx) : (setCtx s t c).cis = s.cis := rfl
@[simp] theorem setCtx_ev (s : State) (t : Nat) (c : Ctx) : (setCtx s t c).ev = s.ev := rfl
@[simp] theorem setCtx_rng (s : State) (t : Nat) (c : Ctx) : (setCtx s t c).rng = s.rng := rfl
@[simp] theorem setCtx_cmd (s : State) (t : Nat) (c : Ctx) : (setCtx s t c).cmd = s.cmd := rfl
@[simp] theorem setCtx_slu (s : State) (t : Nat) (c : Ctx) : (setCtx s t c).slu = s.slu := rfl
@[simp] theorem setCtx_ril (s : State) (t : Nat) (c : Ctx) : (setCtx s t c).ril = s.ril := rfl
@[simp] theorem setCtx_pwr (s : State) (t : Nat) (c : Ctx) : (setCtx s t c).pwr = s.pwr := rfl
@[simp] theorem setCtx_reg (s : State) (t : Nat) (c : Ctx) : (setCtx s t c).reg = s.reg := rfl

@[simp] theorem setDom_pending (s : State) (k : Nat) (d : Dom) : (setDom s k d).pending = s.pending := rfl
@[simp] theorem setDom_free (s : State) (k : Nat) (d : Dom) : (setDom s k d).free = s.free := rfl
@[simp] theorem setDom_clk (s : State) (k : Nat) (d : Dom) : (setDom s k d).clk = s.clk := rfl
@[simp] theorem setDom_bkd (s : State) (k : Nat) (d : Dom) : (setDom s k d).bkd = s.bkd := rfl
@[simp] theorem setDom_ply (s : State) (k : Nat) (d : Dom) : (setDom s k d).ply = s.ply := rfl
@[simp] theorem setDom_flt (s : State) (k : Nat) (d : Dom) : (setDom s k d).flt = s.flt := rfl
@[simp] theorem setDom_met (s : State) (k : Nat) (d : Dom) : (setDom s k d).met = s.met := rfl
@[simp] theorem setDom_pqe (s : State) (k : Nat) (d : Dom) : (setDom s k d).pqe = s.pqe := rfl
@[simp] theorem setDom_lgl (s : State) (k : Nat) (d : Dom) : (setDom s k d).lgl = s.lgl := rfl
@[simp] theorem setDom_tar (s : State) (k : Nat) (d : Dom) : (setDom s k d).tar = s.tar := rfl
@[simp] theorem setDom_crd (s : State) (k : Nat) (d : Dom) : (setDom s k d).crd = s.crd := rfl
@[simp] theorem setDom_cus (s : State) (k : Nat) (d : Dom) : (setDom s k d).cus = s.cus := rfl
@[simp] theorem setDom_key (s : State) (k : Nat) (d : Dom) : (setDom s k d).key = s.key := rfl
@[simp] theorem setDom_cmp (s : State) (k : Nat) (d : Dom) : (setDom s k d).cmp = s.cmp := rfl
@[simp] theorem setDom_ann (s : State) (k : Nat) (d : Dom) : (setDom s k d).ann = s.ann := rfl
@[simp] theorem setDom_cis (s : State) (k : Nat) (d : Dom) : (setDom s k d).cis = s.cis := rfl
@[simp] theorem setDom_hif (s : State) (k : Nat) (d : Dom) : (setDom s k d).hif = s.hif := rfl
@[simp] theorem setDom_rng (s : State) (k : Nat) (d : Dom) : (setDom s k d).rng = s.rng := rfl
@[simp] theorem setDom_cmd (s : State) (k : Nat) (d : Dom) : (setDom s k d).cmd = s.cmd := rfl
@[simp] theorem setDom_slu (s : State) (k : Nat) (d : Dom) : (setDom s k d).slu = s.slu := rfl
@[simp] theorem setDom_ril (s : State) (k : Nat) (d : Dom) : (setDom s k d).ril = s.ril := rfl
@[simp] theorem setDom_pwr (s : State) (k : Nat) (d : Dom) : (setDom s k d).pwr = s.pwr := rfl
@[simp] theorem setDom_reg (s : State) (k : Nat) (d : Dom) : (setDom s k d).reg = s.reg := rfl

@[simp] theorem setCue_pending (s : State) (i : Nat) (c : Cue) : (setCue s i c).pending = s.pending := rfl
@[simp] theorem setCue_free (s : State) (i : Nat) (c : Cue) : (setCue s i c).free = s.free := rfl
@[simp] theorem setCue_bkd (s : State) (i : Nat) (c : Cue) : (setCue s i c).bkd = s.bkd := rfl
@[simp] theorem setCue_ply (s : State) (i : Nat) (c : Cue) : (setCue s i c).ply = s.ply := rfl
@[simp] theorem setCue_flt (s : State) (i : Nat) (c : Cue) : (setCue s i c).flt = s.flt := rfl
@[simp] theorem setCue_met (s : State) (i : Nat) (c : Cue) : (setCue s i c).met = s.met := rfl
@[simp] theorem setCue_pqe (s : State) (i : Nat) (c : Cue) : (setCue s i c).pqe = s.pqe := rfl
@[simp] theorem setCue_lgl (s : State) (i : Nat) (c : Cue) : (setCue s i c).lgl = s.lgl := rfl
@[simp] theorem setCue_tar (s : State) (i : Nat) (c : Cue) : (setCue s i c).tar = s.tar := rfl
@[simp] theorem setCue_crd (s : State) (i : Nat) (c : Cue) : (setCue s i c).crd = s.crd := rfl
@[simp] theorem setCue_cus (s : State) (i : Nat) (c : Cue) : (setCue s i c).cus = s.cus := rfl
@[simp] theorem setCue_key (s : State) (i : Nat) (c : Cue) : (setCue s i c).key = s.key := rfl
@[simp] theorem setCue_cmp (s : State) (i : Nat) (c : Cue) : (setCue s i c).cmp = s.cmp := rfl
@[simp] theorem setCue_ann (s : State) (i : Nat) (c : Cue) : (setCue s i c).ann = s.ann := rfl
@[simp] theorem setCue_cis (s : State) (i : Nat) (c : Cue) : (setCue s i c).cis = s.cis := rfl
@[simp] theorem setCue_ev (s : State) (i : Nat) (c : Cue) : (setCue s i c).ev = s.ev := rfl
@[simp] theorem setCue_hif (s : State) (i : Nat) (c : Cue) : (setCue s i c).hif = s.hif := rfl
@[simp] theorem setCue_rng (s : State) (i : Nat) (c : Cue) : (setCue s i c).rng = s.rng := rfl
@[simp] theorem setCue_cmd (s : State) (i : Nat) (c : Cue) : (setCue s i c).cmd = s.cmd := rfl
@[simp] theorem setCue_slu (s : State) (i : Nat) (c : Cue) : (setCue s i c).slu = s.slu := rfl
@[simp] theorem setCue_ril (s : State) (i : Nat) (c : Cue) : (setCue s i c).ril = s.ril := rfl
@[simp] theorem setCue_pwr (s : State) (i : Nat) (c : Cue) : (setCue s i c).pwr = s.pwr := rfl
@[simp] theorem setCue_reg (s : State) (i : Nat) (c : Cue) : (setCue s i c).reg = s.reg := rfl

@[simp] theorem setBkd_pending (s : State) (f : Bkd → Bkd) : (setBkd s f).pending = s.pending := rfl
@[simp] theorem setBkd_free (s : State) (f : Bkd → Bkd) : (setBkd s f).free = s.free := rfl
@[simp] theorem setBkd_clk (s : State) (f : Bkd → Bkd) : (setBkd s f).clk = s.clk := rfl
@[simp] theorem setBkd_ply (s : State) (f : Bkd → Bkd) : (setBkd s f).ply = s.ply := rfl
@[simp] theorem setBkd_flt (s : State) (f : Bkd → Bkd) : (setBkd s f).flt = s.flt := rfl
@[simp] theorem setBkd_met (s : State) (f : Bkd → Bkd) : (setBkd s f).met = s.met := rfl
@[simp] theorem setBkd_pqe (s : State) (f : Bkd → Bkd) : (setBkd s f).pqe = s.pqe := rfl
@[simp] theorem setBkd_lgl (s : State) (f : Bkd → Bkd) : (setBkd s f).lgl = s.lgl := rfl
@[simp] theorem setBkd_tar (s : State) (f : Bkd → Bkd) : (setBkd s f).tar = s.tar := rfl
@[simp] theorem setBkd_crd (s : State) (f : Bkd → Bkd) : (setBkd s f).crd = s.crd := rfl
@[simp] theorem setBkd_cus (s : State) (f : Bkd → Bkd) : (setBkd s f).cus = s.cus := rfl
@[simp] theorem setBkd_key (s : State) (f : Bkd → Bkd) : (setBkd s f).key = s.key := rfl
@[simp] theorem setBkd_cmp (s : State) (f : Bkd → Bkd) : (setBkd s f).cmp = s.cmp := rfl
@[simp] theorem setBkd_ann (s : State) (f : Bkd → Bkd) : (setBkd s f).ann = s.ann := rfl
@[simp] theorem setBkd_cis (s : State) (f : Bkd → Bkd) : (setBkd s f).cis = s.cis := rfl
@[simp] theorem setBkd_ev (s : State) (f : Bkd → Bkd) : (setBkd s f).ev = s.ev := rfl
@[simp] theorem setBkd_hif (s : State) (f : Bkd → Bkd) : (setBkd s f).hif = s.hif := rfl
@[simp] theorem setBkd_rng (s : State) (f : Bkd → Bkd) : (setBkd s f).rng = s.rng := rfl
@[simp] theorem setBkd_cmd (s : State) (f : Bkd → Bkd) : (setBkd s f).cmd = s.cmd := rfl
@[simp] theorem setBkd_slu (s : State) (f : Bkd → Bkd) : (setBkd s f).slu = s.slu := rfl
@[simp] theorem setBkd_ril (s : State) (f : Bkd → Bkd) : (setBkd s f).ril = s.ril := rfl
@[simp] theorem setBkd_pwr (s : State) (f : Bkd → Bkd) : (setBkd s f).pwr = s.pwr := rfl
@[simp] theorem setBkd_reg (s : State) (f : Bkd → Bkd) : (setBkd s f).reg = s.reg := rfl

@[simp] theorem setFunc_pending (s : State) (f : Nat) (x : Func) : (setFunc s f x).pending = s.pending := rfl
@[simp] theorem setFunc_free (s : State) (f : Nat) (x : Func) : (setFunc s f x).free = s.free := rfl
@[simp] theorem setFunc_clk (s : State) (f : Nat) (x : Func) : (setFunc s f x).clk = s.clk := rfl
@[simp] theorem setFunc_bkd (s : State) (f : Nat) (x : Func) : (setFunc s f x).bkd = s.bkd := rfl
@[simp] theorem setFunc_ply (s : State) (f : Nat) (x : Func) : (setFunc s f x).ply = s.ply := rfl
@[simp] theorem setFunc_flt (s : State) (f : Nat) (x : Func) : (setFunc s f x).flt = s.flt := rfl
@[simp] theorem setFunc_met (s : State) (f : Nat) (x : Func) : (setFunc s f x).met = s.met := rfl
@[simp] theorem setFunc_pqe (s : State) (f : Nat) (x : Func) : (setFunc s f x).pqe = s.pqe := rfl
@[simp] theorem setFunc_lgl (s : State) (f : Nat) (x : Func) : (setFunc s f x).lgl = s.lgl := rfl
@[simp] theorem setFunc_tar (s : State) (f : Nat) (x : Func) : (setFunc s f x).tar = s.tar := rfl
@[simp] theorem setFunc_crd (s : State) (f : Nat) (x : Func) : (setFunc s f x).crd = s.crd := rfl
@[simp] theorem setFunc_cus (s : State) (f : Nat) (x : Func) : (setFunc s f x).cus = s.cus := rfl
@[simp] theorem setFunc_key (s : State) (f : Nat) (x : Func) : (setFunc s f x).key = s.key := rfl
@[simp] theorem setFunc_cmp (s : State) (f : Nat) (x : Func) : (setFunc s f x).cmp = s.cmp := rfl
@[simp] theorem setFunc_ann (s : State) (f : Nat) (x : Func) : (setFunc s f x).ann = s.ann := rfl
@[simp] theorem setFunc_cis (s : State) (f : Nat) (x : Func) : (setFunc s f x).cis = s.cis := rfl
@[simp] theorem setFunc_ev (s : State) (f : Nat) (x : Func) : (setFunc s f x).ev = s.ev := rfl
@[simp] theorem setFunc_rng (s : State) (f : Nat) (x : Func) : (setFunc s f x).rng = s.rng := rfl
@[simp] theorem setFunc_cmd (s : State) (f : Nat) (x : Func) : (setFunc s f x).cmd = s.cmd := rfl
@[simp] theorem setFunc_slu (s : State) (f : Nat) (x : Func) : (setFunc s f x).slu = s.slu := rfl
@[simp] theorem setFunc_ril (s : State) (f : Nat) (x : Func) : (setFunc s f x).ril = s.ril := rfl
@[simp] theorem setFunc_pwr (s : State) (f : Nat) (x : Func) : (setFunc s f x).pwr = s.pwr := rfl
@[simp] theorem setFunc_reg (s : State) (f : Nat) (x : Func) : (setFunc s f x).reg = s.reg := rfl

@[simp] theorem setAccount_pending (s : State) (t : Nat) (x : Credit) : (setAccount s t x).pending = s.pending := rfl
@[simp] theorem setAccount_free (s : State) (t : Nat) (x : Credit) : (setAccount s t x).free = s.free := rfl
@[simp] theorem setAccount_clk (s : State) (t : Nat) (x : Credit) : (setAccount s t x).clk = s.clk := rfl
@[simp] theorem setAccount_bkd (s : State) (t : Nat) (x : Credit) : (setAccount s t x).bkd = s.bkd := rfl
@[simp] theorem setAccount_ply (s : State) (t : Nat) (x : Credit) : (setAccount s t x).ply = s.ply := rfl
@[simp] theorem setAccount_flt (s : State) (t : Nat) (x : Credit) : (setAccount s t x).flt = s.flt := rfl
@[simp] theorem setAccount_met (s : State) (t : Nat) (x : Credit) : (setAccount s t x).met = s.met := rfl
@[simp] theorem setAccount_pqe (s : State) (t : Nat) (x : Credit) : (setAccount s t x).pqe = s.pqe := rfl
@[simp] theorem setAccount_lgl (s : State) (t : Nat) (x : Credit) : (setAccount s t x).lgl = s.lgl := rfl
@[simp] theorem setAccount_tar (s : State) (t : Nat) (x : Credit) : (setAccount s t x).tar = s.tar := rfl
@[simp] theorem setAccount_cus (s : State) (t : Nat) (x : Credit) : (setAccount s t x).cus = s.cus := rfl
@[simp] theorem setAccount_key (s : State) (t : Nat) (x : Credit) : (setAccount s t x).key = s.key := rfl
@[simp] theorem setAccount_cmp (s : State) (t : Nat) (x : Credit) : (setAccount s t x).cmp = s.cmp := rfl
@[simp] theorem setAccount_ann (s : State) (t : Nat) (x : Credit) : (setAccount s t x).ann = s.ann := rfl
@[simp] theorem setAccount_cis (s : State) (t : Nat) (x : Credit) : (setAccount s t x).cis = s.cis := rfl
@[simp] theorem setAccount_ev (s : State) (t : Nat) (x : Credit) : (setAccount s t x).ev = s.ev := rfl
@[simp] theorem setAccount_hif (s : State) (t : Nat) (x : Credit) : (setAccount s t x).hif = s.hif := rfl
@[simp] theorem setAccount_rng (s : State) (t : Nat) (x : Credit) : (setAccount s t x).rng = s.rng := rfl
@[simp] theorem setAccount_cmd (s : State) (t : Nat) (x : Credit) : (setAccount s t x).cmd = s.cmd := rfl
@[simp] theorem setAccount_slu (s : State) (t : Nat) (x : Credit) : (setAccount s t x).slu = s.slu := rfl
@[simp] theorem setAccount_ril (s : State) (t : Nat) (x : Credit) : (setAccount s t x).ril = s.ril := rfl
@[simp] theorem setAccount_pwr (s : State) (t : Nat) (x : Credit) : (setAccount s t x).pwr = s.pwr := rfl
@[simp] theorem setAccount_reg (s : State) (t : Nat) (x : Credit) : (setAccount s t x).reg = s.reg := rfl

@[simp] theorem setChain_pending (s : State) (i : Nat) (c : Chain) : (setChain s i c).pending = s.pending := rfl
@[simp] theorem setChain_free (s : State) (i : Nat) (c : Chain) : (setChain s i c).free = s.free := rfl
@[simp] theorem setChain_clk (s : State) (i : Nat) (c : Chain) : (setChain s i c).clk = s.clk := rfl
@[simp] theorem setChain_bkd (s : State) (i : Nat) (c : Chain) : (setChain s i c).bkd = s.bkd := rfl
@[simp] theorem setChain_ply (s : State) (i : Nat) (c : Chain) : (setChain s i c).ply = s.ply := rfl
@[simp] theorem setChain_flt (s : State) (i : Nat) (c : Chain) : (setChain s i c).flt = s.flt := rfl
@[simp] theorem setChain_met (s : State) (i : Nat) (c : Chain) : (setChain s i c).met = s.met := rfl
@[simp] theorem setChain_pqe (s : State) (i : Nat) (c : Chain) : (setChain s i c).pqe = s.pqe := rfl
@[simp] theorem setChain_lgl (s : State) (i : Nat) (c : Chain) : (setChain s i c).lgl = s.lgl := rfl
@[simp] theorem setChain_tar (s : State) (i : Nat) (c : Chain) : (setChain s i c).tar = s.tar := rfl
@[simp] theorem setChain_crd (s : State) (i : Nat) (c : Chain) : (setChain s i c).crd = s.crd := rfl
@[simp] theorem setChain_key (s : State) (i : Nat) (c : Chain) : (setChain s i c).key = s.key := rfl
@[simp] theorem setChain_cmp (s : State) (i : Nat) (c : Chain) : (setChain s i c).cmp = s.cmp := rfl
@[simp] theorem setChain_ann (s : State) (i : Nat) (c : Chain) : (setChain s i c).ann = s.ann := rfl
@[simp] theorem setChain_cis (s : State) (i : Nat) (c : Chain) : (setChain s i c).cis = s.cis := rfl
@[simp] theorem setChain_ev (s : State) (i : Nat) (c : Chain) : (setChain s i c).ev = s.ev := rfl
@[simp] theorem setChain_hif (s : State) (i : Nat) (c : Chain) : (setChain s i c).hif = s.hif := rfl
@[simp] theorem setChain_rng (s : State) (i : Nat) (c : Chain) : (setChain s i c).rng = s.rng := rfl
@[simp] theorem setChain_cmd (s : State) (i : Nat) (c : Chain) : (setChain s i c).cmd = s.cmd := rfl
@[simp] theorem setChain_slu (s : State) (i : Nat) (c : Chain) : (setChain s i c).slu = s.slu := rfl
@[simp] theorem setChain_ril (s : State) (i : Nat) (c : Chain) : (setChain s i c).ril = s.ril := rfl
@[simp] theorem setChain_pwr (s : State) (i : Nat) (c : Chain) : (setChain s i c).pwr = s.pwr := rfl
@[simp] theorem setChain_reg (s : State) (i : Nat) (c : Chain) : (setChain s i c).reg = s.reg := rfl

@[simp] theorem setMp_pending (s : State) (m : Nat) (x : Mp) : (setMp s m x).pending = s.pending := rfl
@[simp] theorem setMp_free (s : State) (m : Nat) (x : Mp) : (setMp s m x).free = s.free := rfl
@[simp] theorem setMp_clk (s : State) (m : Nat) (x : Mp) : (setMp s m x).clk = s.clk := rfl
@[simp] theorem setMp_bkd (s : State) (m : Nat) (x : Mp) : (setMp s m x).bkd = s.bkd := rfl
@[simp] theorem setMp_ply (s : State) (m : Nat) (x : Mp) : (setMp s m x).ply = s.ply := rfl
@[simp] theorem setMp_flt (s : State) (m : Nat) (x : Mp) : (setMp s m x).flt = s.flt := rfl
@[simp] theorem setMp_pqe (s : State) (m : Nat) (x : Mp) : (setMp s m x).pqe = s.pqe := rfl
@[simp] theorem setMp_lgl (s : State) (m : Nat) (x : Mp) : (setMp s m x).lgl = s.lgl := rfl
@[simp] theorem setMp_tar (s : State) (m : Nat) (x : Mp) : (setMp s m x).tar = s.tar := rfl
@[simp] theorem setMp_crd (s : State) (m : Nat) (x : Mp) : (setMp s m x).crd = s.crd := rfl
@[simp] theorem setMp_cus (s : State) (m : Nat) (x : Mp) : (setMp s m x).cus = s.cus := rfl
@[simp] theorem setMp_key (s : State) (m : Nat) (x : Mp) : (setMp s m x).key = s.key := rfl
@[simp] theorem setMp_cmp (s : State) (m : Nat) (x : Mp) : (setMp s m x).cmp = s.cmp := rfl
@[simp] theorem setMp_ann (s : State) (m : Nat) (x : Mp) : (setMp s m x).ann = s.ann := rfl
@[simp] theorem setMp_cis (s : State) (m : Nat) (x : Mp) : (setMp s m x).cis = s.cis := rfl
@[simp] theorem setMp_ev (s : State) (m : Nat) (x : Mp) : (setMp s m x).ev = s.ev := rfl
@[simp] theorem setMp_hif (s : State) (m : Nat) (x : Mp) : (setMp s m x).hif = s.hif := rfl
@[simp] theorem setMp_rng (s : State) (m : Nat) (x : Mp) : (setMp s m x).rng = s.rng := rfl
@[simp] theorem setMp_cmd (s : State) (m : Nat) (x : Mp) : (setMp s m x).cmd = s.cmd := rfl
@[simp] theorem setMp_slu (s : State) (m : Nat) (x : Mp) : (setMp s m x).slu = s.slu := rfl
@[simp] theorem setMp_ril (s : State) (m : Nat) (x : Mp) : (setMp s m x).ril = s.ril := rfl
@[simp] theorem setMp_pwr (s : State) (m : Nat) (x : Mp) : (setMp s m x).pwr = s.pwr := rfl
@[simp] theorem setMp_reg (s : State) (m : Nat) (x : Mp) : (setMp s m x).reg = s.reg := rfl

@[simp] theorem setChan_pending (s : State) (c : Nat) (x : Chan) : (setChan s c x).pending = s.pending := rfl
@[simp] theorem setChan_free (s : State) (c : Nat) (x : Chan) : (setChan s c x).free = s.free := rfl
@[simp] theorem setChan_clk (s : State) (c : Nat) (x : Chan) : (setChan s c x).clk = s.clk := rfl
@[simp] theorem setChan_bkd (s : State) (c : Nat) (x : Chan) : (setChan s c x).bkd = s.bkd := rfl
@[simp] theorem setChan_ply (s : State) (c : Nat) (x : Chan) : (setChan s c x).ply = s.ply := rfl
@[simp] theorem setChan_met (s : State) (c : Nat) (x : Chan) : (setChan s c x).met = s.met := rfl
@[simp] theorem setChan_pqe (s : State) (c : Nat) (x : Chan) : (setChan s c x).pqe = s.pqe := rfl
@[simp] theorem setChan_lgl (s : State) (c : Nat) (x : Chan) : (setChan s c x).lgl = s.lgl := rfl
@[simp] theorem setChan_tar (s : State) (c : Nat) (x : Chan) : (setChan s c x).tar = s.tar := rfl
@[simp] theorem setChan_crd (s : State) (c : Nat) (x : Chan) : (setChan s c x).crd = s.crd := rfl
@[simp] theorem setChan_cus (s : State) (c : Nat) (x : Chan) : (setChan s c x).cus = s.cus := rfl
@[simp] theorem setChan_key (s : State) (c : Nat) (x : Chan) : (setChan s c x).key = s.key := rfl
@[simp] theorem setChan_cmp (s : State) (c : Nat) (x : Chan) : (setChan s c x).cmp = s.cmp := rfl
@[simp] theorem setChan_ann (s : State) (c : Nat) (x : Chan) : (setChan s c x).ann = s.ann := rfl
@[simp] theorem setChan_cis (s : State) (c : Nat) (x : Chan) : (setChan s c x).cis = s.cis := rfl
@[simp] theorem setChan_ev (s : State) (c : Nat) (x : Chan) : (setChan s c x).ev = s.ev := rfl
@[simp] theorem setChan_hif (s : State) (c : Nat) (x : Chan) : (setChan s c x).hif = s.hif := rfl
@[simp] theorem setChan_rng (s : State) (c : Nat) (x : Chan) : (setChan s c x).rng = s.rng := rfl
@[simp] theorem setChan_cmd (s : State) (c : Nat) (x : Chan) : (setChan s c x).cmd = s.cmd := rfl
@[simp] theorem setChan_slu (s : State) (c : Nat) (x : Chan) : (setChan s c x).slu = s.slu := rfl
@[simp] theorem setChan_ril (s : State) (c : Nat) (x : Chan) : (setChan s c x).ril = s.ril := rfl
@[simp] theorem setChan_pwr (s : State) (c : Nat) (x : Chan) : (setChan s c x).pwr = s.pwr := rfl
@[simp] theorem setChan_reg (s : State) (c : Nat) (x : Chan) : (setChan s c x).reg = s.reg := rfl

@[simp] theorem setBlock_pending (s : State) (b : Nat) (x : Block) : (setBlock s b x).pending = s.pending := rfl
@[simp] theorem setBlock_free (s : State) (b : Nat) (x : Block) : (setBlock s b x).free = s.free := rfl
@[simp] theorem setBlock_clk (s : State) (b : Nat) (x : Block) : (setBlock s b x).clk = s.clk := rfl
@[simp] theorem setBlock_bkd (s : State) (b : Nat) (x : Block) : (setBlock s b x).bkd = s.bkd := rfl
@[simp] theorem setBlock_ply (s : State) (b : Nat) (x : Block) : (setBlock s b x).ply = s.ply := rfl
@[simp] theorem setBlock_flt (s : State) (b : Nat) (x : Block) : (setBlock s b x).flt = s.flt := rfl
@[simp] theorem setBlock_met (s : State) (b : Nat) (x : Block) : (setBlock s b x).met = s.met := rfl
@[simp] theorem setBlock_pqe (s : State) (b : Nat) (x : Block) : (setBlock s b x).pqe = s.pqe := rfl
@[simp] theorem setBlock_lgl (s : State) (b : Nat) (x : Block) : (setBlock s b x).lgl = s.lgl := rfl
@[simp] theorem setBlock_tar (s : State) (b : Nat) (x : Block) : (setBlock s b x).tar = s.tar := rfl
@[simp] theorem setBlock_crd (s : State) (b : Nat) (x : Block) : (setBlock s b x).crd = s.crd := rfl
@[simp] theorem setBlock_cus (s : State) (b : Nat) (x : Block) : (setBlock s b x).cus = s.cus := rfl
@[simp] theorem setBlock_key (s : State) (b : Nat) (x : Block) : (setBlock s b x).key = s.key := rfl
@[simp] theorem setBlock_cmp (s : State) (b : Nat) (x : Block) : (setBlock s b x).cmp = s.cmp := rfl
@[simp] theorem setBlock_ann (s : State) (b : Nat) (x : Block) : (setBlock s b x).ann = s.ann := rfl
@[simp] theorem setBlock_ev (s : State) (b : Nat) (x : Block) : (setBlock s b x).ev = s.ev := rfl
@[simp] theorem setBlock_hif (s : State) (b : Nat) (x : Block) : (setBlock s b x).hif = s.hif := rfl
@[simp] theorem setBlock_rng (s : State) (b : Nat) (x : Block) : (setBlock s b x).rng = s.rng := rfl
@[simp] theorem setBlock_cmd (s : State) (b : Nat) (x : Block) : (setBlock s b x).cmd = s.cmd := rfl
@[simp] theorem setBlock_slu (s : State) (b : Nat) (x : Block) : (setBlock s b x).slu = s.slu := rfl
@[simp] theorem setBlock_ril (s : State) (b : Nat) (x : Block) : (setBlock s b x).ril = s.ril := rfl
@[simp] theorem setBlock_pwr (s : State) (b : Nat) (x : Block) : (setBlock s b x).pwr = s.pwr := rfl
@[simp] theorem setBlock_reg (s : State) (b : Nat) (x : Block) : (setBlock s b x).reg = s.reg := rfl

@[simp] theorem setKeySlot_pending (s : State) (k : Nat) (x : KeySlot) : (setKeySlot s k x).pending = s.pending := rfl
@[simp] theorem setKeySlot_free (s : State) (k : Nat) (x : KeySlot) : (setKeySlot s k x).free = s.free := rfl
@[simp] theorem setKeySlot_clk (s : State) (k : Nat) (x : KeySlot) : (setKeySlot s k x).clk = s.clk := rfl
@[simp] theorem setKeySlot_bkd (s : State) (k : Nat) (x : KeySlot) : (setKeySlot s k x).bkd = s.bkd := rfl
@[simp] theorem setKeySlot_ply (s : State) (k : Nat) (x : KeySlot) : (setKeySlot s k x).ply = s.ply := rfl
@[simp] theorem setKeySlot_flt (s : State) (k : Nat) (x : KeySlot) : (setKeySlot s k x).flt = s.flt := rfl
@[simp] theorem setKeySlot_met (s : State) (k : Nat) (x : KeySlot) : (setKeySlot s k x).met = s.met := rfl
@[simp] theorem setKeySlot_pqe (s : State) (k : Nat) (x : KeySlot) : (setKeySlot s k x).pqe = s.pqe := rfl
@[simp] theorem setKeySlot_lgl (s : State) (k : Nat) (x : KeySlot) : (setKeySlot s k x).lgl = s.lgl := rfl
@[simp] theorem setKeySlot_tar (s : State) (k : Nat) (x : KeySlot) : (setKeySlot s k x).tar = s.tar := rfl
@[simp] theorem setKeySlot_crd (s : State) (k : Nat) (x : KeySlot) : (setKeySlot s k x).crd = s.crd := rfl
@[simp] theorem setKeySlot_cus (s : State) (k : Nat) (x : KeySlot) : (setKeySlot s k x).cus = s.cus := rfl
@[simp] theorem setKeySlot_cmp (s : State) (k : Nat) (x : KeySlot) : (setKeySlot s k x).cmp = s.cmp := rfl
@[simp] theorem setKeySlot_ann (s : State) (k : Nat) (x : KeySlot) : (setKeySlot s k x).ann = s.ann := rfl
@[simp] theorem setKeySlot_cis (s : State) (k : Nat) (x : KeySlot) : (setKeySlot s k x).cis = s.cis := rfl
@[simp] theorem setKeySlot_ev (s : State) (k : Nat) (x : KeySlot) : (setKeySlot s k x).ev = s.ev := rfl
@[simp] theorem setKeySlot_hif (s : State) (k : Nat) (x : KeySlot) : (setKeySlot s k x).hif = s.hif := rfl
@[simp] theorem setKeySlot_rng (s : State) (k : Nat) (x : KeySlot) : (setKeySlot s k x).rng = s.rng := rfl
@[simp] theorem setKeySlot_cmd (s : State) (k : Nat) (x : KeySlot) : (setKeySlot s k x).cmd = s.cmd := rfl
@[simp] theorem setKeySlot_slu (s : State) (k : Nat) (x : KeySlot) : (setKeySlot s k x).slu = s.slu := rfl
@[simp] theorem setKeySlot_ril (s : State) (k : Nat) (x : KeySlot) : (setKeySlot s k x).ril = s.ril := rfl
@[simp] theorem setKeySlot_pwr (s : State) (k : Nat) (x : KeySlot) : (setKeySlot s k x).pwr = s.pwr := rfl
@[simp] theorem setKeySlot_reg (s : State) (k : Nat) (x : KeySlot) : (setKeySlot s k x).reg = s.reg := rfl

@[simp] theorem setKeyCtr_pending (s : State) (k : Nat) (x : KeyCtr) : (setKeyCtr s k x).pending = s.pending := rfl
@[simp] theorem setKeyCtr_free (s : State) (k : Nat) (x : KeyCtr) : (setKeyCtr s k x).free = s.free := rfl
@[simp] theorem setKeyCtr_clk (s : State) (k : Nat) (x : KeyCtr) : (setKeyCtr s k x).clk = s.clk := rfl
@[simp] theorem setKeyCtr_bkd (s : State) (k : Nat) (x : KeyCtr) : (setKeyCtr s k x).bkd = s.bkd := rfl
@[simp] theorem setKeyCtr_ply (s : State) (k : Nat) (x : KeyCtr) : (setKeyCtr s k x).ply = s.ply := rfl
@[simp] theorem setKeyCtr_flt (s : State) (k : Nat) (x : KeyCtr) : (setKeyCtr s k x).flt = s.flt := rfl
@[simp] theorem setKeyCtr_met (s : State) (k : Nat) (x : KeyCtr) : (setKeyCtr s k x).met = s.met := rfl
@[simp] theorem setKeyCtr_pqe (s : State) (k : Nat) (x : KeyCtr) : (setKeyCtr s k x).pqe = s.pqe := rfl
@[simp] theorem setKeyCtr_lgl (s : State) (k : Nat) (x : KeyCtr) : (setKeyCtr s k x).lgl = s.lgl := rfl
@[simp] theorem setKeyCtr_tar (s : State) (k : Nat) (x : KeyCtr) : (setKeyCtr s k x).tar = s.tar := rfl
@[simp] theorem setKeyCtr_crd (s : State) (k : Nat) (x : KeyCtr) : (setKeyCtr s k x).crd = s.crd := rfl
@[simp] theorem setKeyCtr_cus (s : State) (k : Nat) (x : KeyCtr) : (setKeyCtr s k x).cus = s.cus := rfl
@[simp] theorem setKeyCtr_cmp (s : State) (k : Nat) (x : KeyCtr) : (setKeyCtr s k x).cmp = s.cmp := rfl
@[simp] theorem setKeyCtr_ann (s : State) (k : Nat) (x : KeyCtr) : (setKeyCtr s k x).ann = s.ann := rfl
@[simp] theorem setKeyCtr_cis (s : State) (k : Nat) (x : KeyCtr) : (setKeyCtr s k x).cis = s.cis := rfl
@[simp] theorem setKeyCtr_ev (s : State) (k : Nat) (x : KeyCtr) : (setKeyCtr s k x).ev = s.ev := rfl
@[simp] theorem setKeyCtr_hif (s : State) (k : Nat) (x : KeyCtr) : (setKeyCtr s k x).hif = s.hif := rfl
@[simp] theorem setKeyCtr_rng (s : State) (k : Nat) (x : KeyCtr) : (setKeyCtr s k x).rng = s.rng := rfl
@[simp] theorem setKeyCtr_cmd (s : State) (k : Nat) (x : KeyCtr) : (setKeyCtr s k x).cmd = s.cmd := rfl
@[simp] theorem setKeyCtr_slu (s : State) (k : Nat) (x : KeyCtr) : (setKeyCtr s k x).slu = s.slu := rfl
@[simp] theorem setKeyCtr_ril (s : State) (k : Nat) (x : KeyCtr) : (setKeyCtr s k x).ril = s.ril := rfl
@[simp] theorem setKeyCtr_pwr (s : State) (k : Nat) (x : KeyCtr) : (setKeyCtr s k x).pwr = s.pwr := rfl
@[simp] theorem setKeyCtr_reg (s : State) (k : Nat) (x : KeyCtr) : (setKeyCtr s k x).reg = s.reg := rfl

@[simp] theorem setLadder_pending (s : State) (k : Nat) (l : Ladder) : (setLadder s k l).pending = s.pending := rfl
@[simp] theorem setLadder_free (s : State) (k : Nat) (l : Ladder) : (setLadder s k l).free = s.free := rfl
@[simp] theorem setLadder_clk (s : State) (k : Nat) (l : Ladder) : (setLadder s k l).clk = s.clk := rfl
@[simp] theorem setLadder_bkd (s : State) (k : Nat) (l : Ladder) : (setLadder s k l).bkd = s.bkd := rfl
@[simp] theorem setLadder_ply (s : State) (k : Nat) (l : Ladder) : (setLadder s k l).ply = s.ply := rfl
@[simp] theorem setLadder_flt (s : State) (k : Nat) (l : Ladder) : (setLadder s k l).flt = s.flt := rfl
@[simp] theorem setLadder_met (s : State) (k : Nat) (l : Ladder) : (setLadder s k l).met = s.met := rfl
@[simp] theorem setLadder_pqe (s : State) (k : Nat) (l : Ladder) : (setLadder s k l).pqe = s.pqe := rfl
@[simp] theorem setLadder_lgl (s : State) (k : Nat) (l : Ladder) : (setLadder s k l).lgl = s.lgl := rfl
@[simp] theorem setLadder_tar (s : State) (k : Nat) (l : Ladder) : (setLadder s k l).tar = s.tar := rfl
@[simp] theorem setLadder_crd (s : State) (k : Nat) (l : Ladder) : (setLadder s k l).crd = s.crd := rfl
@[simp] theorem setLadder_cus (s : State) (k : Nat) (l : Ladder) : (setLadder s k l).cus = s.cus := rfl
@[simp] theorem setLadder_key (s : State) (k : Nat) (l : Ladder) : (setLadder s k l).key = s.key := rfl
@[simp] theorem setLadder_cmp (s : State) (k : Nat) (l : Ladder) : (setLadder s k l).cmp = s.cmp := rfl
@[simp] theorem setLadder_ann (s : State) (k : Nat) (l : Ladder) : (setLadder s k l).ann = s.ann := rfl
@[simp] theorem setLadder_ev (s : State) (k : Nat) (l : Ladder) : (setLadder s k l).ev = s.ev := rfl
@[simp] theorem setLadder_hif (s : State) (k : Nat) (l : Ladder) : (setLadder s k l).hif = s.hif := rfl
@[simp] theorem setLadder_rng (s : State) (k : Nat) (l : Ladder) : (setLadder s k l).rng = s.rng := rfl
@[simp] theorem setLadder_cmd (s : State) (k : Nat) (l : Ladder) : (setLadder s k l).cmd = s.cmd := rfl
@[simp] theorem setLadder_slu (s : State) (k : Nat) (l : Ladder) : (setLadder s k l).slu = s.slu := rfl
@[simp] theorem setLadder_ril (s : State) (k : Nat) (l : Ladder) : (setLadder s k l).ril = s.ril := rfl
@[simp] theorem setLadder_pwr (s : State) (k : Nat) (l : Ladder) : (setLadder s k l).pwr = s.pwr := rfl
@[simp] theorem setLadder_reg (s : State) (k : Nat) (l : Ladder) : (setLadder s k l).reg = s.reg := rfl

@[simp] theorem setCapSet_pending (s : State) (k : Nat) (x : CapSet) : (setCapSet s k x).pending = s.pending := rfl
@[simp] theorem setCapSet_free (s : State) (k : Nat) (x : CapSet) : (setCapSet s k x).free = s.free := rfl
@[simp] theorem setCapSet_clk (s : State) (k : Nat) (x : CapSet) : (setCapSet s k x).clk = s.clk := rfl
@[simp] theorem setCapSet_bkd (s : State) (k : Nat) (x : CapSet) : (setCapSet s k x).bkd = s.bkd := rfl
@[simp] theorem setCapSet_ply (s : State) (k : Nat) (x : CapSet) : (setCapSet s k x).ply = s.ply := rfl
@[simp] theorem setCapSet_flt (s : State) (k : Nat) (x : CapSet) : (setCapSet s k x).flt = s.flt := rfl
@[simp] theorem setCapSet_met (s : State) (k : Nat) (x : CapSet) : (setCapSet s k x).met = s.met := rfl
@[simp] theorem setCapSet_lgl (s : State) (k : Nat) (x : CapSet) : (setCapSet s k x).lgl = s.lgl := rfl
@[simp] theorem setCapSet_tar (s : State) (k : Nat) (x : CapSet) : (setCapSet s k x).tar = s.tar := rfl
@[simp] theorem setCapSet_crd (s : State) (k : Nat) (x : CapSet) : (setCapSet s k x).crd = s.crd := rfl
@[simp] theorem setCapSet_cus (s : State) (k : Nat) (x : CapSet) : (setCapSet s k x).cus = s.cus := rfl
@[simp] theorem setCapSet_key (s : State) (k : Nat) (x : CapSet) : (setCapSet s k x).key = s.key := rfl
@[simp] theorem setCapSet_cmp (s : State) (k : Nat) (x : CapSet) : (setCapSet s k x).cmp = s.cmp := rfl
@[simp] theorem setCapSet_ann (s : State) (k : Nat) (x : CapSet) : (setCapSet s k x).ann = s.ann := rfl
@[simp] theorem setCapSet_cis (s : State) (k : Nat) (x : CapSet) : (setCapSet s k x).cis = s.cis := rfl
@[simp] theorem setCapSet_ev (s : State) (k : Nat) (x : CapSet) : (setCapSet s k x).ev = s.ev := rfl
@[simp] theorem setCapSet_hif (s : State) (k : Nat) (x : CapSet) : (setCapSet s k x).hif = s.hif := rfl
@[simp] theorem setCapSet_rng (s : State) (k : Nat) (x : CapSet) : (setCapSet s k x).rng = s.rng := rfl
@[simp] theorem setCapSet_cmd (s : State) (k : Nat) (x : CapSet) : (setCapSet s k x).cmd = s.cmd := rfl
@[simp] theorem setCapSet_slu (s : State) (k : Nat) (x : CapSet) : (setCapSet s k x).slu = s.slu := rfl
@[simp] theorem setCapSet_ril (s : State) (k : Nat) (x : CapSet) : (setCapSet s k x).ril = s.ril := rfl
@[simp] theorem setCapSet_pwr (s : State) (k : Nat) (x : CapSet) : (setCapSet s k x).pwr = s.pwr := rfl
@[simp] theorem setCapSet_reg (s : State) (k : Nat) (x : CapSet) : (setCapSet s k x).reg = s.reg := rfl

@[simp] theorem setSpare_pending (s : State) (p : Nat) (x : Spare) : (setSpare s p x).pending = s.pending := rfl
@[simp] theorem setSpare_free (s : State) (p : Nat) (x : Spare) : (setSpare s p x).free = s.free := rfl
@[simp] theorem setSpare_clk (s : State) (p : Nat) (x : Spare) : (setSpare s p x).clk = s.clk := rfl
@[simp] theorem setSpare_bkd (s : State) (p : Nat) (x : Spare) : (setSpare s p x).bkd = s.bkd := rfl
@[simp] theorem setSpare_ply (s : State) (p : Nat) (x : Spare) : (setSpare s p x).ply = s.ply := rfl
@[simp] theorem setSpare_flt (s : State) (p : Nat) (x : Spare) : (setSpare s p x).flt = s.flt := rfl
@[simp] theorem setSpare_met (s : State) (p : Nat) (x : Spare) : (setSpare s p x).met = s.met := rfl
@[simp] theorem setSpare_lgl (s : State) (p : Nat) (x : Spare) : (setSpare s p x).lgl = s.lgl := rfl
@[simp] theorem setSpare_tar (s : State) (p : Nat) (x : Spare) : (setSpare s p x).tar = s.tar := rfl
@[simp] theorem setSpare_crd (s : State) (p : Nat) (x : Spare) : (setSpare s p x).crd = s.crd := rfl
@[simp] theorem setSpare_cus (s : State) (p : Nat) (x : Spare) : (setSpare s p x).cus = s.cus := rfl
@[simp] theorem setSpare_key (s : State) (p : Nat) (x : Spare) : (setSpare s p x).key = s.key := rfl
@[simp] theorem setSpare_cmp (s : State) (p : Nat) (x : Spare) : (setSpare s p x).cmp = s.cmp := rfl
@[simp] theorem setSpare_ann (s : State) (p : Nat) (x : Spare) : (setSpare s p x).ann = s.ann := rfl
@[simp] theorem setSpare_cis (s : State) (p : Nat) (x : Spare) : (setSpare s p x).cis = s.cis := rfl
@[simp] theorem setSpare_ev (s : State) (p : Nat) (x : Spare) : (setSpare s p x).ev = s.ev := rfl
@[simp] theorem setSpare_hif (s : State) (p : Nat) (x : Spare) : (setSpare s p x).hif = s.hif := rfl
@[simp] theorem setSpare_rng (s : State) (p : Nat) (x : Spare) : (setSpare s p x).rng = s.rng := rfl
@[simp] theorem setSpare_cmd (s : State) (p : Nat) (x : Spare) : (setSpare s p x).cmd = s.cmd := rfl
@[simp] theorem setSpare_slu (s : State) (p : Nat) (x : Spare) : (setSpare s p x).slu = s.slu := rfl
@[simp] theorem setSpare_ril (s : State) (p : Nat) (x : Spare) : (setSpare s p x).ril = s.ril := rfl
@[simp] theorem setSpare_pwr (s : State) (p : Nat) (x : Spare) : (setSpare s p x).pwr = s.pwr := rfl
@[simp] theorem setSpare_reg (s : State) (p : Nat) (x : Spare) : (setSpare s p x).reg = s.reg := rfl

@[simp] theorem setCmp_pending (s : State) (f : Cmp → Cmp) : (setCmp s f).pending = s.pending := rfl
@[simp] theorem setCmp_free (s : State) (f : Cmp → Cmp) : (setCmp s f).free = s.free := rfl
@[simp] theorem setCmp_clk (s : State) (f : Cmp → Cmp) : (setCmp s f).clk = s.clk := rfl
@[simp] theorem setCmp_bkd (s : State) (f : Cmp → Cmp) : (setCmp s f).bkd = s.bkd := rfl
@[simp] theorem setCmp_ply (s : State) (f : Cmp → Cmp) : (setCmp s f).ply = s.ply := rfl
@[simp] theorem setCmp_flt (s : State) (f : Cmp → Cmp) : (setCmp s f).flt = s.flt := rfl
@[simp] theorem setCmp_met (s : State) (f : Cmp → Cmp) : (setCmp s f).met = s.met := rfl
@[simp] theorem setCmp_pqe (s : State) (f : Cmp → Cmp) : (setCmp s f).pqe = s.pqe := rfl
@[simp] theorem setCmp_lgl (s : State) (f : Cmp → Cmp) : (setCmp s f).lgl = s.lgl := rfl
@[simp] theorem setCmp_tar (s : State) (f : Cmp → Cmp) : (setCmp s f).tar = s.tar := rfl
@[simp] theorem setCmp_crd (s : State) (f : Cmp → Cmp) : (setCmp s f).crd = s.crd := rfl
@[simp] theorem setCmp_cus (s : State) (f : Cmp → Cmp) : (setCmp s f).cus = s.cus := rfl
@[simp] theorem setCmp_key (s : State) (f : Cmp → Cmp) : (setCmp s f).key = s.key := rfl
@[simp] theorem setCmp_ann (s : State) (f : Cmp → Cmp) : (setCmp s f).ann = s.ann := rfl
@[simp] theorem setCmp_cis (s : State) (f : Cmp → Cmp) : (setCmp s f).cis = s.cis := rfl
@[simp] theorem setCmp_ev (s : State) (f : Cmp → Cmp) : (setCmp s f).ev = s.ev := rfl
@[simp] theorem setCmp_hif (s : State) (f : Cmp → Cmp) : (setCmp s f).hif = s.hif := rfl
@[simp] theorem setCmp_rng (s : State) (f : Cmp → Cmp) : (setCmp s f).rng = s.rng := rfl
@[simp] theorem setCmp_cmd (s : State) (f : Cmp → Cmp) : (setCmp s f).cmd = s.cmd := rfl
@[simp] theorem setCmp_slu (s : State) (f : Cmp → Cmp) : (setCmp s f).slu = s.slu := rfl
@[simp] theorem setCmp_ril (s : State) (f : Cmp → Cmp) : (setCmp s f).ril = s.ril := rfl
@[simp] theorem setCmp_pwr (s : State) (f : Cmp → Cmp) : (setCmp s f).pwr = s.pwr := rfl
@[simp] theorem setCmp_reg (s : State) (f : Cmp → Cmp) : (setCmp s f).reg = s.reg := rfl

@[simp] theorem setRelay_pending (s : State) (m : Nat) (r : Relay) : (setRelay s m r).pending = s.pending := rfl
@[simp] theorem setRelay_free (s : State) (m : Nat) (r : Relay) : (setRelay s m r).free = s.free := rfl
@[simp] theorem setRelay_clk (s : State) (m : Nat) (r : Relay) : (setRelay s m r).clk = s.clk := rfl
@[simp] theorem setRelay_bkd (s : State) (m : Nat) (r : Relay) : (setRelay s m r).bkd = s.bkd := rfl
@[simp] theorem setRelay_ply (s : State) (m : Nat) (r : Relay) : (setRelay s m r).ply = s.ply := rfl
@[simp] theorem setRelay_flt (s : State) (m : Nat) (r : Relay) : (setRelay s m r).flt = s.flt := rfl
@[simp] theorem setRelay_met (s : State) (m : Nat) (r : Relay) : (setRelay s m r).met = s.met := rfl
@[simp] theorem setRelay_pqe (s : State) (m : Nat) (r : Relay) : (setRelay s m r).pqe = s.pqe := rfl
@[simp] theorem setRelay_lgl (s : State) (m : Nat) (r : Relay) : (setRelay s m r).lgl = s.lgl := rfl
@[simp] theorem setRelay_tar (s : State) (m : Nat) (r : Relay) : (setRelay s m r).tar = s.tar := rfl
@[simp] theorem setRelay_cus (s : State) (m : Nat) (r : Relay) : (setRelay s m r).cus = s.cus := rfl
@[simp] theorem setRelay_key (s : State) (m : Nat) (r : Relay) : (setRelay s m r).key = s.key := rfl
@[simp] theorem setRelay_cmp (s : State) (m : Nat) (r : Relay) : (setRelay s m r).cmp = s.cmp := rfl
@[simp] theorem setRelay_ann (s : State) (m : Nat) (r : Relay) : (setRelay s m r).ann = s.ann := rfl
@[simp] theorem setRelay_cis (s : State) (m : Nat) (r : Relay) : (setRelay s m r).cis = s.cis := rfl
@[simp] theorem setRelay_ev (s : State) (m : Nat) (r : Relay) : (setRelay s m r).ev = s.ev := rfl
@[simp] theorem setRelay_hif (s : State) (m : Nat) (r : Relay) : (setRelay s m r).hif = s.hif := rfl
@[simp] theorem setRelay_rng (s : State) (m : Nat) (r : Relay) : (setRelay s m r).rng = s.rng := rfl
@[simp] theorem setRelay_cmd (s : State) (m : Nat) (r : Relay) : (setRelay s m r).cmd = s.cmd := rfl
@[simp] theorem setRelay_slu (s : State) (m : Nat) (r : Relay) : (setRelay s m r).slu = s.slu := rfl
@[simp] theorem setRelay_ril (s : State) (m : Nat) (r : Relay) : (setRelay s m r).ril = s.ril := rfl
@[simp] theorem setRelay_pwr (s : State) (m : Nat) (r : Relay) : (setRelay s m r).pwr = s.pwr := rfl
@[simp] theorem setRelay_reg (s : State) (m : Nat) (r : Relay) : (setRelay s m r).reg = s.reg := rfl

@[simp] theorem setRil_pending (s : State) (f : Ril → Ril) : (setRil s f).pending = s.pending := rfl
@[simp] theorem setRil_free (s : State) (f : Ril → Ril) : (setRil s f).free = s.free := rfl
@[simp] theorem setRil_clk (s : State) (f : Ril → Ril) : (setRil s f).clk = s.clk := rfl
@[simp] theorem setRil_bkd (s : State) (f : Ril → Ril) : (setRil s f).bkd = s.bkd := rfl
@[simp] theorem setRil_ply (s : State) (f : Ril → Ril) : (setRil s f).ply = s.ply := rfl
@[simp] theorem setRil_flt (s : State) (f : Ril → Ril) : (setRil s f).flt = s.flt := rfl
@[simp] theorem setRil_met (s : State) (f : Ril → Ril) : (setRil s f).met = s.met := rfl
@[simp] theorem setRil_pqe (s : State) (f : Ril → Ril) : (setRil s f).pqe = s.pqe := rfl
@[simp] theorem setRil_lgl (s : State) (f : Ril → Ril) : (setRil s f).lgl = s.lgl := rfl
@[simp] theorem setRil_tar (s : State) (f : Ril → Ril) : (setRil s f).tar = s.tar := rfl
@[simp] theorem setRil_crd (s : State) (f : Ril → Ril) : (setRil s f).crd = s.crd := rfl
@[simp] theorem setRil_cus (s : State) (f : Ril → Ril) : (setRil s f).cus = s.cus := rfl
@[simp] theorem setRil_key (s : State) (f : Ril → Ril) : (setRil s f).key = s.key := rfl
@[simp] theorem setRil_cmp (s : State) (f : Ril → Ril) : (setRil s f).cmp = s.cmp := rfl
@[simp] theorem setRil_ann (s : State) (f : Ril → Ril) : (setRil s f).ann = s.ann := rfl
@[simp] theorem setRil_cis (s : State) (f : Ril → Ril) : (setRil s f).cis = s.cis := rfl
@[simp] theorem setRil_ev (s : State) (f : Ril → Ril) : (setRil s f).ev = s.ev := rfl
@[simp] theorem setRil_hif (s : State) (f : Ril → Ril) : (setRil s f).hif = s.hif := rfl
@[simp] theorem setRil_rng (s : State) (f : Ril → Ril) : (setRil s f).rng = s.rng := rfl
@[simp] theorem setRil_cmd (s : State) (f : Ril → Ril) : (setRil s f).cmd = s.cmd := rfl
@[simp] theorem setRil_slu (s : State) (f : Ril → Ril) : (setRil s f).slu = s.slu := rfl
@[simp] theorem setRil_pwr (s : State) (f : Ril → Ril) : (setRil s f).pwr = s.pwr := rfl
@[simp] theorem setRil_reg (s : State) (f : Ril → Ril) : (setRil s f).reg = s.reg := rfl

@[simp] theorem setHead_pending (s : State) (p : Nat) (h : Head) : (setHead s p h).pending = s.pending := rfl
@[simp] theorem setHead_free (s : State) (p : Nat) (h : Head) : (setHead s p h).free = s.free := rfl
@[simp] theorem setHead_clk (s : State) (p : Nat) (h : Head) : (setHead s p h).clk = s.clk := rfl
@[simp] theorem setHead_bkd (s : State) (p : Nat) (h : Head) : (setHead s p h).bkd = s.bkd := rfl
@[simp] theorem setHead_flt (s : State) (p : Nat) (h : Head) : (setHead s p h).flt = s.flt := rfl
@[simp] theorem setHead_met (s : State) (p : Nat) (h : Head) : (setHead s p h).met = s.met := rfl
@[simp] theorem setHead_pqe (s : State) (p : Nat) (h : Head) : (setHead s p h).pqe = s.pqe := rfl
@[simp] theorem setHead_lgl (s : State) (p : Nat) (h : Head) : (setHead s p h).lgl = s.lgl := rfl
@[simp] theorem setHead_tar (s : State) (p : Nat) (h : Head) : (setHead s p h).tar = s.tar := rfl
@[simp] theorem setHead_crd (s : State) (p : Nat) (h : Head) : (setHead s p h).crd = s.crd := rfl
@[simp] theorem setHead_cus (s : State) (p : Nat) (h : Head) : (setHead s p h).cus = s.cus := rfl
@[simp] theorem setHead_key (s : State) (p : Nat) (h : Head) : (setHead s p h).key = s.key := rfl
@[simp] theorem setHead_cmp (s : State) (p : Nat) (h : Head) : (setHead s p h).cmp = s.cmp := rfl
@[simp] theorem setHead_ann (s : State) (p : Nat) (h : Head) : (setHead s p h).ann = s.ann := rfl
@[simp] theorem setHead_cis (s : State) (p : Nat) (h : Head) : (setHead s p h).cis = s.cis := rfl
@[simp] theorem setHead_ev (s : State) (p : Nat) (h : Head) : (setHead s p h).ev = s.ev := rfl
@[simp] theorem setHead_hif (s : State) (p : Nat) (h : Head) : (setHead s p h).hif = s.hif := rfl
@[simp] theorem setHead_rng (s : State) (p : Nat) (h : Head) : (setHead s p h).rng = s.rng := rfl
@[simp] theorem setHead_cmd (s : State) (p : Nat) (h : Head) : (setHead s p h).cmd = s.cmd := rfl
@[simp] theorem setHead_slu (s : State) (p : Nat) (h : Head) : (setHead s p h).slu = s.slu := rfl
@[simp] theorem setHead_ril (s : State) (p : Nat) (h : Head) : (setHead s p h).ril = s.ril := rfl
@[simp] theorem setHead_pwr (s : State) (p : Nat) (h : Head) : (setHead s p h).pwr = s.pwr := rfl
@[simp] theorem setHead_reg (s : State) (p : Nat) (h : Head) : (setHead s p h).reg = s.reg := rfl

@[simp] theorem setSlu_pending (s : State) (f : Slu → Slu) : (setSlu s f).pending = s.pending := rfl
@[simp] theorem setSlu_free (s : State) (f : Slu → Slu) : (setSlu s f).free = s.free := rfl
@[simp] theorem setSlu_clk (s : State) (f : Slu → Slu) : (setSlu s f).clk = s.clk := rfl
@[simp] theorem setSlu_bkd (s : State) (f : Slu → Slu) : (setSlu s f).bkd = s.bkd := rfl
@[simp] theorem setSlu_ply (s : State) (f : Slu → Slu) : (setSlu s f).ply = s.ply := rfl
@[simp] theorem setSlu_flt (s : State) (f : Slu → Slu) : (setSlu s f).flt = s.flt := rfl
@[simp] theorem setSlu_met (s : State) (f : Slu → Slu) : (setSlu s f).met = s.met := rfl
@[simp] theorem setSlu_pqe (s : State) (f : Slu → Slu) : (setSlu s f).pqe = s.pqe := rfl
@[simp] theorem setSlu_lgl (s : State) (f : Slu → Slu) : (setSlu s f).lgl = s.lgl := rfl
@[simp] theorem setSlu_tar (s : State) (f : Slu → Slu) : (setSlu s f).tar = s.tar := rfl
@[simp] theorem setSlu_crd (s : State) (f : Slu → Slu) : (setSlu s f).crd = s.crd := rfl
@[simp] theorem setSlu_cus (s : State) (f : Slu → Slu) : (setSlu s f).cus = s.cus := rfl
@[simp] theorem setSlu_key (s : State) (f : Slu → Slu) : (setSlu s f).key = s.key := rfl
@[simp] theorem setSlu_cmp (s : State) (f : Slu → Slu) : (setSlu s f).cmp = s.cmp := rfl
@[simp] theorem setSlu_ann (s : State) (f : Slu → Slu) : (setSlu s f).ann = s.ann := rfl
@[simp] theorem setSlu_cis (s : State) (f : Slu → Slu) : (setSlu s f).cis = s.cis := rfl
@[simp] theorem setSlu_ev (s : State) (f : Slu → Slu) : (setSlu s f).ev = s.ev := rfl
@[simp] theorem setSlu_hif (s : State) (f : Slu → Slu) : (setSlu s f).hif = s.hif := rfl
@[simp] theorem setSlu_rng (s : State) (f : Slu → Slu) : (setSlu s f).rng = s.rng := rfl
@[simp] theorem setSlu_cmd (s : State) (f : Slu → Slu) : (setSlu s f).cmd = s.cmd := rfl
@[simp] theorem setSlu_ril (s : State) (f : Slu → Slu) : (setSlu s f).ril = s.ril := rfl
@[simp] theorem setSlu_pwr (s : State) (f : Slu → Slu) : (setSlu s f).pwr = s.pwr := rfl
@[simp] theorem setSlu_reg (s : State) (f : Slu → Slu) : (setSlu s f).reg = s.reg := rfl

@[simp] theorem setStage_pending (s : State) (t : Nat) (x : Stage) : (setStage s t x).pending = s.pending := rfl
@[simp] theorem setStage_free (s : State) (t : Nat) (x : Stage) : (setStage s t x).free = s.free := rfl
@[simp] theorem setStage_clk (s : State) (t : Nat) (x : Stage) : (setStage s t x).clk = s.clk := rfl
@[simp] theorem setStage_bkd (s : State) (t : Nat) (x : Stage) : (setStage s t x).bkd = s.bkd := rfl
@[simp] theorem setStage_ply (s : State) (t : Nat) (x : Stage) : (setStage s t x).ply = s.ply := rfl
@[simp] theorem setStage_flt (s : State) (t : Nat) (x : Stage) : (setStage s t x).flt = s.flt := rfl
@[simp] theorem setStage_met (s : State) (t : Nat) (x : Stage) : (setStage s t x).met = s.met := rfl
@[simp] theorem setStage_pqe (s : State) (t : Nat) (x : Stage) : (setStage s t x).pqe = s.pqe := rfl
@[simp] theorem setStage_lgl (s : State) (t : Nat) (x : Stage) : (setStage s t x).lgl = s.lgl := rfl
@[simp] theorem setStage_tar (s : State) (t : Nat) (x : Stage) : (setStage s t x).tar = s.tar := rfl
@[simp] theorem setStage_crd (s : State) (t : Nat) (x : Stage) : (setStage s t x).crd = s.crd := rfl
@[simp] theorem setStage_cus (s : State) (t : Nat) (x : Stage) : (setStage s t x).cus = s.cus := rfl
@[simp] theorem setStage_key (s : State) (t : Nat) (x : Stage) : (setStage s t x).key = s.key := rfl
@[simp] theorem setStage_cmp (s : State) (t : Nat) (x : Stage) : (setStage s t x).cmp = s.cmp := rfl
@[simp] theorem setStage_ann (s : State) (t : Nat) (x : Stage) : (setStage s t x).ann = s.ann := rfl
@[simp] theorem setStage_cis (s : State) (t : Nat) (x : Stage) : (setStage s t x).cis = s.cis := rfl
@[simp] theorem setStage_ev (s : State) (t : Nat) (x : Stage) : (setStage s t x).ev = s.ev := rfl
@[simp] theorem setStage_hif (s : State) (t : Nat) (x : Stage) : (setStage s t x).hif = s.hif := rfl
@[simp] theorem setStage_rng (s : State) (t : Nat) (x : Stage) : (setStage s t x).rng = s.rng := rfl
@[simp] theorem setStage_cmd (s : State) (t : Nat) (x : Stage) : (setStage s t x).cmd = s.cmd := rfl
@[simp] theorem setStage_ril (s : State) (t : Nat) (x : Stage) : (setStage s t x).ril = s.ril := rfl
@[simp] theorem setStage_pwr (s : State) (t : Nat) (x : Stage) : (setStage s t x).pwr = s.pwr := rfl
@[simp] theorem setStage_reg (s : State) (t : Nat) (x : Stage) : (setStage s t x).reg = s.reg := rfl

/-! ### Reading what was written -/

@[simp] theorem cue_setCue (s : State) (i : Nat) (x : Cue) : cue (setCue s i x) i = x := tget_tput_self _ _ _ _
@[simp] theorem ctx_setCtx (s : State) (i : Nat) (x : Ctx) : ctx (setCtx s i x) i = x := tget_tput_self _ _ _ _
@[simp] theorem dom_setDom (s : State) (i : Nat) (x : Dom) : dom (setDom s i x) i = x := tget_tput_self _ _ _ _
@[simp] theorem func_setFunc (s : State) (i : Nat) (x : Func) : func (setFunc s i x) i = x := tget_tput_self _ _ _ _
@[simp] theorem keySlot_setKeySlot (s : State) (i : Nat) (x : KeySlot) : keySlot (setKeySlot s i x) i = x := tget_tput_self _ _ _ _
@[simp] theorem relay_setRelay (s : State) (i : Nat) (x : Relay) : relay (setRelay s i x) i = x := tget_tput_self _ _ _ _
@[simp] theorem head_setHead (s : State) (i : Nat) (x : Head) : head (setHead s i x) i = x := tget_tput_self _ _ _ _

/-! ### A frame passes through a change of one block -/

theorem told_clk {s t : State} (h : Told s t) (x : Clk) : Told { s with clk := x } { t with clk := x } :=
  ⟨⟨h.kept.pending, h.kept.free, rfl, h.kept.bkd, h.kept.ply, h.kept.flt, h.kept.met, h.kept.pqe, h.kept.lgl, h.kept.tar, h.kept.crd, h.kept.cus, h.kept.key, h.kept.cmp, h.kept.ann, h.kept.slu, h.kept.ril, h.kept.pwr, h.kept.reg⟩,
   h.hif, h.fn, h.ids, h.cmd, ⟨h.out.out⟩⟩

theorem told_bkd {s t : State} (h : Told s t) (x : Bkd) : Told { s with bkd := x } { t with bkd := x } :=
  ⟨⟨h.kept.pending, h.kept.free, h.kept.clk, rfl, h.kept.ply, h.kept.flt, h.kept.met, h.kept.pqe, h.kept.lgl, h.kept.tar, h.kept.crd, h.kept.cus, h.kept.key, h.kept.cmp, h.kept.ann, h.kept.slu, h.kept.ril, h.kept.pwr, h.kept.reg⟩,
   h.hif, h.fn, h.ids, h.cmd, ⟨h.out.out⟩⟩

theorem told_ply {s t : State} (h : Told s t) (x : Ply) : Told { s with ply := x } { t with ply := x } :=
  ⟨⟨h.kept.pending, h.kept.free, h.kept.clk, h.kept.bkd, rfl, h.kept.flt, h.kept.met, h.kept.pqe, h.kept.lgl, h.kept.tar, h.kept.crd, h.kept.cus, h.kept.key, h.kept.cmp, h.kept.ann, h.kept.slu, h.kept.ril, h.kept.pwr, h.kept.reg⟩,
   h.hif, h.fn, h.ids, h.cmd, ⟨h.out.out⟩⟩

theorem told_flt {s t : State} (h : Told s t) (x : Flt) : Told { s with flt := x } { t with flt := x } :=
  ⟨⟨h.kept.pending, h.kept.free, h.kept.clk, h.kept.bkd, h.kept.ply, rfl, h.kept.met, h.kept.pqe, h.kept.lgl, h.kept.tar, h.kept.crd, h.kept.cus, h.kept.key, h.kept.cmp, h.kept.ann, h.kept.slu, h.kept.ril, h.kept.pwr, h.kept.reg⟩,
   h.hif, h.fn, h.ids, h.cmd, ⟨h.out.out⟩⟩

theorem told_met {s t : State} (h : Told s t) (x : Met) : Told { s with met := x } { t with met := x } :=
  ⟨⟨h.kept.pending, h.kept.free, h.kept.clk, h.kept.bkd, h.kept.ply, h.kept.flt, rfl, h.kept.pqe, h.kept.lgl, h.kept.tar, h.kept.crd, h.kept.cus, h.kept.key, h.kept.cmp, h.kept.ann, h.kept.slu, h.kept.ril, h.kept.pwr, h.kept.reg⟩,
   h.hif, h.fn, h.ids, h.cmd, ⟨h.out.out⟩⟩

theorem told_pqe {s t : State} (h : Told s t) (x : Pqe) : Told { s with pqe := x } { t with pqe := x } :=
  ⟨⟨h.kept.pending, h.kept.free, h.kept.clk, h.kept.bkd, h.kept.ply, h.kept.flt, h.kept.met, rfl, h.kept.lgl, h.kept.tar, h.kept.crd, h.kept.cus, h.kept.key, h.kept.cmp, h.kept.ann, h.kept.slu, h.kept.ril, h.kept.pwr, h.kept.reg⟩,
   h.hif, h.fn, h.ids, h.cmd, ⟨h.out.out⟩⟩

theorem told_lgl {s t : State} (h : Told s t) (x : Seal) : Told { s with lgl := x } { t with lgl := x } :=
  ⟨⟨h.kept.pending, h.kept.free, h.kept.clk, h.kept.bkd, h.kept.ply, h.kept.flt, h.kept.met, h.kept.pqe, rfl, h.kept.tar, h.kept.crd, h.kept.cus, h.kept.key, h.kept.cmp, h.kept.ann, h.kept.slu, h.kept.ril, h.kept.pwr, h.kept.reg⟩,
   h.hif, h.fn, h.ids, h.cmd, ⟨h.out.out⟩⟩

theorem told_tar {s t : State} (h : Told s t) (x : Tar) : Told { s with tar := x } { t with tar := x } :=
  ⟨⟨h.kept.pending, h.kept.free, h.kept.clk, h.kept.bkd, h.kept.ply, h.kept.flt, h.kept.met, h.kept.pqe, h.kept.lgl, rfl, h.kept.crd, h.kept.cus, h.kept.key, h.kept.cmp, h.kept.ann, h.kept.slu, h.kept.ril, h.kept.pwr, h.kept.reg⟩,
   h.hif, h.fn, h.ids, h.cmd, ⟨h.out.out⟩⟩

theorem told_crd {s t : State} (h : Told s t) (x : Crd) : Told { s with crd := x } { t with crd := x } :=
  ⟨⟨h.kept.pending, h.kept.free, h.kept.clk, h.kept.bkd, h.kept.ply, h.kept.flt, h.kept.met, h.kept.pqe, h.kept.lgl, h.kept.tar, rfl, h.kept.cus, h.kept.key, h.kept.cmp, h.kept.ann, h.kept.slu, h.kept.ril, h.kept.pwr, h.kept.reg⟩,
   h.hif, h.fn, h.ids, h.cmd, ⟨h.out.out⟩⟩

theorem told_cus {s t : State} (h : Told s t) (x : Cus) : Told { s with cus := x } { t with cus := x } :=
  ⟨⟨h.kept.pending, h.kept.free, h.kept.clk, h.kept.bkd, h.kept.ply, h.kept.flt, h.kept.met, h.kept.pqe, h.kept.lgl, h.kept.tar, h.kept.crd, rfl, h.kept.key, h.kept.cmp, h.kept.ann, h.kept.slu, h.kept.ril, h.kept.pwr, h.kept.reg⟩,
   h.hif, h.fn, h.ids, h.cmd, ⟨h.out.out⟩⟩

theorem told_key {s t : State} (h : Told s t) (x : Keys) : Told { s with key := x } { t with key := x } :=
  ⟨⟨h.kept.pending, h.kept.free, h.kept.clk, h.kept.bkd, h.kept.ply, h.kept.flt, h.kept.met, h.kept.pqe, h.kept.lgl, h.kept.tar, h.kept.crd, h.kept.cus, rfl, h.kept.cmp, h.kept.ann, h.kept.slu, h.kept.ril, h.kept.pwr, h.kept.reg⟩,
   h.hif, h.fn, h.ids, h.cmd, ⟨h.out.out⟩⟩

theorem told_cmp {s t : State} (h : Told s t) (x : Cmp) : Told { s with cmp := x } { t with cmp := x } :=
  ⟨⟨h.kept.pending, h.kept.free, h.kept.clk, h.kept.bkd, h.kept.ply, h.kept.flt, h.kept.met, h.kept.pqe, h.kept.lgl, h.kept.tar, h.kept.crd, h.kept.cus, h.kept.key, rfl, h.kept.ann, h.kept.slu, h.kept.ril, h.kept.pwr, h.kept.reg⟩,
   h.hif, h.fn, h.ids, h.cmd, ⟨h.out.out⟩⟩

theorem told_ann {s t : State} (h : Told s t) (x : Ann) : Told { s with ann := x } { t with ann := x } :=
  ⟨⟨h.kept.pending, h.kept.free, h.kept.clk, h.kept.bkd, h.kept.ply, h.kept.flt, h.kept.met, h.kept.pqe, h.kept.lgl, h.kept.tar, h.kept.crd, h.kept.cus, h.kept.key, h.kept.cmp, rfl, h.kept.slu, h.kept.ril, h.kept.pwr, h.kept.reg⟩,
   h.hif, h.fn, h.ids, h.cmd, ⟨h.out.out⟩⟩

theorem told_slu {s t : State} (h : Told s t) (x : Slu) : Told { s with slu := x } { t with slu := x } :=
  ⟨⟨h.kept.pending, h.kept.free, h.kept.clk, h.kept.bkd, h.kept.ply, h.kept.flt, h.kept.met, h.kept.pqe, h.kept.lgl, h.kept.tar, h.kept.crd, h.kept.cus, h.kept.key, h.kept.cmp, h.kept.ann, rfl, h.kept.ril, h.kept.pwr, h.kept.reg⟩,
   h.hif, h.fn, h.ids, h.cmd, ⟨h.out.out⟩⟩

theorem told_ril {s t : State} (h : Told s t) (x : Ril) : Told { s with ril := x } { t with ril := x } :=
  ⟨⟨h.kept.pending, h.kept.free, h.kept.clk, h.kept.bkd, h.kept.ply, h.kept.flt, h.kept.met, h.kept.pqe, h.kept.lgl, h.kept.tar, h.kept.crd, h.kept.cus, h.kept.key, h.kept.cmp, h.kept.ann, h.kept.slu, rfl, h.kept.pwr, h.kept.reg⟩,
   h.hif, h.fn, h.ids, h.cmd, ⟨h.out.out⟩⟩

theorem told_pwr {s t : State} (h : Told s t) (x : Pwr) : Told { s with pwr := x } { t with pwr := x } :=
  ⟨⟨h.kept.pending, h.kept.free, h.kept.clk, h.kept.bkd, h.kept.ply, h.kept.flt, h.kept.met, h.kept.pqe, h.kept.lgl, h.kept.tar, h.kept.crd, h.kept.cus, h.kept.key, h.kept.cmp, h.kept.ann, h.kept.slu, h.kept.ril, rfl, h.kept.reg⟩,
   h.hif, h.fn, h.ids, h.cmd, ⟨h.out.out⟩⟩

theorem told_reg {s t : State} (h : Told s t) (x : Regs) : Told { s with reg := x } { t with reg := x } :=
  ⟨⟨h.kept.pending, h.kept.free, h.kept.clk, h.kept.bkd, h.kept.ply, h.kept.flt, h.kept.met, h.kept.pqe, h.kept.lgl, h.kept.tar, h.kept.crd, h.kept.cus, h.kept.key, h.kept.cmp, h.kept.ann, h.kept.slu, h.kept.ril, h.kept.pwr, rfl⟩,
   h.hif, h.fn, h.ids, h.cmd, ⟨h.out.out⟩⟩

end Sys2Proof.Laws
end

