-- ==== Sys2Proof/WellFormed.lean ====
section
/-!
DEFINITION. Which commands a bus, a wire or a pin of the hub could carry: every operand within its field.
A value that a field can hold and a rule refuses is well-formed; the command's meaning refuses it with the status or the event
that the rule names.
-/
namespace Sys2Proof

/-- An `n`-bit field holds `v`. -/
def fits (n v : Nat) : Bool := decide (v < 2 ^ n)

/-- An `n`-bit two's complement field holds `v`. -/
def signed (n : Nat) (v : Int) : Bool := decide (-(2 ^ (n - 1) : Int) ≤ v ∧ v < 2 ^ (n - 1))

/-- A submission descriptor's fields (Table RNG.5). A DPTR or DLEN that R489 refuses still fits its field. -/
def Desc.wf (d : Desc) : Bool :=
  fits 8 d.tenant && fits 6 d.ring && fits 16 d.cid && fits 64 d.dptr && fits 32 d.dlen

/-- A posted entry's fields (Table RNG.9). -/
def HostPost.wf (p : HostPost) : Bool := fits 64 p.addr && fits 32 p.len && fits 32 p.tag

/-- The tracker shows the three voltages (R34), and the boundary lies within a tick and a slot frame. -/
def BoundaryObs.wf (o : BoundaryObs) : Bool :=
  fits 16 o.tickFrac && fits 16 o.frameFrac && o.rms.length == 3 && o.crossing.length == 3 && o.measured.length == 3 &&
    o.offsets.length == 3

/-- The data buffer holds DLEN bytes (R489). -/
def dataWf (d : Desc) (data : Bytes) : Bool := data.length == d.dlen

/-- Every operand within its field. -/
def wellFormed (i : Instr) : Bool :=
  match i with
  | .adminAttach d target => d.wf && fits 8 target
  | .ringCreate d defn => d.wf && defn.length == 40
  | .ringDelete d idx => d.wf && fits 8 idx
  | .streamFlush d idx => d.wf && fits 8 idx
  | .faultRead d domain tenant flags => d.wf && fits 8 domain && fits 8 tenant && fits 8 flags
  | .hubReset d scope tenant => d.wf && fits 8 scope && fits 8 tenant
  | .fwWrite d image offset data => d.wf && fits 8 image && fits 32 offset && dataWf d data
  | .fwActivate d image len digest => d.wf && fits 8 image && fits 32 len && fits 256 digest
  | .stageWrite d obj offset flags data => d.wf && fits 16 obj && fits 32 offset && fits 8 flags && dataWf d data
  | .stageRead d obj offset which => d.wf && fits 16 obj && fits 32 offset && fits 8 which
  | .stageDiscard d obj => d.wf && fits 16 obj
  | .check d => d.wf
  | .commitAt d gen stamp => d.wf && fits 32 gen && fits 56 stamp
  | .commitCancel d cue => d.wf && fits 16 cue
  | .seal d digest => d.wf && fits 256 digest
  | .readTime d => d.wf
  | .timeChallenge d => d.wf
  | .timeSet d data => d.wf && dataWf d data
  | .clearFirstSwitch d => d.wf
  | .powerOff d us => d.wf && fits 64 us
  | .readRegisters d mp count which => d.wf && fits 16 mp && fits 16 count && fits 8 which
  | .syncReset d heads loc stamp => d.wf && fits 64 heads && fits 8 loc && fits 56 stamp
  | .spareTest d head ch => d.wf && fits 8 head && fits 8 ch
  | .spareRelease d head ch => d.wf && fits 8 head && fits 8 ch
  | .captureNow d set => d.wf && fits 8 set
  | .captureRead d set slot offset flags => d.wf && fits 8 set && fits 8 slot && fits 32 offset && fits 8 flags
  | .plyReadmit d head => d.wf && fits 8 head
  | .readSigned d keysel nreq nflag nonce requests => d.wf && fits 8 keysel && fits 8 nreq && fits 8 nflag && fits 128 nonce && decide (requests.length ≤ d.dlen)
  | .sessionOpen d mp tenant sflags stamp => d.wf && fits 16 mp && fits 8 tenant && fits 8 sflags && fits 56 stamp
  | .sessionClose d session stamp => d.wf && fits 32 session && fits 56 stamp
  | .sessionList d tenant first count => d.wf && fits 8 tenant && fits 32 first && fits 16 count
  | .billEnd d tenant stamp => d.wf && fits 8 tenant && fits 56 stamp
  | .billRead d what tenant id count => d.wf && fits 8 what && fits 8 tenant && fits 32 id && fits 16 count
  | .tokenSubmit d tenant digits => d.wf && fits 8 tenant && digits.length == 20
  | .ecGrant d tenant => d.wf && fits 8 tenant
  | .consentDisconnect d session => d.wf && fits 32 session
  | .consentRevoke d session => d.wf && fits 32 session
  | .keypadUnlock d => d.wf
  | .creditRead d tenant => d.wf && fits 8 tenant
  | .relaySet d mp cmd stamp => d.wf && fits 16 mp && fits 8 cmd && fits 56 stamp
  | .relayRead d mp count => d.wf && fits 16 mp && fits 16 count
  | .custodyBind d session short => d.wf && fits 32 session && fits 16 short
  | .custodyUnbind d session bind => d.wf && fits 32 session && fits 8 bind
  | .custodySubmit d session payload => d.wf && fits 32 session && payload.length == 24
  | .keyGenerate d kslot => d.wf && fits 16 kslot
  | .keyImport d data => d.wf && dataWf d data
  | .keyErase d kslot => d.wf && fits 16 kslot
  | .keyAttest d kslot => d.wf && fits 16 kslot
  | .archiveRead d first count kinds ring flags session => d.wf && fits 48 first && fits 16 count && fits 8 kinds && fits 8 ring && fits 8 flags && fits 32 session
  | .legalLogRead d first count flags => d.wf && fits 32 first && fits 16 count && fits 8 flags
  | .tamperRead d scope mp => d.wf && fits 8 scope && fits 16 mp
  | .leaseList d first count => d.wf && fits 16 first && fits 16 count
  | .cmpRevoke d eui => d.wf && fits 64 eui
  | .cmpPush d short kslot data => d.wf && fits 16 short && fits 16 kslot && dataWf d data
  | .radioTx d data => d.wf && dataWf d data
  | .annPlay d arg => d.wf && fits 32 arg
  | .annStop d ch clip => d.wf && fits 8 ch && fits 8 clip
  | .annTone d gen ch freq att dur => d.wf && fits 8 gen && fits 8 ch && fits 16 freq && fits 8 att && fits 32 dur
  | .annReset d ch => d.wf && fits 8 ch
  | .cascadeStatus d => d.wf
  | .badDescriptor d opc => d.wf && fits 16 opc
  | .rngBootCtrlGo value => fits 32 value
  | .doorbellWrite func word posts => fits 8 func && fits 32 word && posts.all HostPost.wf
  | .mbxReq func value => fits 8 func && fits 32 value
  | .captureGroupFirstRead func group => fits 8 func && fits 8 group
  | .bkdSwitchCtrl value => fits 32 value
  | .bkdPwronCtrl value => fits 32 value
  | .bkdTimeCtrl value => fits 32 value
  | .alarmRegisterWrite alarm reg value => fits 2 alarm && fits 2 reg && fits 32 value
  | .gpioWrite offset value => fits 32 offset && fits 32 value
  | .metSiteIdWrite word value => fits 2 word && fits 32 value
  | .evtOverrunClear value => fits 32 value
  | .registerWrite func bar offset value => fits 8 func && fits 3 bar && fits 32 offset && fits 32 value
  | .badAccess func bar offset _ => fits 8 func && fits 3 bar && fits 32 offset
  | .msixUnmask func vec => fits 8 func && fits 6 vec
  | .linkStateChange _ rate width => fits 8 rate && fits 8 width
  | .flr func => fits 8 func
  | .busMasterEnableCleared func => fits 8 func
  | .d3hotEntry func => fits 8 func
  | .vfEnableChange _ num _ => fits 16 num
  | .functionLive func _ vmask => fits 8 func && fits 64 vmask
  | .teardownComplete tenant => fits 8 tenant
  | .dmaFault func cause addr ring => fits 8 func && fits 8 cause && fits 64 addr && ring.all (fits 6)
  | .aerError func _ status _ => fits 8 func && fits 32 status
  | .ringModerationExpire tenant idx => fits 8 tenant && fits 6 idx
  | .pageFlushExpire tenant idx => fits 8 tenant && fits 6 idx
  | .stagingDrained tenant idx => fits 8 tenant && fits 6 idx
  | .faultLevelComplete domain => fits 8 domain
  | .faultLevelTimeout domain => fits 8 domain
  | .escalationComplete domain _ => fits 8 domain
  | .tamperWriteSpanEnd key => fits 16 key
  | .cycleBoundary obs => obs.wf
  | .cfgCommit cue => fits 16 cue
  | .cascadeCommit cue => fits 16 cue
  | .decimSync cue => fits 16 cue
  | .tariffSwitch cue => fits 16 cue
  | .reportCut cue => fits 16 cue
  | .relaySwitch cue => fits 16 cue
  | .capture cue => fits 16 cue
  | .annStart cue => fits 16 cue
  | .slotFrameStart ends => ends.length == 8
  | .ringFrameReceived port _ _ sections => fits 1 port && (sections.all fun x => fits 8 x.1)
  | .verdictDeadline head window => fits 8 head && fits 64 window
  | .releaseInstant mp frame => fits 16 mp && fits 64 frame
  | .cfSpacingExpire pin => fits 5 pin
  | .cfWidthEnd pin => fits 5 pin
  | .messageRepeatExpire head mseq => fits 8 head && fits 8 mseq
  | .joinStepTimeout head => fits 8 head
  | .exclusionHoldoffEnd head => fits 8 head
  | .reportTimeout head code => fits 8 head && fits 8 code
  | .announce pos box => fits 8 pos && decide (box.length ≤ 255)
  | .cert pos box => fits 8 pos && decide (box.length ≤ 255)
  | .joinHead pos box => fits 8 pos && decide (box.length ≤ 255)
  | .joinFinish pos box => fits 8 pos && decide (box.length ≤ 255)
  | .armAck pos box => fits 8 pos && decide (box.length ≤ 255)
  | .armResult pos box => fits 8 pos && decide (box.length ≤ 255)
  | .ack pos box => fits 8 pos && decide (box.length ≤ 255)
  | .surveyReply pos box => fits 8 pos && decide (box.length ≤ 255)
  | .version pos box => fits 8 pos && decide (box.length ≤ 255)
  | .autonReport pos box => fits 8 pos && decide (box.length ≤ 255)
  | .event pos box => fits 8 pos && decide (box.length ≤ 255)
  | .syncDone pos box => fits 8 pos && decide (box.length ≤ 255)
  | .syncInEdge _ => true
  | .syncSettleTimeout ch => fits 8 ch
  | .captureComplete set slot => fits 8 set && fits 16 slot
  | .spareFlagsMismatch head => fits 8 head
  | .spareMeasurementTimeout head => fits 8 head
  | .junctionTempRange _ temp => signed 16 temp
  | .snapshotComplete tenant => fits 8 tenant
  | .keypadKey key => fits 4 key
  | .relayLimitExpire mp => fits 16 mp
  | .relayFeedbackPersist mp => fits 16 mp
  | .loggerSilentExpire session bind => fits 32 session && fits 8 bind
  | .drbgRetry _ => true
  | .flashProgramComplete block _ => fits 16 block
  | .blockEraseComplete block _ => fits 16 block
  | .ladderIncrementComplete weak => decide (weak ≤ 2)
  | .patrolRead area index found => fits 4 area && fits 48 index && decide (found ≤ 4)
  | .joinReq psdu rssi => decide (psdu.length ≤ 255) && signed 16 rssi
  | .data psdu rssi => decide (psdu.length ≤ 255) && signed 16 rssi
  | .rawPpdu psdu rssi _ _ => decide (psdu.length ≤ 255) && signed 16 rssi
  | .leaseExpire short => fits 16 short
  | .quarantineExpire short => fits 16 short
  | .accountBucketExpire band => fits 8 band
  | .txBackoffExpire item _ => fits 16 item
  | .lbtDeferExpire item _ => fits 16 item
  | .generalFrameTimeout item => fits 16 item
  | .overCurrentShutdown ch half => fits 8 ch && fits 1 half
  | .loopFaultShutdown ch => fits 8 ch
  | .retryExpire ch => fits 8 ch
  | .retryRestore ch => fits 8 ch
  | .startingComplete ch => fits 8 ch
  | .stoppingComplete ch => fits 8 ch
  | .idleTimeout ch => fits 8 ch
  | .powerDieTempBand band => fits 8 band
  | .vspkUvlo mv => fits 16 mv
  | .annLinkValid us => fits 64 us
  | .clipEnd ch => fits 8 ch
  | .toneEnd gen => fits 8 gen
  | .pcmBufferEmpty missed => fits 32 missed
  | .tempSample _ temp => signed 16 temp
  | .supplySwitchOver _ => true
  | .vbatLow _ => true
  | .alarmMatch alarm => fits 2 alarm
  | .captureGroupExpire func group => fits 8 func && fits 8 group
  | .sealBrkOpen first _ => fits 48 first
  | .sealLockChange _ => true
  | .ldspButton ms => fits 32 ms
  | .boundary port packet => fits 1 port && decide (packet.length ≤ 4095)
  | .sync port packet => fits 1 port && decide (packet.length ≤ 4095)
  | .prepare port packet => fits 1 port && decide (packet.length ≤ 4095)
  | .agree port packet => fits 1 port && decide (packet.length ≤ 4095)
  | .disagree port packet => fits 1 port && decide (packet.length ≤ 4095)
  | .commit port packet => fits 1 port && decide (packet.length ≤ 4095)
  | .abort port packet => fits 1 port && decide (packet.length ≤ 4095)
  | .confirm port packet => fits 1 port && decide (packet.length ≤ 4095)
  | .aggReq port packet => fits 1 port && decide (packet.length ≤ 4095)
  | .aggRep port packet => fits 1 port && decide (packet.length ≤ 4095)
  | .join port packet => fits 1 port && decide (packet.length ≤ 4095)
  | .rillAdmit port packet => fits 1 port && decide (packet.length ≤ 4095)
  | .refuse port packet => fits 1 port && decide (packet.length ≤ 4095)
  | .status port packet => fits 1 port && decide (packet.length ≤ 4095)
  | .leave port packet => fits 1 port && decide (packet.length ≤ 4095)
  | .echoReq port packet => fits 1 port && decide (packet.length ≤ 4095)
  | .echoRep port packet roundTrip => fits 1 port && decide (packet.length ≤ 4095) && fits 32 roundTrip
  | .memberStatusTimeout hub => fits 8 hub
  | .resetN _ => true
  | .pfail done us => decide (done ≤ 6) && fits 64 us
  | .refclkLoss us => fits 64 us
  | .wdtService core => fits 8 core
  | .chipStart _ => true
  | .radioTxFault kind => fits 8 kind
  | .warnPlayEnd mp => fits 16 mp
  | .rilPortLinkChange port _ => fits 1 port
  | .rillBadPacket port packet => fits 1 port && decide (packet.length ≤ 4095)
  | .strapChange _ cascId => fits 8 cascId
  | .captureGroupLastRead func group => fits 8 func && fits 8 group
  | .bandSilenceEnd _ => true
  | .bkdRtcSh0 => true
  | .perstNLow => true
  | .perstNHigh => true
  | .linkDown => true
  | .hotReset => true
  | .hostSilent => true
  | .eventSuppressionSpanEnd => true
  | .eventBlockPlaceFree => true
  | .frequencyIntervalEnd => true
  | .rotationScheduleTick => true
  | .keypadEntryTimeout => true
  | .keypadLockEnd => true
  | .keypadBadExpire => true
  | .signatureComplete => true
  | .keyRecordReadback => true
  | .drbgReseed => true
  | .entropyTestFail => true
  | .beaconInterval => true
  | .transmissionEnd => true
  | .vspkRecovered => true
  | .annLinkLost => true
  | .muteRise => true
  | .muteRelease => true
  | .pcmIdleExpire => true
  | .compWindowStart => true
  | .crystalStop => true
  | .crystalResume => true
  | .shadowFreezeExpire => true
  | .pwronMaxOffExpire => true
  | .bkdReset => true
  | .ldspFrameTimer => true
  | .ldspScreenTimer => true
  | .ldspHoldExpire => true
  | .jtagActivity => true
  | .boundaryMissing => true
  | .joinAnswerTimeout => true
  | .refusalRetryExpire => true
  | .prepareReplyTimeout => true
  | .decisionDeadline => true
  | .confirmTimeout => true
  | .aggReqTimeout => true
  | .por => true
  | .bor => true
  | .pfHoldRelease => true
  | .legalEngineFault => true
  | .wdtLegal => true
  | .wdtSystem => true
  | .serviceRestartComplete => true
  | .audBufferRead => true

end Sys2Proof
end

