-- ==== Sys2Proof/Tests/Slice0.lean ====
section
/-!
SUPPORT. The model's own tests: ill-formed commands, single commands on small states with results taken from the spec, and for each
statement with hypotheses a state that meets them.
-/
namespace Sys2Proof.Tests

open Sys2Proof Sys2Proof.Machine

set_option Elab.async false

/-- Submission ring 0 of tenant 0 with one entry to take. -/
def admRing : Ring := { typ := .adm, state := .active, rseq := 1, pair := 1, base := 0x100000, shadow := 0x200000, tail := 1 }

/-- Completion ring 1. -/
def cplRing : Ring := { typ := .cpl, state := .active, rseq := 1, base := 0x110000, shadow := 0x210000 }

/-- Submission ring 2 with one entry to take; its completions go to ring 3. -/
def subRing : Ring := { typ := .sub, state := .active, rseq := 1, pair := 3, base := 0x120000, shadow := 0x220000, tail := 1 }

/-- A hub that runs, with PF0 live, tenant 0 ACTIVE, its rings 0 to 3 and one entry in each submission ring. -/
def live0 : State := {
  hif := { perst := true, linkUp := true, funcs := [(0, { mse := true, bme := true })], ctxs := [(0, { state := .active })] }
  rng := { rings := [(0, admRing), (1, cplRing), (2, subRing), (3, cplRing)] } }

/-- A descriptor of tenant 0 in ring 0, and one in ring 2. -/
def dAdm : Desc := { tenant := 0, ring := 0, cid := 7, fence := false, dptr := 0, dlen := 0 }
def dSub : Desc := { tenant := 0, ring := 2, cid := 7, fence := false, dptr := 0, dlen := 0 }

/-! ### Ill-formed commands: one term for each check of WellFormed -/

/-- A small good descriptor, a good observation of a boundary, and a posted entry. -/
def dSmall : Desc := { tenant := 0, ring := 2, cid := 0, fence := false, dptr := 0, dlen := 1 }
def obs0 : BoundaryObs := { tickFrac := 0, frameFrac := 0, rms := [0, 0, 0], crossing := [false, false, false], measured := [0, 0, 0],
                            offsets := [0, 0, 0], freq := 0, phaseErr := 0 }

/-- Descriptor and data checks. -/
theorem test_ill_formed_descriptors : ([.check { dSmall with tenant := 256 }, .check { dSmall with ring := 64 }, .check { dSmall with cid := 65536 },
    .check { dSmall with dptr := 2 ^ 64 }, .check { dSmall with dlen := 2 ^ 32 }, .ringCreate dSmall (zeros 39), .keyImport dSmall [],
    .tokenSubmit dSmall 0 [1, 2], .custodySubmit dSmall 0 (zeros 23), .readSigned dSmall 0 1 0 0 (zeros 8)] : List Instr).map wellFormed =
      List.replicate 10 false := by decide

/-- Field widths. -/
theorem test_ill_formed_fields : ([.rilPortLinkChange 2 true, .metSiteIdWrite 4 0, .registerWrite 0 8 0 0, .keypadKey 16, .cfWidthEnd 32,
    .stagingDrained 0 64, .verdictDeadline 256 0, .relayLimitExpire 65536, .gpioWrite (2 ^ 32) 0, .sealBrkOpen (2 ^ 48) true,
    .syncReset dSmall 0 0 (2 ^ 56), .refclkLoss (2 ^ 64), .readSigned { dSmall with dlen := 8 } 0 1 0 (2 ^ 128) (zeros 8), .seal dSmall (2 ^ 256),
    .junctionTempRange true 32768, .ladderIncrementComplete 3, .patrolRead 0 0 5, .pfail 7 0] : List Instr).map wellFormed =
      List.replicate 18 false := by decide

/-- Packets, posts and observations. -/
theorem test_ill_formed_packets : ([.status 1 (zeros 4096), .ack 0 (zeros 256), .data (zeros 256) 0, .slotFrameStart [],
    .ringFrameReceived 0 0 0 [(256, [])], .doorbellWrite 0 0 [⟨2 ^ 64, 0, 0⟩], .doorbellWrite 0 0 [⟨0, 2 ^ 32, 0⟩], .doorbellWrite 0 0 [⟨0, 0, 2 ^ 32⟩],
    .dmaFault 0 0 0 (some 64), .cycleBoundary { obs0 with tickFrac := 65536 }, .cycleBoundary { obs0 with frameFrac := 65536 },
    .cycleBoundary { obs0 with rms := [] }, .cycleBoundary { obs0 with crossing := [] }, .cycleBoundary { obs0 with measured := [] },
    .cycleBoundary { obs0 with offsets := [] }] : List Instr).map wellFormed = List.replicate 15 false := by decide +kernel

/-- The same commands with their operands in range. -/
theorem test_well_formed : ([.check dSmall, .ringCreate dSmall (zeros 40), .keyImport dSmall [1], .patrolRead 11 7 4, .cycleBoundary obs0,
    .status 1 (zeros 4095), .pfail 6 9] : List Instr).map wellFormed = List.replicate 7 true := by decide +kernel

/-! ### Results taken from the spec's own examples -/

/-- The example of 00_scope.md: at C#1200000@16384 the first boundary at least 8 cycles away is C#1200009@0. -/
theorem test_earliest_boundary :
    boundaryAfter { clk := { cycle := some 1200000, freq := 60 * 65536, tick := 0 }, bkd := { tick := 137 } } 8 = mkStamp 1200009 0 := by decide

/-- The example of 03_backup_time.md: 2031-05-14T06:00:00 UTC in ticks since 2000-01-01. -/
theorem test_date_in_ticks : (dayNumber 2031 5 14 * 86400 + 21600) * ticksPerSecond = 32434421760000 := by decide

/-- The curve of the example of 03_backup_time.md. -/
def curve0 : Bytes := le 2 1600 ++ zeros 2 ++ le 4 3072 ++ zeros 4 ++ le 4 (2 ^ 32 - 35652) ++ zeros 14 ++ le 2 205 ++ le 2 430 ++ zeros 14 ++ le 4 1 ++ zeros 4

/-- The example of 03_backup_time.md: at 45.0 °C the first two windows are corrected by 344 and 343 ticks. -/
theorem test_compensation :
    let s (c : Rat) : State := { bkd := { curve := curve0, samples := [2880], edge := 33554432, carry := c } }
    (match exec .compWindowStart (s 0) with
      | .next t => decide (t.bkd.corrN = 344 ∧ t.bkd.carry < 0)
      | _ => false) = true ∧
    (match exec .compWindowStart (s (-403 / 1000)) with
      | .next t => decide (t.bkd.corrN = 343 ∧ 0 < t.bkd.carry)
      | _ => false) = true := by decide +kernel

/-- The example of 02_cycle_clock.md: the coil instant C#1200049@9568 lies in frame 50,001,560 at 367 modulator clocks. -/
theorem test_action_frame :
    armPlace { clk := { cycle := some 1200048, freq := 60 * 65536, frame := 50001365, frameFrac := 21845 } } (mkStamp 1200049 9568) =
      (50001560, 367) := by decide

/-- The example of 16_campion_radio.md: bits of a BEACON and of an ACK with FEC and an 8-octet preamble. -/
theorem test_airtime : (ppduBits true 8 30, ppduBits true 8 34) = (608, 672) := by decide

/-- The model of a waiting block: with nothing waiting a step counts one tick of the crystal. -/
theorem test_idle_step : (match step { bkd := { tick := 7 } } with
    | .next t => t.bkd.tick
    | _ => 0) = 8 := by decide

theorem test_w_AStepRunsTheFrontCommand :
    ({ live0 with pending := [.linkDown, .hotReset] } : State).pending = .linkDown :: [.hotReset] := by decide

theorem test_w_EveryStepKeepsTheHubSafe : live0.ev.batch = [] ∧ live0.cis.tailFull = false ∧ live0.pwr.inReset = false := by decide

theorem test_w_BackupRegisterWritesWait :
    calm live0 = true ∧ rwsOk 0x3020 0x19 = true ∧ rwsOk 0x3044 0xFFFF0001 = true ∧ rwsOk 0x3048 86400 = true ∧
      rwsOk (0x3060 + 16 * 1 + 4 * 0) 0x07173B3B = true ∧ rwsOk 0x3020 0x1A = false ∧ (dom live0 9).state = .idle ∧
      (ctx live0 0).state ≠ .undefined ∧ (dom live0 16).state = .idle := by decide

theorem test_w_NextTickAppliesBackupWrites :
    let q (l : List (Nat × Nat)) : State := { live0 with bkd := { live0.bkd with rws := l } }
    (q []).pending = [] ∧ (q []).bkd.crystalStopped = false ∧ (q []).bkd.fromRef = false ∧ (q []).bkd.corrN = 0 ∧ (q []).bkd.rws = [] ∧
      annSounds (q []) 0 = false ∧ annSounds (q []) 1 = false ∧
      (q [(0x3020, 3)]).bkd.rws = [(0x3020, 3)] ∧ (q [(0x3044, 0)]).bkd.rws = [(0x3044, 0)] ∧ (q [(0x3048, 1)]).bkd.rws = [(0x3048, 1)] := by
  decide

theorem test_w_CapturedReadsFreezeAndExpire :
    let s : State := { live0 with bkd := { live0.bkd with tick := 40, freeze := some (7, []) }, reg := { live0.reg with caps := [(1, (7, [0, 0]))] } }
    calm s = true ∧ s.bkd.freeze = some (7, []) ∧ 7 + 33 ≤ s.bkd.tick ∧ capOf 0 1 = true ∧ capOf 3 7 = true ∧
      tfind s.reg.caps (256 * 0 + 1) = some (7, [0, 0]) := by decide

theorem test_w_SupplyAndCrystalEvents :
    let s : State := { live0 with bkd := { live0.bkd with tick := 200000000, onVbat := false, pwronLow := true, lowSince := 0 } }
    calm s = true ∧ (dom s 3).state = .idle ∧ s.bkd.onVbat = false ∧ s.bkd.vbatFrom + 1639 ≤ s.bkd.tick ∧ s.bkd.pwronLow = true ∧
      s.bkd.lowSince + s.bkd.maxOff * minuteTicks ≤ s.bkd.tick := by decide

theorem test_w_CompensationAndAlarms :
    let s : State := { live0 with bkd := { live0.bkd with edge := 33554432, epoch := 0, tick := 32768 * 100, samples := [640], alm1 := { ctrl := 0x7F05 } } }
    let c : State := { s with bkd := { s.bkd with curve := zeros 48 ++ [1, 0, 0, 0] } }
    calm s = true ∧ (dom s 3).state = .idle ∧ s.bkd.sampleAt = 0 ∧ windowEdges ≤ s.bkd.edge ∧ s.bkd.fromRef = false ∧ s.bkd.curveNext = none ∧
      fld s.bkd.curve 48 4 % 2 = 0 ∧ fld c.bkd.curve 48 4 % 2 = 1 ∧ c.bkd.sensorFail = false ∧ c.bkd.samples ≠ [] ∧
      (alarm s 1).last ≠ some (utcSecond s) ∧ alarmAt s (alarm s 1) (utcSecond s) = true ∧
      ((alarm s 1).since : Int) < utcSecond s * 32768 - s.bkd.epoch := by decide

theorem test_w_TimeCommandsOfTenantZero :
    let s : State := { live0 with bkd := { live0.bkd with policy := 1 }, key := { live0.key with drbg := true }, slu := { live0.slu with force := [(cfgAddr (slotKey 0 false) 2, 0)] } }
    let b : Desc := { dSub with dptr := 0x1000, dlen := 100 }
    canTake s dSub 0x0201 true = true ∧ dSub.dlen = 0 ∧ dSub.tenant = 0 ∧ canTake s dSub 0x0202 false = true ∧ drbgUp s = true ∧
      canTake s dSub 0x0204 false = true ∧ canTake s b 0x0203 true = true ∧ 100 ≤ b.dlen ∧ 100 ≤ (zeros 100).length ∧
      bit s.bkd.alm0.ctrl 0 = false ∧ bit s.bkd.alm1.ctrl 0 = false ∧ openChains s = [] ∧ canTake s dSub 0x0205 false = true ∧
      s.bkd.policy ≠ 0 ∧ s.cis.incs = [] ∧ s.cmp.air = none ∧ s.cis.tail = [] ∧ (∀ c < 33, calPresent s c false = false ∧ calPresent s c true = false) ∧ (∀ c, (annChan s c).stack = []) := by
  refine ⟨by decide, by decide, by decide, by decide, by decide, by decide, by decide, by decide, by decide, by decide, by decide, by decide,
    by decide, by decide, by decide, by decide, by decide, by decide, ?_⟩
  intro c; unfold annChan; split <;> rfl

/-- A ring definition (Table RNG.4). -/
def ringDef (i ty irq pair base shadow : Nat) : Bytes :=
  le 1 i ++ le 1 ty ++ le 1 4 ++ le 1 irq ++ le 1 0 ++ le 1 pair ++ le 2 0 ++ le 8 base ++ le 8 shadow ++ zeros 16

/-- PF0 ATTACHED with two good definitions; tenant 3 defined, ATTACHED and REQUESTED with its own. -/
def attach0 : State := { live0 with
  slu := { live0.slu with force := [(cfgAddr (objCode objTenant 0) (16 + 16 * 3), 1)] }
  hif := { live0.hif with ctxs := [(0, { state := .active }), (3, {
    state := .attached, mbxState := 1, mbxDef0 := ringDef 0 0 0 1 0x300000 0x301000, mbxDef1 := ringDef 1 2 1 0xFF 0x310000 0x311000 })] } }

theorem test_w_RingCreationAndAttachment :
    let defn := ringDef 5 2 1 0xFF 0x400000 0x401000
    let b : State := {
      hif := { perst := true, linkUp := true, ctxs := [(0, { state := .attached })] }
      rng := { def0 := ringDef 0 0 0 1 0x100000 0x200000, def1 := ringDef 1 2 1 0xFF 0x110000 0x210000 } }
    canTake live0 dAdm 0x0002 false = true ∧ defCheck live0 0 defn none = none ∧ (defRing defn).typ = .cpl ∧
      calm b = true ∧ b.rng.bootState ≠ 1 ∧ (ctx b 0).state = .attached ∧ defCheck b 0 b.rng.def0 (some 0) = none ∧
      defCheck b 0 b.rng.def1 (some 1) = none ∧
      canTake attach0 dAdm 0x0001 false = true ∧ tenantDefined attach0 3 = true ∧ (ctx attach0 3).mbxState = 1 ∧
      (ctx attach0 3).state = .attached ∧ defCheck attach0 3 (ctx attach0 3).mbxDef0 (some 0) = none ∧
      defCheck attach0 3 (ctx attach0 3).mbxDef1 (some 1) = none ∧ calm attach0 = true := by decide

theorem test_w_RingDelete :
    let s : State := { live0 with rng := { rings := live0.rng.rings ++ [(5, { cplRing with rseq := 4 })] } }
    canTake s dAdm 0x0003 false = true ∧ (5 : Nat) ≠ cplOf s dAdm ∧ (ring s 0 5).state = .active ∧ s.cmd.opens = [] ∧
      (s.rng.rings.any fun p => p.1 / 64 == 0 && p.2.state != .absent && p.2.pair == 5 && p.1 % 64 != 5 &&
        (p.2.typ == .adm || p.2.typ == .sub || p.2.typ == .str || p.2.typ == .raw)) = false := by decide

/-- A stream ring with an open page that holds one record. -/
def strRing : Ring := {
  typ := .str, state := .active, rseq := 1, pair := 5, base := 0x500000, shadow := 0x510000, flushMs := 10,
  page := some ⟨0x600000, 9, 5, [⟨6, 0, 11, 0, 0xFFFFFFFF, zeros 64⟩], 80, false, 0, none⟩ }

/-- The hub with that ring as ring 4. -/
def str0 : State := { live0 with bkd := { live0.bkd with tick := 400 }, rng := { rings := live0.rng.rings ++ [(4, strRing)] } }

theorem test_w_DoorbellsAndDeliveries :
    let m : State := { live0 with rng := { rings := [(0, admRing), (1, { cplRing with unsig := 2 })] } }
    let g : State := { live0 with rng := { rings := live0.rng.rings ++ [(4, { strRing with dropping := some ⟨1, 4, 2, 0, 9⟩ })] } }
    calm live0 = true ∧ (ctx live0 0).state = .active ∧ (ring live0 0 2).state = .active ∧ (ring live0 0 2).typ = .sub ∧
      3 < ringSize (ring live0 0 2) ∧
      (3 + ringSize (ring live0 0 2) - (ring live0 0 2).tail % ringSize (ring live0 0 2)) % ringSize (ring live0 0 2) ≤ ringFree (ring live0 0 2) ∧
      calm m = true ∧ live m 0 = true ∧ (ring m 0 1).state = .active ∧ 0 < (ring m 0 1).unsig ∧ hostProduces (ring m 0 1).typ = false ∧
      calm str0 = true ∧ live str0 0 = true ∧ (ring str0 0 4).page.isSome = true ∧ 0 < ringFree (ring str0 0 4) ∧
      0 + (ring str0 0 4).flushMs * 32768 / 1000 ≤ str0.bkd.tick ∧ canTake str0 dAdm 0x0004 false = true ∧
      calm g = true ∧ (ring g 0 4).staged = [] ∧ 80 + 48 ≤ 4096 := by decide

theorem test_w_RegisterAccesses :
    let s : State := { live0 with reg := { live0.reg with overrun := 9 }, hif := { live0.hif with ctxs := live0.hif.ctxs ++ [(3, { state := .attached })] } }
    calm s = true ∧ s.lgl.state ≠ .sealed ∧ legalReadOnly s = false ∧ bit 8 3 = true ∧ bit s.reg.overrun 3 = true ∧ rwsOk 0x3048 600 = true ∧
      (ctx s 3).state ≠ .undefined ∧ (dom s 9).state = .idle ∧ (dom s (16 + 3)).state = .idle := by decide

theorem test_w_LinkAndReset :
    let off : State := { live0 with hif := { live0.hif with perst := false } }
    let dark : State := { live0 with hif := { live0.hif with linkUp := false } }
    calm live0 = true ∧ live0.hif.perst = true ∧ live0.hif.linkUp = true ∧ calm off = true ∧ off.hif.perst = false ∧ calm dark = true ∧
      dark.hif.perst = true ∧ dark.hif.linkUp = false := by decide

/-- VFs enabled, tenant 3 ACTIVE above VF3. -/
def vf3 : State := { live0 with
  hif := { live0.hif with
    vfEnable := true, numVfs := 4, lastDoorbell := 0, funcs := [(0, { mse := true, bme := true }), (3, { mse := true, bme := true, msixEnable := true, vmask := 4, pending := 4 })]
    ctxs := [(0, { state := .active }), (2, { state := .detached }), (3, { state := .active })] }
  bkd := { live0.bkd with tick := 32768 * 100000 }
  slu := { live0.slu with force := [(cfgAddr (objCode objTenant 0) 0, 30)] } }

theorem test_w_FunctionsAndTheirTenants :
    let td : State := { vf3 with hif := { vf3.hif with ctxs := [(3, { state := .resetting, teardown := some ⟨0, 0, 5, [], 0, false⟩ })] } }
    let r : State := { vf3 with rng := { rings := [(64 * 3 + 4, { cplRing with rseq := 2 })] } }
    calm vf3 = true ∧ reachable vf3 2 = true ∧ vf3.hif.linkUp = true ∧ (ctx vf3 2).state = .detached ∧ funcExists vf3 3 = true ∧
      (ctx vf3 3).state = .active ∧ (func vf3 3).bme = true ∧ (func vf3 3).d3 = false ∧ live0.hif.vfEnable = false ∧ calm td = true ∧
      (ctx td 3).state = .resetting ∧ (ctx td 3).teardown.isSome = true ∧ live td 3 = true ∧ bit (func vf3 3).pending 2 = true ∧
      (func vf3 3).msixEnable = true ∧ (func vf3 3).funcMask = false ∧ (dom vf3 9).state = .idle ∧ (dom vf3 (16 + 3)).state = .idle ∧
      (ring r 3 4).state = .active ∧ hostWdS vf3 ≠ 0 ∧ vf3.hif.silent = false ∧
      vf3.hif.lastDoorbell + secs (hostWdS vf3) ≤ vf3.bkd.tick := by decide

theorem test_w_BadDescriptorsAreAnswered :
    ready live0 dAdm = true ∧ ready live0 dSub = true ∧ live live0 0 = true ∧ calm live0 = true ∧ (dom live0 (16 + 0)).state = .idle ∧
      dSub.ring ≠ 0 ∧ dAdm.ring = 0 := by decide

/-- A descriptor of tenant 0 in ring 2 with a buffer. -/
def dBuf : Desc := { dSub with dptr := 0x700000, dlen := 65536 }

/-- Tenant 0 has staged the quality object with one byte changed. -/
def staged0 : State := { live0 with slu := { live0.slu with
  stages := [(0, { objs := [objCode objQuality 0], mem := [(cfgAddr (objCode objQuality 0) 268, 3)], sgen := 4 })] } }

theorem test_w_StagingWritesReadsAndDiscards :
    let key := objKey 0 (objCode objQuality 0)
    objKnown (objCode objQuality 0) = true ∧ dBuf.tenant = 0 ∧ canTake live0 dBuf 0x0101 true = true ∧ bit 0 0 = false ∧
      268 + ([5] : Bytes).length ≤ sizeOf key (if (stage live0 0).objs.contains key then (stage live0 0).clipLen else (newest live0 0 key).2) ∧
      canTake live0 dBuf 0x0102 true = true ∧ 300 ≤ sizeOf key live0.slu.clipLen ∧ sizeOf key live0.slu.clipLen - 300 ≤ dBuf.dlen ∧
      canTake staged0 dBuf 0x0102 true = true ∧ (stage staged0 0).objs.contains key = true ∧ 300 ≤ sizeOf key (stage staged0 0).clipLen ∧
      sizeOf key (stage staged0 0).clipLen - 300 ≤ dBuf.dlen ∧ canTake staged0 dSub 0x0103 false = true := by decide

theorem test_w_StagedBytesReadBack :
    (stage staged0 0).objs.contains (objCode objQuality 0) = true ∧ Mem.wf cfgDefault (stage staged0 0).mem = true := by decide

theorem test_w_CheckStampsAPassingSet :
    canTake live0 dSub 0x0104 false = true ∧ checkFails live0 0 = some (1, 0) := by decide

/-- Tenant 0 has staged a section whose incomer is MP 0, an OUTLET. -/
def badSection : State := { live0 with slu := { live0.slu with
  stages := [(0, { objs := [objCode objSection 0], mem := [(cfgAddr (objCode objSection 0) 0, 0), (cfgAddr (objCode objSection 0) 1, 0)] })] } }

theorem test_w_CheckRejectsABadSectionIncomer :
    canTake badSection dSub 0x0104 false = true ∧ sectionField (candidate badSection 0) 0 0 2 < 256 ∧
      mpRole (candidate badSection 0) (sectionField (candidate badSection 0) 0 0 2) = 0 := by decide

/-- A set that CHECK has stamped, in cycle 10. -/
def checked0 : State := { staged0 with
  clk := { staged0.clk with cycle := some 10 }
  slu := { staged0.slu with stages := [(0, { stage staged0 0 with stamped := some 4 })] } }

/-- An image of the quality object that waits for cycle `c` behind cue 5 of kind `kind`. -/
def pend0 (c kind : Nat) : State := { live0 with
  clk := { live0.clk with cycle := some 10, cues := [(5, ⟨mkStamp c 0, kind, 0, .pending, 0⟩)] }
  slu := { live0.slu with images := [(0, ⟨[objCode objQuality 0], [(cfgAddr (objCode objQuality 0) 268, 3)], 0, mkStamp c 0, 5, true, false⟩)] } }

theorem test_w_CommitsPendAndApply :
    canTake checked0 dSub 0x0105 false = true ∧ agreedSet checked0 0 = false ∧ pickCue checked0 0 = some 0 ∧
      firstFail (commitChecks checked0 0 4 0 (boundaryAfter checked0 8) 8) = none ∧
      canTake (pend0 20 1) dSub 0x0106 false = true ∧ cuePending (cue (pend0 20 1) 5) = true ∧
      nowStamp (pend0 20 1) + angleBits ≤ (cue (pend0 20 1) 5).stamp ∧
      calm (pend0 10 1) = true ∧ cueDue (pend0 10 1) 5 cueCommit = true ∧ cueDue (pend0 9 1) 5 cueCommit = true ∧
      cueDue (pend0 10 2) 5 cueCascade = true ∧ (pend0 10 2).ril.member = false ∧ (tfind (pend0 10 1).slu.images 0).isSome = true ∧
      calSet [objCode objQuality 0] = false := by decide

theorem test_w_CommitOfReadObjects :
    let i : Image := ⟨[objCode objQuality 0], [(cfgAddr (objCode objQuality 0) 268, 3)], 0, mkStamp 10 0, 5, true, false⟩
    ∀ typ ∈ [objMp, objClock, objComp, objCalendar, objBilling, objSlot, objCredit, objRelay, objRadio, objAnn, objClip, objTenant],
      touches i typ = false := by decide

theorem test_w_StagingStaysWithItsTenant : calm staged0 = true ∧ 1 ≠ dSub.tenant := by decide

/-- Tenant 3 ACTIVE above VF3, its rings 0 and 1 in place and one entry to take. -/
def ten3 : State := { live0 with
  slu := { live0.slu with force := [(cfgAddr (objCode objTenant 0) (16 + 16 * 3), 1), (cfgAddr (objCode objTenant 0) (16 + 16 * 3 + 1), 8)] }
  hif := { live0.hif with
    vfEnable := true, numVfs := 4, funcs := [(0, { mse := true, bme := true }), (3, { mse := true, bme := true })]
    ctxs := [(0, { state := .active }), (3, { state := .active })] }
  rng := { rings := live0.rng.rings ++ [(64 * 3, admRing), (64 * 3 + 1, cplRing), (64 * 3 + 2, subRing), (64 * 3 + 3, cplRing)] } }

/-- A descriptor of tenant 3 in its ring 0. -/
def dTen3 : Desc := { dAdm with tenant := 3, dptr := 0x900000, dlen := 65536 }

theorem test_w_RingAndFaultCommandsAreGuarded :
    canTake live0 dAdm 0x0003 false = true ∧ canTake ten3 dTen3 0x0005 true = true ∧ dTen3.tenant ≠ 0 ∧ bit 1 0 = true ∧
      tenantDefined ten3 dTen3.tenant = true ∧ 32 ≤ dTen3.dlen ∧ canTake live0 { dAdm with dlen := 65536 } 0x0005 true = true ∧
      8224 ≤ ({ dAdm with dlen := 65536 } : Desc).dlen := by decide

theorem test_w_FaultHandlingEnds :
    let l : Level := ⟨0x7A3, 1, 0, false⟩
    let h (k : Nat) (q : List (Nat × Nat)) : State := { live0 with
      bkd := { live0.bkd with tick := 4000 }, ev := { live0.ev with doms := [(k, { state := .handling, stack := [l], queue := q })] } }
    let e (k : Nat) : State := { live0 with ev := { live0.ev with doms := [(k, { state := .escalating })] } }
    calm (h 19 []) = true ∧ (dom (h 19 []) 19).state = .handling ∧ (dom (h 19 []) 19).stack = [l] ∧ (dom (h 19 [(5, 2)]) 19).queue = [(5, 2)] ∧
      l.since + 3277 ≤ (h 19 []).bkd.tick ∧ (ctx (h 16 []) 0).state = .active ∧ calm (h 4 []) = true ∧ (dom (h 4 []) 4).stack = [l] ∧
      calm (e 13) = true ∧ (dom (e 13) 13).state = .escalating ∧ (e 13).pwr.serviceDown = false ∧ (dom (e 19) 19).state = .escalating ∧
      (ctx (e 19) 3).teardown = none := by decide

theorem test_w_SuppressionLossesAndTamperWrites :
    let s : State := { live0 with
      bkd := { live0.bkd with tick := 40000 }, clk := { live0.clk with cycle := some 10 }
      ev := { live0.ev with suppressed := [(0x7A1, 9)], lost := [(3, 2)], tampers := [(5, { count := 3 })], tamperDirty := [5], tamperWrite := [(5, 100)] } }
    calm s = true ∧ s.ev.suppressed = [(0x7A1, 9)] ∧ s.clk.cycle.isSome = true ∧ s.ev.lost ≠ [] ∧ waitingEvents s < 8192 ∧
      (dom s 15).state = .idle ∧ s.ev.tamperDirty.contains 5 = true ∧ tget 0 s.ev.tamperWrite 5 + 32768 ≤ s.bkd.tick := by decide

/-- A container of a type from a position with one whole message. -/
def boxOf (typ pos : Nat) (m : Bytes) : Bytes :=
  let b := le 1 typ ++ le 1 pos ++ le 2 5 ++ le 1 m.length ++ le 1 0 ++ le 2 0 ++ pad 92 m ++ zeros 8
  b ++ le 4 (crc32 b)

/-- The hub in frame 5,000 of a trained ring with one head, at position 3. -/
def ring0 (h : Head) : State := { live0 with
  key := { live0.key with drbg := true }
  ply := { live0.ply with started := true, trained := true, whole := true, frame := 5000, heads := [(3, h)] } }

theorem test_w_HeadsJoin :
    let m := le 8 77 ++ le 2 40 ++ le 2 300 ++ le 4 0x401 ++ zeros 4
    let rep : Head := { state := .repeater, join := { step := 1, certLen := 4 } }
    let jn (k : Nat) : Head := { state := .joining, join := { step := k, since := 100, start := 5376 } }
    let ex : Head := { state := .excluded, exclUntil := 0 }
    calm (ring0 rep) = true ∧ arrives (ring0 rep) 3 0x81 (boxOf 0x81 3 m) = true ∧ fld (boxWhole (ring0 rep) 3 (boxOf 0x81 3 m)) 12 1 = 1 ∧
      serialFits (ring0 rep) 3 77 = true ∧ arrives (ring0 rep) 3 0x82 (boxOf 0x82 3 [1, 2, 3, 4]) = true ∧ (ring0 rep).key.drbg = true ∧
      arrives (ring0 (jn 2)) 3 0x83 (boxOf 0x83 3 m) = true ∧ serialFits (ring0 (jn 2)) 3 (head (ring0 (jn 2)) 3).serial = true ∧
      arrives (ring0 (jn 4)) 3 0x84 (boxOf 0x84 3 m) = true ∧ (head (ring0 (jn 4)) 3).join.since + 256 < (ring0 (jn 4)).ply.frame ∧
      calm (ring0 ex) = true ∧ (head (ring0 ex) 3).exclUntil ≤ (ring0 ex).bkd.tick ∧
      canTake (ring0 { ex with held := true }) dSub 0x0307 false = true := by decide +kernel

theorem test_w_HeadMessagesAreTaken :
    let a : Head := { state := .active, session := some 9000, unacked := [⟨3, 7, 9, false, 0, [1], 4990, none, 0⟩] }
    let m := zeros 4 ++ le 4 6 ++ le 1 1 ++ zeros 11
    let ev := le 1 1 ++ zeros 3 ++ le 4 6 ++ le 1 1 ++ zeros 11
    calm (ring0 a) = true ∧ (dom (ring0 a) 0).state = .idle ∧ (dom (ring0 a) 1).state = .idle ∧ (dom (ring0 a) 2).state = .idle ∧
      arrives (ring0 a) 3 0x87 (boxOf 0x87 3 (le 2 9)) = true ∧ arrives (ring0 a) 3 0x88 (boxOf 0x88 3 m) = true ∧
      arrives (ring0 a) 3 0x89 (boxOf 0x89 3 m) = true ∧ arrives (ring0 a) 3 0x8B (boxOf 0x8B 3 ev) = true ∧
      arrives (ring0 a) 3 0x8C (boxOf 0x8C 3 (le 4 0 ++ [1])) = true ∧ arrives (ring0 a) 3 0x8A (boxOf 0x8A 3 m) = true := by decide +kernel

theorem test_w_OneNewEntry :
    let m := boxWhole (ring0 { state := .active }) 3 (boxOf 0x8B 3 (le 1 1 ++ zeros 3 ++ le 4 6 ++ le 1 1 ++ zeros 11))
    fld m 0 1 = 1 ∧ fld m 2 2 = 0 ∧ fld m 8 1 = 1 ∧ 0 < fld m 4 4 := by decide +kernel

/-- A hub without heads, in frame 5,000 of a trained ring without heads. -/
def bare0 : State := { live0 with ply := { live0.ply with started := true, trained := true, whole := false, frame := 5000 } }

/-- A section of zeros with a good check. -/
def section0 : Bytes := zeros 68 ++ le 2 (crc16 (zeros 68))

theorem test_w_FramesOfABareHub :
    bare bare0 = true ∧ bare0.clk.log = [] ∧ bare0.ply.base ≤ bare0.ply.frame ∧ sectionGood section0 = true ∧
      bit (fld section0 60 1) 2 = false ∧ (∀ c ∈ headChans 3, (chan bare0 c).label < bare0.ply.frame) ∧
      (∀ i, i < 8 → (chan bare0 (1088 + i)).label < nextFrame bare0) := by decide +kernel

theorem test_w_FramesAndSections :
    let m : DownMsg := ⟨3, 7, 9, false, 0, [1], 4900, none, 0⟩
    let h : Head := { state := .repeater, unacked := [m], reports := [(1, 4999)], win := [(2, ⟨0, 0, [], []⟩)] }
    let o : MpOut := ⟨10, 5, 100, [1, 1, 1], [1, 1, 1], 1, 0, []⟩
    let mp (n : Nat) : State := { ring0 h with
      slu := { live0.slu with force := [(cfgAddr (objCode objMp 0) (64 * 256), 2)] }
      met := { live0.met with mps := [(256, { queue := [o], sinceBad := n })] } }
    calm (ring0 h) = true ∧ (head (ring0 h) 3).unacked.find? (fun x => x.mseq == 9) = some m ∧ m.frame + 64 ≤ (ring0 h).ply.frame ∧
      (dom (ring0 h) 2).state = .idle ∧ (head (ring0 h) 3).reports.find? (fun x => x.1 == 1) = some (1, 4999) ∧ (dom (ring0 h) 1).state = .idle ∧
      (ring0 h).flt.chans = [] ∧ tfind (head (ring0 h) 3).win 2 = some ⟨0, 0, [], []⟩ ∧ thas (head (ring0 h) 3).verdicts 2 = false ∧
      256 * 2 + 512 ≤ (ring0 h).ply.frame ∧ calm (mp 0) = true ∧ mpAbsent (mp 0) 256 = false ∧ (mpOf (mp 200) 256).queue = [o] ∧
      o.last + 512 ≤ 5000 ∧ (∀ p, p < 4 → fld (pinOf (mp 200) p).cfg 0 2 ≠ 256) ∧ outBad (mp 200) o = false := by decide +kernel

theorem test_w_ABoundaryNumbersTheCycle :
    let b : State := { bare0 with clk := { bare0.clk with cycle := some 10, numbering := true }, pwr := { bare0.pwr with serviceDown := true } }
    calm live0 = true ∧ live0.clk.numbering = false ∧ bare b = true ∧ b.ril.member = false ∧ b.ril.joined = false ∧ b.ril.steps = [] ∧
      b.lgl.pending = none ∧ b.bkd.breakLatch = none ∧ b.cis.ladNext = [] ∧ b.cis.ladFirst = [] ∧ b.met.recon = [] ∧
      (∀ k, k < 8 → sectionField b k 0 2 = 0xFFFF) := by decide +kernel

theorem test_w_SyncResetsRun :
    let b : State := { bare0 with
      clk := { bare0.clk with cycle := some 10, frame := 5000, cues := [(5, ⟨mkStamp 10 16000, 3, 0, .pending, 2 ^ 64⟩)] }
      flt := { bare0.flt with chans := [(1088, { syncWait := some (4900, 7) })] }
      slu := { live0.slu with force := [(cfgAddr (objCode objSync 0) 0, 1)] } }
    canTake b dSub 0x0302 false = true ∧ b.ril.master = false ∧ b.ril.member = false ∧ syncArg 0 true ≠ 0 ∧
      cueCheck b cueSync (mkStamp 20 0) = none ∧ syncConflict b (mkStamp 20 0) (syncArg 0 true) = false ∧ cueRoom b 0 = none ∧
      (pickCue b 0).isSome = true ∧ calm b = true ∧ bit (syncField b 0 1) 0 = true ∧ b.flt.lastEdge = none ∧
      syncConflict { b with clk := { b.clk with cues := [] } } (mkStamp (10 + syncField b 1 1 + 1) (syncField b 2 2)) (syncArg (2 ^ 64 - 1) true) = false ∧
      (cue b 5).state = .pending ∧ b.pwr.serviceDown = false ∧ b.ply.frame + 16 ≤ (framePlace (stampFrames b (cue b 5).stamp)).1 ∧
      (framePlace (stampFrames b (cue b 5).stamp)).1 ≤ b.ply.frame + 64 ∧ (chan b 1088).syncWait = some (4900, 7) ∧ 4900 + 64 ≤ b.ply.frame := by
  decide +kernel

theorem test_w_TestPulsesAndTemperature :
    let pins (x : CfPin) : State := { ring0 {} with met := { live0.met with pins := [x] } }
    let a : CfPin := { pending := 2, rise := some 4990 }
    let b : CfPin := { high := true, rise := some 4000, width := 1024 }
    calm (pins a) = true ∧ 0 < (pins a).met.pins.length ∧ 0 < (pinOf (pins a) 0).pending ∧ 4990 + 4 ≤ (pins a).ply.frame ∧
      (pinOf (pins b) 0).high = true ∧ (pinOf (pins b) 0).width ≤ ((pins b).ply.frame - 4000) * 100 ∧ live0.met.tempExt ≠ true ∧
      legalReadOnly live0 = false ∧ live0.lgl.roll.length + 1 < rollCapacity := by decide

/-- The hub with its jumper in place and the lock strapped, and its copy of the digest's operand. -/
def sealing0 : State := { live0 with lgl := { live0.lgl with lockStrapped := true, brkOpen := false } }

theorem test_w_SealOperand :
    be 32 (Config.sha256 ((calObjects.map fun o => cfgBytes sealing0 o 0 (objSize o)).flatten)) = calDigest sealing0 := rfl

theorem test_w_TheSealAndItsDisplay :
    let v : State := { live0 with bkd := { live0.bkd with tick := 4000000 }, lgl := { live0.lgl with screen := 0x900, holdUntil := some 5 } }
    let z : State := { live0 with lgl := { live0.lgl with state := .sealed } }
    canTake sealing0 dSub 0x0107 true = true ∧ sealing0.lgl.lockStrapped = true ∧ sealing0.lgl.brkOpen = false ∧ sealing0.bkd.breakLatch = none ∧
      sealing0.lgl.state ≠ .sealed ∧ calPending sealing0 = false ∧ 65 ≤ permFree sealing0 ∧ calm v = true ∧ calm z = true ∧
      z.lgl.lockStrapped ≠ !z.lgl.lockStrapped ∧ v.lgl.frameAt + 16384 ≤ v.bkd.tick ∧ v.lgl.screenAt + secs 5 ≤ v.bkd.tick ∧ 0x100 ≤ v.lgl.screen := by
  decide

/-- A capture set with one channel, one slot and command triggers. -/
def capt0 (slot : Capture) : State := { live0 with
  clk := { live0.clk with cycle := some 10, cues := [(5, ⟨mkStamp 10 0, 7, 0, .pending, 0⟩)] }
  slu := { live0.slu with force := [(cfgAddr (objCode objCapture 0) 0, 1), (cfgAddr (objCode objCapture 0) 3, 1), (cfgAddr (objCode objCapture 0) 4, 32)] }
  pqe := { live0.pqe with caps := [(0, { slots := [slot] })] } }

theorem test_w_CapturesRun :
    let y : Capture := { state := .collecting, chs := [0], stop := 11, data := [⟨0, 10, 127, 5, 0⟩] }
    canTake (capt0 {}) dSub 0x0305 false = true ∧ capCh (capt0 {}) 0 ≠ [] ∧ bit (capTrig (capt0 {}) 0) 5 = true ∧
      (span 0 4).find? (fun j => (nth {} (capSet (capt0 {}) 0).slots j).state == .collecting) = none ∧
      (span 0 (capSlots (capt0 {}) 0)).find? (fun j => (nth {} (capSet (capt0 {}) 0).slots j).state == .free) = some 0 ∧
      0 < (capSet (capt0 {}) 0).slots.length ∧ cueDue (capt0 {}) 5 cueCapture = true ∧
      mkStamp (nowCycle (capt0 {})) 0 ≤ cueInstant (cue (capt0 {}) 5).stamp ∧ capOverwrite (capt0 y) 0 = false ∧ calm (capt0 y) = true ∧
      (y.chs.all fun c => y.data.any fun x => x.ch == c && x.cycle + 1 == y.stop && x.k == 127) = true ∧
      canTake (capt0 { y with state := .ready }) dBuf 0x0306 true = true := by decide +kernel

/-- The hub with a spare of the local channels. -/
def spare0 (x : Spare) : State := { live0 with
  bkd := { live0.bkd with tick := 40000000 }, clk := { live0.clk with cycle := some 100 }
  pqe := { live0.pqe with spares := [(64, x)], autoNext := 1088, freqStart := some 0 } }

theorem test_w_SparesRotate :
    let mis : Spare := { phase := .parallel, mismatch := 8, measure := some 50 }
    canTake (spare0 {}) dSub 0x0303 false = true ∧ (spare (spare0 {}) (spareArg 0xFF)).parked = none ∧
      (spare (spare0 {}) (spareArg 0xFF)).phase = .idle ∧ canTake (spare0 { faulty := true }) dSub 0x0304 false = true ∧
      (spare (spare0 { faulty := true }) (spareArg 0xFF)).faulty = true ∧ calm (spare0 mis) = true ∧ (dom (spare0 mis) 1).state = .idle ∧
      8 ≤ (spare (spare0 mis) 64).mismatch ∧ rotNeed (spare0 mis) (spare (spare0 mis) 64).phase ≠ 0 ∧
      50 + 16 ≤ nowCycle (spare0 mis) ∧ qualityField (spare0 {}) 358 2 ≠ 0 ∧
      (spare0 {}).pqe.lastAuto + secs (qualityField (spare0 {}) 358 2) ≤ (spare0 {}).bkd.tick ∧
      ((span 0 1096).map fun i => ((spare0 {}).pqe.autoNext + i) % 1096).find? (fun c => autoChannel (spare0 {}) c &&
        (spare (spare0 {}) (spareSet c)).queue.isEmpty && (spare (spare0 {}) (spareSet c)).parked.isNone &&
        !(spare (spare0 {}) (spareSet c)).faulty) = some 1088 ∧ live0.pqe.freqStart = none ∧
      0 + 327680 ≤ (spare0 {}).bkd.tick := by decide +kernel

/-- A numbered hub with an open session on MP 4 of tenant 0, and MP 5 without one. -/
def tar0 (x : Session) : State := { live0 with
  clk := { live0.clk with cycle := some 10, freq := 3276800 }
  slu := { live0.slu with force := [(cfgAddr (objCode objMp 0) (64 * 4), 1), (cfgAddr (objCode objMp 0) (64 * 5), 1)] }
  tar := { live0.tar with nextId := 8, blockEnd := 64, live := { live0.tar.live with sessions := [(7, x)] } } }

/-- That session. -/
def open0 : Session := { mp := 4, tenant := 0, start := 3, opened := true }

theorem test_w_SessionsAndPeriodsAreAsked :
    cueCheck (tar0 open0) cueReport (stampOr (tar0 open0) 0) = none ∧ cueRoom (tar0 open0) 0 = none ∧
      canTake (tar0 open0) dSub 0x0501 false = true ∧ mpAbsent (tar0 open0) 5 = false ∧ tenantDefined (tar0 open0) 0 = true ∧
      mpTaken (tar0 open0) 5 = false ∧ (tar0 open0).tar.nextId + 1 < (tar0 open0).tar.blockEnd ∧ canTake (tar0 open0) dSub 0x0502 false = true ∧
      sessionById (tar0 open0) 7 = some open0 ∧ open0.isOpen = true ∧ canTake (tar0 open0) dSub 0x0504 false = true ∧
      (bill (tar0 open0) 0).ends = [] := by decide +kernel

/-- The hub with a due cue of a kind, calendar 0 in force and, with `p`, a passive slot that is due. -/
def cal0 (kind : Nat) (p : Bool) : State := { tar0 { open0 with closeAt := some (10, 0) } with
  clk := { (tar0 open0).clk with cues := [(5, ⟨mkStamp 10 0, kind, 0, .pending, 0⟩)] }
  bkd := { live0.bkd with osf := false }
  slu := { live0.slu with force := if p then [(cfgAddr (slotKey 0 true) 2, 1)] else [] } }

theorem test_w_TariffSwitch :
    calm (cal0 cueTariff false) = true ∧ cueDue (cal0 cueTariff false) 5 cueTariff = true ∧ bit (cue (cal0 cueTariff false) 5).arg 14 = false ∧
      slotPresent (cfgRd (cal0 cueTariff false) (slotKey 0 true)) = false ∧ slotPresent (cfgRd (cal0 cueTariff false) (slotKey 0 false)) = true ∧
      cueDue (cal0 cueTariff true) 5 cueTariff = true ∧ Mem.wf cfgDefault (cal0 cueTariff true).slu.force = true ∧
      slotPresent (cfgRd (cal0 cueTariff true) (slotKey 0 true)) = true ∧
      (cfg (cal0 cueTariff true) (slotKey 0 true) 8 8 : Int) ≤ utcAt (cal0 cueTariff true) 0 := by decide +kernel

theorem test_w_TariffCuesRun :
    let e : Snap := ⟨4, 0, 0, 1, 0, 0, 0, {}, 0⟩
    let b : State := { cal0 cueReport false with tar := { (cal0 cueReport false).tar with live := {
      (cal0 cueReport false).tar.live with bills := [(0, { ends := [9], pend := [e] })], sessions := [(7, { open0 with closeAt := some (10, 0) }),
        (8, { open0 with opened := false })] } } }
    calm b = true ∧ cueDue b 5 cueReport = true ∧ ((bill b 0).ends.any fun e => decide (e ≤ nowCycle b)) = true ∧
      (sessionById b 7).map (·.closeAt) = some (some (10, 0)) ∧ (sessionById b 8).map (·.opened) = some false ∧ (bill b 0).pend = [e] ∧
      allSettled b 4 = true := by decide +kernel

/-- The hub with counter values reserved for its signing slots, and a descriptor with a large buffer. -/
def sign0 : State := { tar0 open0 with
  key := { live0.key with ctrs := [(3, { next := 300 }), (5, { next := 300 })] }
  cis := { live0.cis with ladders := [(ctrLadder 3, { f := 2, parked := false }), (ctrLadder 5, { f := 2, parked := false })] } }
def dBig : Desc := { dSub with dptr := 0x700000, dlen := 4096 }

theorem test_w_TariffReads :
    let l := (sessions sign0).filter fun p => p.2.isOpen && decide (0 ≤ p.1) && ((0xFF : Nat) == 0xFF || p.2.tenant == 0xFF)
    canTake sign0 dBig 0x0301 true = true ∧ ((span 4 2).flatMap fun k => metRecord sign0 k false).length ≤ dBig.dlen ∧
      canTake sign0 dBig 0x0503 true = true ∧ ((l.take 4).map fun p => sessionBytes sign0 p.1 p.2).flatten.length ≤ dBig.dlen ∧
      canTake sign0 dBig 0x0505 true = true ∧ (billOut sign0 1 0 0 1).length ≤ dBig.dlen ∧ (sessionById sign0 7).any Session.isOpen = true ∧
      (billOut sign0 2 0 7 1).length ≤ dBig.dlen ∧ (billOut sign0 3 0 4 1).length ≤ dBig.dlen := by decide +kernel

theorem test_w_Snapshots :
    let e : Snap := ⟨4, 0, 0, 1, 0, 0, 0, {}, 0⟩
    let b : State := { sign0 with tar := { sign0.tar with live := { sign0.tar.live with bills := [(0, { snaps := [e] })] } } }
    canTake b dBig 0x0505 true = true ∧ ((bill b 0).snaps.any fun p => p.period == 1) = true ∧ (billOut b 0 0 1 1).length ≤ dBig.dlen := by
  decide +kernel

theorem test_w_TariffAndMeterReads :
    let b : Bytes := [3, 0, 4, 0, 0, 0, 0, 0]
    canTake sign0 dBig 0x0401 true = true ∧ signRoom sign0 0 = true ∧ (dom sign0 5).state = .idle ∧ sign0.ril.aggs = [] ∧
      ((requestsOf b 1).all fun r => reqWell r && reqFound sign0 r && reqT r != 8) = true ∧
      slotReady sign0 (blobSlot 0 1) = true ∧ (keyCtr sign0 (blobSlot 0 1)).next < ctrTop sign0 (blobSlot 0 1) := by decide +kernel

/-- The hub with tenant 0 PREPAID and EXHAUSTED with emergency credit to give, MP 4 present and open for it, and a keypad entry. -/
def credit0 (k : Keypad) : State := { tar0 open0 with
  slu := { (tar0 open0).slu with force := [(cfgAddr (objCode objMp 0) (64 * 4), 1), (cfgAddr (objCode objCredit 0) 8, 1),
    (cfgAddr (objCode objCredit 0) 20, 5)] }
  crd := { keypad := k, accounts := [(0, { prepaid := true, state := 3 })] } }

theorem test_w_TokensAreChecked :
    let b : Bytes := List.replicate 20 0x31
    let k1 : Keypad := { phase := 1, mp := [4] }
    let k2 : Keypad := { phase := 2, mp := [4], digits := List.replicate 20 1 }
    (credit0 {}).cis.readOnly.contains 2 = false ∧ prepaid (credit0 {}) 0 = true ∧ canTake (credit0 {}) dSub 0x0601 false = true ∧
      tenantDefined (credit0 {}) 0 = true ∧ tget 0 (credit0 {}).crd.funcLock 0 ≤ (credit0 {}).bkd.tick ∧ b.length = 20 ∧
      (b.all fun c => decide (48 ≤ c.toNat ∧ c.toNat ≤ 57)) = true ∧ calm (credit0 k1) = true ∧ (credit0 k1).crd.lockDue = false ∧ (credit0 k2).crd.lockDue = false ∧ keypadLocked (credit0 k1) = false ∧
      digitsVal k1.mp ≤ 255 ∧ mpAbsent (credit0 k1) (digitsVal k1.mp) = false ∧ mpTenant (credit0 k1) (digitsVal k1.mp) = 0 ∧
      calm (credit0 k2) = true ∧ k2.digits.length = 20 ∧ ecRefusal (credit0 { k1 with phase := 3 }) 0 = none := by decide +kernel

theorem test_w_AccountsAndLockouts :
    let l : State := { credit0 { phase := 2 } with bkd := { live0.bkd with tick := 40000000, ret := { live0.bkd.ret with lockUntil := 9 } } }
    canTake (credit0 {}) dSub 0x0602 false = true ∧ ecRefusal (credit0 {}) 0 = none ∧ canTake (credit0 {}) dBig 0x0606 true = true ∧
      48 ≤ dBig.dlen ∧ canTake l dSub 0x0605 false = true ∧ l.bkd.ret.lockUntil ≠ 0 ∧ calm l = true ∧ l.bkd.ret.lockUntil ≤ nowSec l ∧
      l.crd.keypad.phase ≠ 0 ∧ l.crd.keypad.last + secs 30 ≤ l.bkd.tick := by decide +kernel

/-- The credit hub with the relay of MP 4 as given and its session's tenant 0 not exhausted. -/
def relay0 (r : Relay) : State := { credit0 {} with
  ply := { live0.ply with started := true, frame := 5000 }
  crd := { relays := [(4, r)], accounts := [(0, { prepaid := true })] } }

/-- A credit sequence whose warning sounds. -/
def seq0 : RelSeq := ⟨false, true, .warning, 1, mkStamp 10 0, 7, 8, false, 0⟩

theorem test_w_SwitchingIsAsked :
    let z := relay0 { state := .closed }
    let q := relay0 { state := .closed, seq := some seq0 }
    let e : State := { z with crd := { z.crd with accounts := [(0, { prepaid := true, state := 3 })] } }
    sessionById q 7 = some open0 ∧ open0.isOpen = true ∧ canTake q dSub 0x0603 false = true ∧ canTake q dSub 0x0604 false = true ∧
      open0.nonPerishable = false ∧ (seqOf q 4).any (fun q => q.credit && !q.operator) = true ∧ canTake z dSub 0x0701 false = true ∧
      mpAbsent z 4 = false ∧ (startClose z 4 1).toBool = true ∧ (openSession z 4).map (exhausted z ·.2.tenant) = some false ∧
      (openSession e 4).map (exhausted e ·.2.tenant) = some true ∧ (startClose e 4 1).toBool = true ∧
      (startOpen z 4 true false 0).toBool = true ∧ canTake q dSub 0x0701 false = true ∧ seq0.phase ≠ .held ∧
      canTake z dBig 0x0702 true = true ∧ 24 * 2 ≤ dBig.dlen := by decide +kernel

/-- An arm of MP 12 at position 3, for cue 7. -/
def arm0 (st : ArmState) : Arm := ⟨1, 3, 5001, 5040, 0, 12, 1, 7, 1, 0, 20000, st, 0, 0⟩

/-- The ring with that arm and its cue. -/
def arms0 (st : ArmState) (h : HeadState) : State := { ring0 { state := h, session := some 100 } with
  clk := { live0.clk with cycle := some 10, freq := 3276800, cues := [(7, ⟨mkStamp 12 0, cueRelay, 0, .pending, relayArg 12 1⟩)] }
  ply := { (ring0 { state := h, session := some 100 }).ply with arms := [arm0 st] } }

theorem test_w_RelaysMove :
    let q := relay0 { state := .closing, seq := some seq0 }
    let due : State := { q with clk := { q.clk with cues := [(8, ⟨mkStamp 10 0, cueRelay, 0, .armed, relayArg 4 2⟩)] } }
    let f : State := { relay0 { state := .closed, fb := 1, since := some 5 } with bkd := { live0.bkd with tick := 400000 } }
    let m (c : Nat) : Bytes := le 4 1 ++ le 1 c ++ zeros 7
    calm due = true ∧ cueDue due 8 cueRelay = true ∧ (seqOf due 4).any (fun x => x.cue == 8) = true ∧
      calm (arms0 .reserved .active) = true ∧ cueDue (arms0 .reserved .active) 7 cueRelay = false ∧
      armOf (arms0 .reserved .active) 7 = some (arm0 .reserved) ∧ (arm0 .reserved).send = nextFrame (arms0 .reserved .active) ∧
      seqOf (arms0 .reserved .active) 12 = none ∧ seq0.switch ≤ nowStamp q ∧ q.clk.cycle.isSome = true ∧
      (relay q 4).limit ≤ q.bkd.tick ∧ calm f = true ∧ persistOf f 4 = some (.faultNoclose, 3277) ∧ 5 + 3277 ≤ f.bkd.tick ∧
      arrives (arms0 .sent .repeater) 3 0x85 (boxOf 0x85 3 (m 0)) = true ∧ boxWhole (arms0 .sent .repeater) 3 (boxOf 0x85 3 (m 0)) = m 0 ∧
      armById (arms0 .sent .repeater) 3 (fld (m 0) 0 4) = some (arm0 .sent) ∧ (arms0 .sent .repeater).ply.frame < (arm0 .sent).act ∧
      arrives (arms0 .sent .repeater) 3 0x86 (boxOf 0x86 3 (m 1)) = true ∧ fld (m 1) 4 1 = 1 := by decide +kernel

/-- An open chain with one binding, and the hub with it, a lease of another logger and of the bound one. -/
def chain0 : Chain := { tenant := 0, mp := 4, seq := 5, last := zeros 64, binds := [(0, { short := 9, eui := 77, evid := 3, heard := 4 })] }
def cus0 : State := { tar0 open0 with
  bkd := { live0.bkd with tick := 4000000000 }
  cus := { live0.cus with chains := [(7, chain0)] }
  key := { live0.key with slots := live0.key.slots ++ [(144, { kgen := 1, valid := true, owner := 0 })] }
  cmp := { live0.cmp with leases := [(8, ⟨66, 144, 0, 1, 9⟩), (9, ⟨77, 144, 0, 1, 9⟩)] } }

theorem test_w_CustodyRecordsAreWritten :
    chainOf cus0 7 = some chain0 ∧ chain0.count + 1 < 255 ∧ chain0.seq + 1 < 2 ^ 48 - 2 ∧ (sessionById cus0 7).any Session.isOpen = true ∧
      canTake cus0 dSub 0x0803 false = true ∧ (chain0.notes.filter fun t => decide (cus0.bkd.tick < t + secs 60)).length < 16 ∧
      canTake cus0 dSub 0x0801 false = true ∧ tfind cus0.cmp.leases 9 = some ⟨77, 144, 0, 1, 9⟩ ∧
      (chain0.binds.find? fun p => p.2.short == 9 && 77 == p.2.eui).isSome = true ∧ tfind cus0.cmp.leases 8 = some ⟨66, 144, 0, 1, 9⟩ ∧
      chain0.binds.find? (fun p => p.2.short == 8 && 66 == p.2.eui) = none ∧ (span 0 4).find? (fun k => !thas chain0.binds k) = some 1 ∧
      (keySlot cus0 144).owner = 0 ∧ canTake cus0 dSub 0x0802 false = true ∧ calm cus0 = true ∧ gapOpen chain0 1 0 = false ∧
      4 + secs (custodyField cus0 chain0.mp 6 2) ≤ cus0.bkd.tick := by decide +kernel

/-- An import blob of a token key for tenant 0 in slot 80. -/
def blob0 : Bytes := le 2 0x4B49 ++ le 2 80 ++ le 2 1 ++ [8, 0] ++ zeros 8 ++ [16] ++ zeros 127

theorem test_w_KeySlotsAreWritten :
    let s : State := { live0 with key := { live0.key with drbg := true } }
    s.key.writes = [] ∧ keysWritable s = true ∧ fixedSlot 259 = false ∧ nextGen s 259 ≤ 65535 ∧ canTake s dBig 0x0901 true = true ∧
      signKind 259 = true ∧ drbgUp s = true ∧ 160 ≤ dBig.dlen ∧ canTake s dBig 0x0902 true = true ∧ 128 ≤ blob0.length ∧
      fld blob0 0 2 = 0x4B49 ∧ fld blob0 2 2 = 80 ∧ slotKind 80 = some (fld blob0 6 1) ∧ (importLen (fld blob0 6 1)).isSome = true ∧
      tokenSlot s (fld blob0 7 1) = none ∧ tenantDefined s (fld blob0 7 1) = true ∧ canTake s dSub 0x0903 false = true ∧ slotKind 5 ≠ some 7 ∧ (keySlot s 5).valid = true ∧
      s.cus.ops = [] ∧ calm s = true := by decide +kernel

theorem test_w_SignaturesAndRandomness :
    let o : OpenCmd := ⟨dBig, 0x0904, 1, false, [], [], 9, []⟩
    let g (p : Nat) : State := { live0 with
      key := { live0.key with drbg := true, requests := 1048576 }
      cus := { live0.cus with ops := [{ purpose := p, slot := 0, opened := true, token := 9, session := 7, body := [1, 2] }] }
      cmd := { live0.cmd with opens := [o] } }
    let dn : State := { live0 with key := { live0.key with drbg := false } }
    canTake live0 dBig 0x0904 true = true ∧ signRoom live0 0 = true ∧ mayAttest live0 0 5 = true ∧ p256Slot 5 = true ∧ slotReady live0 5 = true ∧
      calm (g 0) = true ∧ drbgUp (g 0) = true ∧ ((g 0).cus.ops.find? (·.opened)).map (·.purpose) = some 0 ∧ tailRoom (g 0) 2 = true ∧
      waitingCmds (g 3) 0x0904 9 = [o] ∧ live (g 3) 0 = true ∧ reseedDue (g 3) = true ∧ (dom live0 5).state = .idle ∧ calm dn = true ∧
      dn.key.drbg = false ∧ dn.key.retryAt ≤ dn.bkd.tick := by decide +kernel

/-- The hub with an archived item, one of six units in the tail, an erase under way and an increment of an application ladder. -/
def flash0 (u : Nat) : State := { live0 with cis := { live0.cis with
  tail := [⟨4, 0, 7, 9, u, zeros 64, false⟩], log := [⟨1, 0, 7, 8, 1, zeros 64, false⟩], segs := [(0, 8, 1)], erases := [(300, 3, 92)]
  incs := [ladderKey 2 0], ladders := [(ladderKey 2 0, { f := 5, parked := false })] } }

theorem test_w_FlashOperationsComplete :
    let s := flash0 6
    let p := flash0 1
    calm s = true ∧ (blockOf s 300).part = 3 ∧ s.cis.prog + 1 < 6 ∧ s.cis.readOnly.contains 3 = false ∧ p.cis.prog + 1 = 1 ∧
      p.cis.waiting = [] ∧ p.cis.segs.getLast?.any (fun g => decide (g.2.2 + 1 ≤ 765)) = true ∧ (blockOf s 20).part ≠ 3 ∧
      s.cis.erases.find? (fun e => e.1 % 4 == 300 % 4) = some (300, 3, 92) ∧ (ladder s (ladderKey 2 0)).parked = false ∧
      (ladder s (ladderKey 2 0)).f + 1 < 1920 ∧ tget 0 s.cis.ladNext (ladderKey 2 0 / 65536) / 4080 + 1 <
        tget 0 s.cis.ladFirst (ladderKey 2 0 / 65536) + ladPairs (ladderKey 2 0 / 65536) := by decide +kernel

theorem test_w_LogsAndArchiveAreRead :
    let it : Item := ⟨6, 0, 7, 11, 1, zeros 64, false⟩
    let r (pg : Option OpenPage) : State := { str0 with
      rng := { rings := live0.rng.rings ++ [(4, { strRing with page := pg })] }, cis := { live0.cis with log := [it] } }
    let pg : OpenPage := ⟨0x600000, 9, 5, [], 0, false, 0, none⟩
    canTake (r none) dSub 0x0A01 false = true ∧ (ring (r none) 0 4).page = none ∧ ((r none).cis.log.all fun i => decide (i.aseq < 12)) = true ∧
      canTake (r (some pg)) dSub 0x0A01 false = true ∧ 0 < ringFree (ring (r (some pg)) 0 4) ∧
      0 + recSize ⟨it.kind, 1, it.aseq, it.tenant, it.session, it.body⟩ ≤ 4096 ∧ canTake live0 dBig 0x0A02 true = true ∧
      (((logAll live0).filter fun e => decide (0 ≤ fld e 0 4)).take 9).flatten.length + 64 ≤ dBig.dlen ∧ signRoom live0 0 = true ∧
      canTake live0 dBig 0x0A03 true = true ∧ (tamperPage live0 3).length ≤ dBig.dlen ∧ (tamperPage live0 tamperDevice).length ≤ dBig.dlen := by
  decide +kernel

/-- The hub with a radio as given. -/
def radio0 (x : Cmp) : State := { cus0 with
  cmp := x
  key := { cus0.key with ctrs := [(512 + 144, { next := 5 })] }
  cis := { live0.cis with ladders := [(ctrLadder (512 + 144), { f := 1, parked := false })] } }

/-- A frame in the queue, and a radio with it. -/
def frame0 (k : Option Nat) (n : Nat) : TxFrame := ⟨1, false, 7, 8, false, k, none, 0, [], zeros 4, some 5, n, 0⟩
def queue0 (k : Option Nat) (n : Nat) : Cmp := { cus0.cmp with mode := 1, queue := [frame0 k n], nextId := 2 }

theorem test_w_TheRadioSends :
    let r := radio0 (queue0 none 1)
    let z := radio0 (queue0 (some 144) 1)
    let air := radio0 { cus0.cmp with mode := 1, air := some ⟨frame0 none 0, [1], 0, 0, 5, 900⟩ }
    let sw := radio0 { cus0.cmp with mode := 1, switch := some ⟨1, 0⟩ }
    let m2 := radio0 { cus0.cmp with mode := 2 }
    let dp : Desc := { dSub with dptr := 0x700000, dlen := 8 }
    canTake r dBig 0x0B01 true = true ∧ ((r.cmp.leases.take 4).flatMap fun p => leaseEntry r p.1 p.2).length ≤ dBig.dlen ∧
      canTake r dSub 0x0B02 false = true ∧ leaseOf r 66 = some (8, ⟨66, 144, 0, 1, 9⟩) ∧ canTake r dp 0x0B03 true = true ∧
      slotKind 144 = some 9 ∧ (keySlot r 144).owner = 0 ∧ canTake m2 dp 0x0B04 true = true ∧ calm r = true ∧ queued r 1 = some (frame0 none 1) ∧
      canSend r (frame0 none 1) = true ∧ r.cmp.queue.head? = some (frame0 none 1) ∧ queued z 1 = some (frame0 (some 144) 1) ∧
      canSend z (frame0 (some 144) 1) = true ∧ slotReady z 144 = true ∧ (keyCtr z (512 + 144)).next < ctrTop z (512 + 144) ∧
      bit (bandField (radio0 { queue0 none 1 with band := 2 }) 2 0 1) 1 = true ∧ canSend (radio0 { queue0 none 1 with band := 2 }) (frame0 none 1) = true ∧ 5 + secs 60 ≤ r.bkd.tick ∧
      air.cmp.air.isSome = true ∧ calm air = true ∧ r.cmp.nextBeacon ≤ r.bkd.tick ∧ r.cmp.switch = none ∧
      sw.cmp.switch.map (·.at_) = some 1 ∧ calm sw = true ∧ (dom r 7).state = .idle ∧ r.clk.cycle.isSome = true := by decide +kernel

/-- Frames of this network under slot 144: a JOIN_REQ of EUI 55, and DATA of the node at address 8. -/
def join0 : Bytes := le 1 0x11 ++ zeros 2 ++ le 2 0xFFFE ++ zeros 2 ++ [1, 0, 1] ++ le 4 9 ++ le 8 55 ++ zeros 12
def data0 : Bytes := le 1 0x13 ++ zeros 2 ++ le 2 8 ++ zeros 2 ++ [1, 0, 1] ++ le 4 9 ++ zeros 36

theorem test_w_TheRadioReceives :
    let r : State := { radio0 { cus0.cmp with mode := 1 } with
      slu := { cus0.slu with force := cus0.slu.force ++ [(cfgAddr (objCode objRadio 0) 6, 1), (cfgAddr (objCode objRadio 0) 272, 100),
        (cfgAddr (objCode objRadio 0) 274, 50)] } }
    let m (i : Nat) : State := { radio0 { cus0.cmp with mode := 2, leases := [(8, ⟨66, 144, 0, 2, 9⟩)] } with
      slu := { cus0.slu with force := cus0.slu.force ++ [(cfgAddr (objCode objRadio 0) 12, BitVec.ofNat 8 i)] }
      rng := { rings := live0.rng.rings ++ [(4, { strRing with typ := .raw, page := none, bufEmpty := true })] } }
    let f : RxFrame := ⟨[1, 2], -50, true, bit (bandField (m 4) (m 4).cmp.band 0 1) 2, (m 4).cmp.rate⟩
    calm r = true ∧ r.pwr.serviceDown = false ∧ r.cmp.air = none ∧ campion r join0 = true ∧ r.cmp.seen = [] ∧ fld join0 5 2 = 0 ∧
      frameSlot r join0 = (144, none) ∧ fld join0 0 1 % 16 = 1 ∧ fcOk r (fld join0 14 8) 144 (fld join0 10 4) = true ∧
      bit (radioField r 6 1) 0 = true ∧ freeShort r (fld join0 14 8) (keySlot r 144).owner = some 100 ∧ campion r data0 = true ∧
      fld data0 0 1 % 16 = 3 ∧ frameSlot r data0 = (144, none) ∧ tfind r.cmp.leases (fld data0 3 2) = some ⟨66, 144, 0, 1, 9⟩ ∧
      fcOk r 66 144 (fld data0 10 4) = true ∧ bit (radioField r 6 1) 1 = false ∧ 64 ≤ radioField (m 64) 12 1 ∧ calm (m 4) = true ∧
      (ring (m 4) 0 4).typ = .raw ∧ (ring (m 4) 0 4).dropping = none ∧ ringUsed (ring (m 4) 0 (ring (m 4) 0 4).pair) = 0 ∧
      mayStage (m 4) 0 (recSize ⟨0x30, 0, 0, 0, 0xFFFFFFFF, rawRecord (m 4) f false⟩) = true ∧ 9 ≤ r.bkd.tick ∧
      tfind (m 4).cmp.leases 8 = some ⟨66, 144, 0, 2, 9⟩ := by decide +kernel

/-- The hub with channel 0 enabled and as given, clips 5 and 6 with data, and a due ANN_START cue of clip 5. -/
def ann0 (x : AnnChan) : State := { live0 with
  clk := { live0.clk with cycle := some 10, cues := [(7, ⟨mkStamp 10 0, cueAnn, 0, .pending, 5⟩)] }
  bkd := { live0.bkd with tick := 40000000 }
  slu := { live0.slu with clipLen := 2048, force := [(cfgAddr (objCode objAnn 0) 0, 1), (cfgAddr (objCode objAnn 0) 8, 6),
    (cfgAddr (objCode objClip 0) 44, 100), (cfgAddr (objCode objClip 0) 52, 100)] }
  ann := { ch0 := x }
  rng := { rings := live0.rng.rings ++ [(6, { typ := .aud, state := .active, tail := 1, base := 0x500000, posts := [⟨0x600000, 4096, 0⟩] })] } }

/-- A channel that runs a clip with a looping and a plain owner, and tone 1. -/
def sound0 : AnnChan := {
  state := .run, stack := [⟨6, false, 100, [⟨0, 1, true⟩, ⟨0, 2, false⟩], 5, none, true⟩], tones := [(1, ⟨400, 20, some 9⟩)] }

theorem test_w_PlaysTonesAndAudio :
    let w : State := { ann0 sound0 with crd := { live0.crd with relays := [(4, { seq := some ⟨false, true, .cued, 1, 2, 7, 8, false, 0⟩ })] } }
    let p : State := { ann0 sound0 with ann := { ch0 := sound0, pcm := true } }
    canTake (ann0 sound0) dSub 0x0C01 false = true ∧ playRefusal (ann0 sound0) 0 5 = none ∧ (annChan (ann0 sound0) 0).stack.length < 4 ∧
      cueDue (ann0 sound0) 7 cueAnn = true ∧ warnOfCue (ann0 sound0) 7 = none ∧ calm w = true ∧ cueDue w 7 cueAnn = true ∧
      warnOfCue w 7 = some 4 ∧ (seqOf w 4).isSome = true ∧ playRefusal w 0 5 = none ∧ canTake (ann0 sound0) dSub 0x0C02 false = true ∧
      canTake (ann0 sound0) dSub 0x0C03 false = true ∧ annAvailable (ann0 sound0) 0 = true ∧ 5 + clipTicks 100 ≤ (ann0 sound0).bkd.tick ∧
      clipLen (ann0 sound0) 6 ≠ 0 ∧ tfind (annChan (ann0 sound0) 0).tones 1 = some ⟨400, 20, some 9⟩ ∧ audRing (ann0 sound0) = some 6 ∧
      audEntryOk (ann0 sound0) ⟨0x600000, 4096, 0⟩ = true ∧ calm p = true ∧ p.ann.underrun = false ∧ (dom p 11).state = .idle ∧
      p.ann.pcmAt + secs (annField p 2 2) ≤ p.bkd.tick := by decide +kernel

theorem test_w_ChannelsStartStopAndShut :
    calm (ann0 {}) = true ∧ (annChan (ann0 { state := .starting }) 0).since + msTicks 23 ≤ (ann0 {}).bkd.tick ∧
      annSource (ann0 { state := .run }) 0 = false ∧ 0 + secs (annField (ann0 { state := .run }) 2 2) ≤ (ann0 {}).bkd.tick ∧
      (annChan (ann0 sound0) 0).state = .run ∧ (annChan (ann0 sound0) 0).clean + secs 60 ≤ (ann0 sound0).bkd.tick ∧
      canTake (ann0 { state := .latched }) dSub 0x0C04 false = true := by decide +kernel

theorem test_w_SupplyLinkAndMute :
    let m : State := { ann0 { state := .muted } with ann := { ch0 := { state := .muted }, mute := true, linkGood := false } }
    calm (ann0 sound0) = true ∧ (ann0 sound0).ann.band < 3 ∧ (ann0 sound0).ann.vspkGood = true ∧ (ann0 sound0).ann.linkGood = true ∧
      calm m = true ∧ m.ann.mute = true ∧ m.ann.linkGood = false ∧ (annChan m 0).state = .muted := by decide

/-- A Rill packet with a tag of zeros: type, source, destination, payload. -/
def pkt0 (typ src dst : Nat) (b : Bytes) : Bytes :=
  let h := le 1 typ ++ le 1 src ++ le 1 dst ++ [0] ++ le 6 9 ++ le 2 b.length ++ zeros 4 ++ b ++ zeros 8
  h ++ le 4 (crc32 h)

/-- A master with hub 2 and hub 3 JOINED, a change that both, or hub 2 alone, must still agree to, an aggregate and a confirmation. -/
def agr0 (l : List Nat) : Agreement := ⟨⟨[], [], 0, mkStamp 40 0, 0xFFFF, true, true⟩, 1, [], l, 10⟩
def master0 (l : List Nat) : State := { live0 with
  clk := { live0.clk with cycle := some 10 }
  key := { live0.key with drbg := true }
  cmd := { live0.cmd with opens := [⟨dSub, 0x0105, 0, false, [], [], 0, []⟩] }
  slu := { live0.slu with agreement := some (agr0 l), confirming := some (mkStamp 40 0, [2, 3]) }
  ril := { cascEn := true, entries := [(2, { state := 2 }), (3, { state := 2 })], aggs := [⟨5, 10, zeros 8, [2, 3], [], 1, 0, 0, 10, 1, 0⟩] } }

theorem test_w_TheMasterHears :
    let s := master0 [2, 3]
    let b := le 7 (mkStamp 40 0) ++ zeros 33
    calm s = true ∧ s.ril.cascId = 0 ∧ (dom s 10).state = .idle ∧ (dom s 12).state = .idle ∧ rilHere s 1 (pkt0 0x10 2 0 (zeros 107)) 0x10 = true ∧
      drbgUp s = true ∧ rilSrc (pkt0 0x13 2 0 (zeros 32)) = 2 ∧ (rilEntry s 2).state = 2 ∧ (rilEntry s 2).rx < rilCtr (pkt0 0x13 2 0 (zeros 32)) ∧
      rilHere s 1 (pkt0 0x13 2 0 (zeros 32)) 0x13 = true ∧ rilHere s 1 (pkt0 4 2 0 b) 4 = true ∧ fld (rilPayload (pkt0 4 2 0 b)) 0 7 = mkStamp 40 0 ∧
      rilHere s 1 (pkt0 5 2 0 b) 5 = true ∧ rilHere s 1 (pkt0 8 2 0 b) 8 = true ∧ fld (rilPayload (pkt0 8 2 0 b)) 0 7 = mkStamp 40 0 ∧
      waitingCmds (master0 [2]) 0x0105 0 ≠ [] ∧ pickCue (master0 [2]) 0 = some 0 ∧
      rilHere s 1 (pkt0 0x0A 2 0 (le 2 5 ++ zeros 22)) 0x0A = true ∧ rilHere (master0 [2]) 1 (pkt0 4 2 0 b) 4 = true := by decide +kernel

/-- Member 3, in a state of membership, with a set of tenant 0 that bears a stamp, and a preparation. -/
def member0 (m : MemState) : State := { live0 with
  clk := { live0.clk with cycle := some 10, state := .slave }
  slu := { live0.slu with stages := [(0, { stamped := some 4, sgen := 4, digest := zeros 32, objs := [objCode objCalendar 0] })], prepared := some (mkStamp 40 0) }
  ril := { cascEn := true, cascId := 3, state := m } }

theorem test_w_AMemberHears :
    let s := member0 .joined
    let b := le 7 (mkStamp 40 0) ++ zeros 33
    calm s = true ∧ s.ril.member = true ∧ s.ril.cascId < 8 ∧ s.pwr.serviceDown = false ∧ (dom s 10).state = .idle ∧ (dom s 12).state = .idle ∧
      rilWhole (pkt0 1 0 0xFF (zeros 30)) = true ∧ rilForm (pkt0 1 0 0xFF (zeros 30)) = true ∧ s.slu.verify = none ∧
      s.ril.rxKg < rilCtr (pkt0 1 0 0xFF (zeros 30)) ∧ rilWhole (pkt0 2 0 0xFF b) = true ∧ rilForm (pkt0 2 0 0xFF b) = true ∧
      cueCheck s cueSync (fld (rilPayload (pkt0 2 0 0xFF b)) 0 7) = none ∧ pickCue s 0 = some 0 ∧ s.ril.rxKs < rilCtr (pkt0 3 0 3 b) ∧
      rilHere s 0 (pkt0 3 0 3 b) 3 = true ∧ (stage s 0).digest = slice (rilPayload (pkt0 3 0 3 b)) 7 32 ∧ thas s.slu.images 0 = false ∧
      nowStamp s + 8 * angleBits ≤ fld (rilPayload (pkt0 3 0 3 b)) 0 7 ∧ rilHere s 0 (pkt0 3 0 3 (zeros 39)) 3 = true ∧ s.slu.held = false ∧
      rilHere s 0 (pkt0 6 0 3 b) 6 = true ∧ fld (rilPayload (pkt0 6 0 3 b)) 0 7 = mkStamp 40 0 ∧ rilHere s 0 (pkt0 7 0 3 b) 7 = true ∧
      rilHere s 0 (pkt0 0x14 0 3 [0]) 0x14 = true ∧ rilHere s 0 (pkt0 9 0 3 (zeros 17)) 9 = true ∧
      rilHere (member0 .joining) 0 (pkt0 0x11 0 3 (zeros 45)) 0x11 = true ∧ rilHere (member0 .joining) 0 (pkt0 0x12 0 3 (zeros 9)) 0x12 = true := by
  decide +kernel

theorem test_w_RillPortsAndStatus :
    let s := member0 .joined
    calm s = true ∧ canTake s dBig 0x0D01 true = true ∧ (cascadeRecord s).length ≤ dBig.dlen ∧ rilWhole (pkt0 0x20 2 0xFE []) = true ∧
      rilForm (pkt0 0x20 2 0xFE []) = true ∧ rilWhole (pkt0 0x21 2 0xFE (zeros 4)) = true ∧ rilForm (pkt0 0x21 2 0xFE (zeros 4)) = true ∧
      rilWhole (pkt0 0x33 2 3 []) = true ∧ rilForm (pkt0 0x33 2 3 []) = false ∧ s.clk.cycle.isSome = true ∧ (dom s 10).state = .idle := by
  decide +kernel

/-- A member and a master past their limits. -/
def lateMember (m : MemState) (k : Nat) : State := { member0 m with
  clk := { live0.clk with cycle := some 200, state := .slave, freq := 50 * 4294967296 }
  key := { live0.key with drbg := true }
  bkd := { live0.bkd with tick := 4000000 }
  slu := { (member0 m).slu with unconfirmed := some (mkStamp 150 0) }
  ril := { (member0 m).ril with lastJoin := some 10, retryAt := some 5, selfPlaced := k } }
def lateMaster : State := { master0 [2] with clk := { live0.clk with cycle := some 200 } }

theorem test_w_TheCascadeTimesOut :
    let j := lateMember .joining 0
    let i := lateMember .isolated 0
    let w := lateMember .joined 1
    calm j = true ∧ calm i = true ∧ calm w = true ∧ calm lateMaster = true ∧ w.pwr.serviceDown = false ∧ (dom w 10).state = .idle ∧ (dom w 12).state = .idle ∧
      j.ril.member = true ∧ j.ril.start = none ∧ 10 + 64 ≤ nowCycle j ∧ lateMaster.ril.master = true ∧
      (rilEntry lateMaster 2).heard + 64 ≤ nowCycle lateMaster ∧ 5 ≤ nowTick i ∧ drbgUp i = true ∧ (agr0 [2]).since + 4 ≤ nowCycle lateMaster ∧
      mkStamp 40 0 ≤ nowStamp w + 8 * angleBits ∧ w.slu.held = false ∧ nowStamp (member0 .joined) + 8 * angleBits < mkStamp 40 0 ∧
      mkStamp 150 0 + 4 * angleBits ≤ nowStamp w ∧ w.slu.confirming = none ∧ lateMaster.slu.unconfirmed = none ∧
      mkStamp 40 0 + 4 * angleBits ≤ nowStamp lateMaster ∧ 10 + 8 ≤ nowCycle lateMaster ∧ waitingCmds lateMaster 0x0401 1 = [] ∧
      w.ril.joined = true ∧ w.ril.next = none ∧ w.ril.placeOwn = false ∧
      (65536 + 8192) * 32768 * 65536 ≤ ((nowTick w - w.clk.tick) * 65536 - w.clk.tickFrac) * w.clk.freq := by decide +kernel

theorem test_w_ResetsBringTheHubDown :
    calm live0 = true ∧ live0.cis.incs = [] ∧ live0.pwr.committing = false ∧ State.reset.pwr.inReset = true := by decide

theorem test_w_ThePowerFailCommit :
    let s : State := { live0 with pwr := { live0.pwr with resumed := true } }
    calm s = true ∧ s.cis.incs = [] ∧ s.cmp.air = none ∧ (∀ c, (annChan s c).stack = []) ∧ s.pwr.committing = false ∧ s.pwr.resumed = true ∧
      journalErased s = true ∧
      calm { s with pwr := { s.pwr with committing := true } } = true := by
  refine ⟨by decide, by decide, by decide, ?_, by decide, by decide, by decide, by decide⟩
  intro c; unfold annChan; split <;> rfl

theorem test_w_ResetCommandsAndFirmware :
    let b : Desc := { dAdm with dptr := 0x1000, dlen := 4 }
    let x : State := { live0 with
      hif := { live0.hif with ctxs := live0.hif.ctxs ++ [(9, { state := .attached })] }
      slu := { live0.slu with force := [(cfgAddr (objCode objTenant 0) (16 + 16 * 9), 1)] } }
    canTake live0 dAdm 0x0006 false = true ∧ tenantDefined x 9 = true ∧ (ctx x 9).state = .attached ∧ canTake x dAdm 0x0006 false = true ∧ canTake live0 b 0x0007 true = true ∧ 1 ≠ live0.cmd.running ∧
      live0.cis.readOnly.contains 2 = false ∧ canTake live0 dAdm 0x0008 false = true ∧ 64 < permFree live0 ∧ noCommitCue live0 = true ∧
      live0.pwr.serviceDown = false ∧ (dom live0 8).state = .idle ∧ (dom live0 0).state = .idle ∧ live0.reg.jtagBurst = none := by decide

/-- A hub in CHIP reset after RESET_N, with a good retention SRAM. -/
def down0 : State := {
  pwr := { inReset := true, last := { cause := 4 } }
  bkd := { osf := true, causes := 1, causesShut := 1, tick := 99, ret := { valid := true, anchorA := { seq := 3, cycle := 77, ticks := 50, good := true } } }
  cis := { ladders := [(ladderKey 0 runLid, { f := 4, parked := false })] } }

theorem test_w_TheHubStartsWhenNothingHoldsIt :
    startsClean down0 { train := ⟨true, 0, 100⟩ } = true ∧ clearVolatile down0 = down0 ∧ live0.pwr.resetNLow = false ∧
      ({ live0 with pwr := { live0.pwr with resetNLow := true } } : State).pwr.resetNLow = true := by decide +kernel

end Sys2Proof.Tests
end

section
/-!
Register accesses (R9, R13, R584, R587, R588, R592, R593, R596): a write that reaches a register changes that register alone, and
a bad access changes the record of bad accesses alone.
-/
namespace Sys2Proof.Proofs

open Sys2Proof.Machine Sys2Proof.Laws

/-! ### Bits -/

theorem bit_eq_testBit (v i : Nat) : bit v i = v.testBit i := by
  rw [Nat.testBit_eq_decide_div_mod_eq]
  rfl

/-- A number with bit `j` set is an odd multiple of `2 ^ j` and a rest below it; clearing the bit makes the multiple even. -/
theorem bit_clearBit (v j i : Nat) : bit (clearBit v j) i = (bit v i && decide (i ≠ j)) := by
  unfold clearBit
  split
  case isTrue hj =>
    have hodd : v / 2 ^ j = 2 * (v / 2 ^ j / 2) + 1 := by
      have : v / 2 ^ j % 2 = 1 := by simpa [bit] using hj
      omega
    have hrest : v % 2 ^ j < 2 ^ j := Nat.mod_lt _ (Nat.two_pow_pos j)
    have hset : v = 2 ^ j * (2 * (v / 2 ^ j / 2) + 1) + v % 2 ^ j := by
      rw [← hodd, Nat.div_add_mod]
    have hcleared : v - 2 ^ j = 2 ^ j * (2 * (v / 2 ^ j / 2)) + v % 2 ^ j := by
      rw [Nat.mul_add] at hset
      omega
    generalize v / 2 ^ j / 2 = m at hset hcleared
    generalize v % 2 ^ j = r at hrest hset hcleared
    rw [hcleared, hset, bit_eq_testBit, bit_eq_testBit, Nat.testBit_two_pow_mul_add _ hrest, Nat.testBit_two_pow_mul_add _ hrest]
    by_cases hlt : i < j
    · simp [hlt, Nat.ne_of_lt hlt]
    · by_cases hij : i = j
      · simp [hij]
      · obtain ⟨n, hn⟩ : ∃ n, i - j = n + 1 := ⟨i - j - 1, by omega⟩
        have hhalf : (2 * m + 1) / 2 = 2 * m / 2 := by omega
        simp [hlt, hij, hn, Nat.testBit_add_one, hhalf]
  case isFalse hj =>
    by_cases hij : i = j
    · simp [hij, hj]
    · simp [hij]

/-- Writing `value` to a register whose bits are cleared by ones: a bit stays that was set and is not written with 1. -/
theorem bit_foldl_clearBit (value k : Nat) (l : List Nat) (o : Nat) :
    bit (l.foldl (fun a i => if bit value i then clearBit a i else a) o) k = (bit o k && !(l.contains k && bit value k)) := by
  induction l generalizing o with
  | nil => simp
  | cons i l ih =>
    rw [List.foldl_cons, ih]
    by_cases hik : k = i
    · subst hik
      by_cases hv : bit value k = true <;> simp [hv, bit_clearBit]
    · by_cases hv : bit value i = true <;> simp [hv, hik, bit_clearBit]

/-! ### Steps that raise nothing -/

/-- A meaning that leaves the reset, the records and the archive alone is the whole step of a calm hub. -/
theorem next_whenRunning_quiet {s : State} (f : State → State) {u : State} (h : calm s = true) (hu : f s = u)
    (hpwr : u.pwr = s.pwr) (hbatch : u.ev.batch = s.ev.batch) (hcis : u.cis = s.cis) :
    (.next (whenRunning s f) : Out) = .next u := by
  subst hu
  rw [whenRunning_quiet f h hpwr hbatch hcis]

theorem exec_gpioWrite_quiet {s : State} (off v : Nat) (h : calm s = true) :
    exec (.gpioWrite off v) s = .next (gpioPut s off v) := by
  refine next_whenRunning_quiet _ h rfl ?_ ?_ ?_ <;> unfold gpioPut <;> split_ifs <;> rfl

/-- MET_SITE_ID before the seal, with the legal partition writable (R593). -/
theorem siteIdPut_open {s : State} {w : Nat} (v : Nat) (hw : w < 4) (hseal : s.lgl.state ≠ .sealed) (hro : legalReadOnly s = false) :
    siteIdPut s w v = { s with met := { s.met with siteId := setNth s.met.siteId w (v % 4294967296) } } := by
  unfold siteIdPut
  rw [if_neg (by omega), if_neg hseal, if_neg (by simp [hro])]

/-- A write to BKD_TIME_CTRL with its field in range waits for the tick (R587, R590). -/
theorem pfWrite_timeCtrl {s : State} {v : Nat} (hv : rwsOk 0x3048 v = true) :
    pfWrite s 0x3048 v = { s with bkd := { s.bkd with rws := s.bkd.rws ++ [(0x3048, v)] } } := by
  have hhas : pfHas 0x3048 = true := by decide
  simp [pfWrite, hhas, rwsWrite, hv, setBkd]

/-- A word of the mailbox definition of VF `f` (R480, Table RNG.3). -/
theorem vfWrite_mailbox {s : State} {f k : Nat} (v : Nat) (hk : k < 10) (hf : (ctx s f).state ≠ .undefined) :
    vfWrite s f (0x100 + 4 * k) v = setCtx s f { ctx s f with mbxDef0 := putWord (ctx s f).mbxDef0 k v } := by
  have hword : (0x100 + 4 * k - 0x100) / 4 = k := by omega
  unfold vfWrite
  rw [if_neg hf, if_pos (by omega), hword]

/-! ### Bad accesses -/

theorem roomy_of_idle {s : State} {k : Nat} (h : (dom s k).state = .idle) : roomy s k = true := by
  unfold roomy
  rw [h]

theorem dom_setDom_ne (s : State) {k j : Nat} (d : Dom) (h : j ≠ k) : dom (setDom s k d) j = dom s j := tget_tput_ne _ _ _ _ _ h

/-- The domain that handles the fault of an event: its tenant's where it names one, else the one of its ID (R385). -/
def faultDomain (e : EvReq) : Nat :=
  match e.dom with
  | some t => 16 + t
  | none => defaultDomain e.id

/-- A fault that does not escalate its domain leaves every other domain as it is. -/
theorem raise_dom_ne {s : State} {e : EvReq} {j : Nat} (hroom : roomy s (faultDomain e) = true) (hj : j ≠ faultDomain e) :
    dom (raise s e) j = dom s j := by
  have hrecord : ∀ e' sev k depth rflags, dom (record s e' sev k depth rflags) j = dom s j := by
    intro e' sev k depth rflags
    unfold dom
    rw [record_doms]
  unfold raise
  extract_lets sev k p e1 s1 s2 v3 s3
  have hcounted : dom s3 j = dom s j := (dom_setDom_ne s1 _ hj).trans (hrecord e1 sev k _ 0)
  have hp : ∀ c, p ≠ .escalate c := fun c => placeFault_roomy s k sev c e.nested hroom
  clear_value s3 p
  split
  · exact hrecord e 0 0xFF 0 0
  · cases p
    case escalate c => exact absurd rfl (hp c)
    all_goals exact (dom_setDom_ne s3 _ hj).trans hcounted

/-- The hub with one more bad access in HIF_BAD_COUNT and HIF_BAD_LAST (R588). -/
def withBadAccess (s : State) (f bar off : Nat) (w : Bool) : State :=
  { s with hif := { s.hif with badCount := satInc 16 s.hif.badCount,
                               badLast := off % 65536 + 65536 * (f % 256) + 16777216 * (bar % 8) + flag w 27 } }

/-- EV_HIF_BAD_ACCESS is a fault of the tenant above the function, or of the host interface where there is none. -/
def badAccessRequest (s : State) (f bar off : Nat) (w : Bool) : EvReq :=
  { id := 0x786, dom := if (ctx s f).state = .undefined then none else some f,
    tenant := if (ctx s f).state = .undefined then 0 else f,
    data := le 2 f ++ le 1 bar ++ le 4 off ++ le 1 (flag w 0) }

theorem badAccessEvent_eq (s : State) (f bar off : Nat) (w : Bool) :
    badAccessEvent s f bar off w = raise (withBadAccess s f bar off w) (badAccessRequest s f bar off w) := rfl

theorem faultDomain_badAccessRequest (s : State) (f bar off : Nat) (w : Bool) :
    faultDomain (badAccessRequest s f bar off w) = if (ctx s f).state = .undefined then 9 else 16 + f := by
  unfold badAccessRequest
  split_ifs <;> simp [faultDomain, defaultDomain]

/-- With both domains that may take it idle, a bad access is recorded and told, and the archive's domain is left alone. -/
theorem badAccessEvent_told {s : State} (f bar off : Nat) (w : Bool) (hhif : (dom s 9).state = .idle)
    (hten : (dom s (16 + f)).state = .idle) :
    Told (withBadAccess s f bar off w) (badAccessEvent s f bar off w) ∧ dom (badAccessEvent s f bar off w) 6 = dom s 6 := by
  have hroom : roomy (withBadAccess s f bar off w) (faultDomain (badAccessRequest s f bar off w)) = true := by
    rw [faultDomain_badAccessRequest]
    split_ifs
    · exact roomy_of_idle hhif
    · exact roomy_of_idle hten
  have harchive : 6 ≠ faultDomain (badAccessRequest s f bar off w) := by
    rw [faultDomain_badAccessRequest]
    split_ifs <;> omega
  rw [badAccessEvent_eq]
  exact ⟨raise_told _ _ hroom, raise_dom_ne hroom harchive⟩

/-- Answering a read sends one completion and changes nothing else. -/
theorem answer_told (s : State) (f v : Nat) : Told s (answer s f v) :=
  ⟨by constructor <;> rfl, rfl, fun _ => rfl, fun _ _ => rfl, rfl, ⟨_, rfl⟩⟩

theorem mem_answer_out (s : State) (f v : Nat) : .read f v ∈ (answer s f v).hif.out := by
  simp [answer]

/-- The step after the meaning of a bad access keeps what the meaning has told (R13). -/
theorem whenRunning_badAccess_told {s u : State} {f bar off : Nat} {w : Bool} (h : calm s = true)
    (hhif : (dom s 9).state = .idle) (hten : (dom s (16 + f)).state = .idle) (hu : Told s u) (hev : u.ev = s.ev) :
    Told (withBadAccess u f bar off w) (whenRunning s fun _ => badAccessEvent u f bar off w) := by
  obtain ⟨hrun, hreset, -, -, harchive⟩ := calm_parts h
  have hdom : ∀ k, dom u k = dom s k := by
    intro k
    unfold dom
    rw [hev]
  obtain ⟨htold, hdom6⟩ := badAccessEvent_told f bar off w ((hdom 9).symm ▸ hhif) ((hdom (16 + f)).symm ▸ hten)
  have hpwr : (badAccessEvent u f bar off w).pwr = s.pwr := htold.kept.pwr.trans hu.kept.pwr
  refine htold.trans (whenRunning_told s (fun _ => badAccessEvent u f bar off w) hrun (hpwr ▸ hreset) ?_)
  unfold roomy at harchive ⊢
  rw [hdom6, hdom]
  exact harchive

theorem exec_badAccess {s : State} (f bar off : Nat) (w : Bool) (h : calm s = true) (hhif : (dom s 9).state = .idle)
    (hten : (dom s (16 + f)).state = .idle) :
    ∃ t, exec (.badAccess f bar off w) s = .next t ∧ Told (withBadAccess s f bar off w) t ∧
      (w = false → .read f 0xFFFFFFFF ∈ t.hif.out) := by
  cases w with
  | true => exact ⟨_, rfl, whenRunning_badAccess_told h hhif hten (Told.refl s) rfl, by simp⟩
  | false =>
    have hstep := whenRunning_badAccess_told (bar := bar) (off := off) (w := false) h hhif hten (answer_told s f 0xFFFFFFFF) rfl
    -- The answer and the record of the access are of different fields: their order does not matter.
    have hall : Told (answer (withBadAccess s f bar off false) f 0xFFFFFFFF) _ := hstep
    obtain ⟨more, hmore⟩ := hall.out.out
    refine ⟨_, rfl, (answer_told _ _ _).trans hall, fun _ => ?_⟩
    have hread := mem_answer_out (withBadAccess s f bar off false) f 0xFFFFFFFF
    exact hmore ▸ List.mem_append_left more hread

/-! ### The obligation -/

/-- Settles O14: the writes raise nothing, so each step is the register's own update; a bad access raises one fault, which an idle
domain takes without escalating. -/
theorem registerAccesses : Obligations.RegisterAccesses := by
  intro s v h
  refine ⟨exec_gpioWrite_quiet _ v h, exec_gpioWrite_quiet _ v h, exec_gpioWrite_quiet _ v h, ?siteId, ?overrun, ?timeCtrl, ?mailbox,
    ?bad⟩
  case siteId =>
    intro w hw hseal hro
    exact next_whenRunning_quiet _ h (siteIdPut_open v hw hseal hro) rfl rfl rfl
  case overrun =>
    refine ⟨_, next_whenRunning_quiet _ h rfl rfl rfl rfl, rfl, fun hv _ => ?_⟩
    have hmem : (span 0 17).contains 3 = true := by decide
    simp only [bit_foldl_clearBit, hmem, hv, Bool.and_self, Bool.not_true, Bool.and_false]
  case timeCtrl =>
    intro hv
    exact ⟨_, next_whenRunning_quiet _ h (pfWrite_timeCtrl hv) rfl rfl rfl, rfl⟩
  case mailbox =>
    intro f k hf hk hctx
    refine next_whenRunning_quiet _ h ?_ rfl rfl rfl
    simp only [if_neg hf]
    exact vfWrite_mailbox v hk hctx
  case bad =>
    intro f bar off w hhif hten
    exact exec_badAccess f bar off w h hhif hten

end Sys2Proof.Proofs
end

section
/-!
Reset inputs (R21, R563–R566, R570, R575, R579, R580): every cause of a CHIP reset goes through `enterChipReset`, so what such a
reset leaves is said once of it; a meaning adds its cause and the levels of its input.
-/
namespace Sys2Proof.Proofs

open Sys2Proof.Machine Sys2Proof.Laws

/-! ### What a CHIP reset clears -/

/-- Clearing twice is clearing once: every block is set to its reset value or copied, and the key writes are filtered. -/
theorem clearVolatile_clearVolatile (s : State) : clearVolatile (clearVolatile s) = clearVolatile s := by
  simp [clearVolatile, keepSeal]

/-- The reset controller and the tick source stand through a CHIP reset: changing them commutes with clearing. -/
theorem clearVolatile_withLevels (s : State) (p : Pwr) (fromRef : Bool) :
    clearVolatile { s with pwr := p, bkd := { s.bkd with fromRef := fromRef } } =
      { clearVolatile s with pwr := p, bkd := { (clearVolatile s).bkd with fromRef := fromRef } } := rfl

/-! ### What is finished before a CHIP reset -/

theorem issueBatch_of_empty {s : State} (h : s.ev.batch = []) : issueBatch s = s := by
  have hsame : { s with ev := { s.ev with batch := [] } } = s := by rw [← h]
  unfold issueBatch
  rw [h, List.foldl_nil, List.foldl_nil, hsame]

/-- Completing the page program under way concerns the archive alone, and no ladder of it (R383). -/
theorem finishUnit_archive (s : State) : ∃ c, finishUnit s = { s with cis := c } ∧ c.ladders = s.cis.ladders := by
  unfold finishUnit
  split
  · split_ifs
    · exact ⟨_, rfl, rfl⟩
    · exact ⟨s.cis, rfl, rfl⟩
  · exact ⟨s.cis, rfl, rfl⟩

theorem finishPair_of_none {s : State} (h : s.cis.incs = []) : finishPair s = s := by
  unfold finishPair
  rw [h]

/-! ### The CHIP reset -/

/-- The reset controller once a CHIP reset is asserted (R564, R567, R570). -/
def resetPwr (s : State) (scope cause domain : Nat) : Pwr :=
  { (noteReset s scope cause domain).pwr with
    inReset := true, started := false, serviceDown := false, resumed := false, committing := false }

/-- A CHIP reset of a running hub with no record waiting: the archive may have finished a page, all that a reset clears is clear,
and the reset controller has noted the cause. -/
theorem enterChipReset_running {s : State} (scope cause domain : Nat) (hrun : running s = true) (hbatch : s.ev.batch = []) :
    ∃ c : Cis, c.ladders = s.cis.ladders ∧
      enterChipReset s scope cause domain = { clearVolatile { s with cis := c } with pwr := resetPwr s scope cause domain } := by
  have hfree : ¬ s.pwr.inReset = true := by simpa [running] using hrun
  unfold enterChipReset
  rw [if_neg hfree, issueBatch_of_empty hbatch]
  split_ifs with hbor
  · exact ⟨s.cis, rfl, rfl⟩
  · obtain ⟨c, hc, hladders⟩ := finishUnit_archive s
    rw [hc]
    exact ⟨c, hladders, rfl⟩

theorem enterChipReset_cameDown {s : State} (cause domain : Nat) (hrun : running s = true) (hbatch : s.ev.batch = []) :
    CameDown s (enterChipReset s 1 cause domain) cause := by
  obtain ⟨c, hladders, hreset⟩ := enterChipReset_running 1 cause domain hrun hbatch
  rw [hreset]
  have hclear := clearVolatile_clearVolatile { s with cis := c, pwr := resetPwr s 1 cause domain }
  exact ⟨⟨rfl, rfl, rfl, rfl⟩, hclear, ⟨rfl, rfl, rfl⟩, tget_tput_self _ _ _ _, ⟨rfl, rfl, hladders, rfl, rfl, rfl, rfl, rfl⟩⟩

/-- A CHIP reset leaves the levels of its inputs as they are. -/
theorem enterChipReset_inputs {s : State} (scope cause domain : Nat) (hrun : running s = true) (hbatch : s.ev.batch = []) :
    (enterChipReset s scope cause domain).pwr.railBad = s.pwr.railBad ∧
      (enterChipReset s scope cause domain).pwr.resetNLow = s.pwr.resetNLow := by
  obtain ⟨c, -, hreset⟩ := enterChipReset_running scope cause domain hrun hbatch
  rw [hreset]
  exact ⟨rfl, rfl⟩

/-- With no ladder increment under way there is nothing to defer a reset for (R192). -/
theorem deferredReset_of_none {s : State} (cause : Nat) (h : s.cis.incs = []) :
    deferredReset s cause = enterChipReset s 1 cause 0xFF := by
  unfold deferredReset
  rw [finishPair_of_none h]

theorem deferredReset_cameDown {s : State} (cause : Nat) (hrun : running s = true) (hbatch : s.ev.batch = [])
    (hincs : s.cis.incs = []) : CameDown s (deferredReset s cause) cause := by
  rw [deferredReset_of_none cause hincs]
  exact enterChipReset_cameDown cause 0xFF hrun hbatch

/-! ### The reset inputs and their levels -/

/-- The hub as a main rail has risen: ticks move to the reference crystal if the 32 kHz crystal is stopped (R65). -/
def withRailUp (s : State) : State :=
  { s with pwr := { s.pwr with railBad := false }, bkd := { s.bkd with fromRef := s.bkd.fromRef || s.bkd.crystalStopped } }

theorem exec_por_eq (s : State) :
    exec .por s = .next (if running s then enterChipReset (withRailUp s) 1 1 0xFF else withRailUp s) := rfl

/-- The hub with RESET_N at a level. -/
def withResetN (s : State) (low : Bool) : State := { s with pwr := { s.pwr with resetNLow := low } }

theorem exec_resetN_eq (s : State) (low : Bool) : exec (.resetN low) s =
    .next (if low ∧ running s ∧ !s.pwr.committing then deferredReset (withResetN s low) 4 else withResetN s low) := rfl

theorem exec_refclkLoss_eq (us : Nat) (s : State) : exec (.refclkLoss us) s =
    .next (if !running s || s.pwr.committing then s
      else
        let t := deferredReset s 0x0A
        { t with pwr := { t.pwr with refStopped := true, last := { t.pwr.last with refUs := us } }
                 bkd := { t.bkd with fromRef := t.bkd.fromRef && !t.bkd.crystalStopped } }) := rfl

theorem exec_legalEngineFault_eq (s : State) : exec .legalEngineFault s =
    .next (if !running s then s else if s.pwr.committing then enterChipReset s 1 7 0xFF else deferredReset s 7) := rfl

theorem exec_wdtLegal_eq (s : State) : exec .wdtLegal s =
    .next (if !running s || s.pwr.committing then s else deferredReset s 8) := rfl

theorem exec_wdtSystem_eq (s : State) : exec .wdtSystem s =
    .next (if !running s || s.pwr.committing then s else deferredReset s 9) := rfl

/-- An input that changes its level as it starts the reset: the reset is one of the hub before the change. -/
theorem cameDown_of_levels {s t : State} {cause : Nat} {railBad resetNLow fromRef : Bool}
    (h : CameDown { s with pwr := { s.pwr with railBad := railBad, resetNLow := resetNLow }, bkd := { s.bkd with fromRef := fromRef } }
      t cause) : CameDown s t cause :=
  ⟨h.held, h.clear, h.why, h.count, h.kept⟩

/-- The levels of the rails and of the clocks may change in a reset that stands. -/
theorem cameDown_withLevels {s t : State} {cause : Nat} (h : CameDown s t cause) (railBad refStopped fromRef : Bool) (us : Nat) :
    CameDown s { t with
      pwr := { t.pwr with railBad := railBad, refStopped := refStopped, last := { t.pwr.last with refUs := us } }
      bkd := { t.bkd with fromRef := fromRef } } cause := by
  refine ⟨h.held, ?_, h.why, h.count, h.kept⟩
  rw [clearVolatile_withLevels, h.clear]

/-! ### The inputs of a hub that runs -/

section
variable {s : State} (hrun : running s = true) (hbatch : s.ev.batch = [])

include hrun hbatch in
theorem exec_por_running : ∃ t, exec .por s = .next t ∧ CameDown s t 1 ∧ t.pwr.railBad = false := by
  have hrun' : running (withRailUp s) = true := hrun
  rw [exec_por_eq, if_pos hrun]
  obtain ⟨hrail, -⟩ := enterChipReset_inputs 1 1 0xFF hrun' hbatch
  exact ⟨_, rfl, cameDown_of_levels (enterChipReset_cameDown 1 0xFF hrun' hbatch), hrail⟩

include hrun hbatch in
theorem exec_bor_running : ∃ t, exec .bor s = .next t ∧ CameDown s t 3 ∧ t.pwr.railBad = true :=
  ⟨_, rfl, cameDown_withLevels (enterChipReset_cameDown 3 0xFF hrun hbatch) true _ _ _, rfl⟩

variable (hincs : s.cis.incs = []) (hidle : s.pwr.committing = false)

include hrun hbatch hincs hidle in
theorem exec_resetN_low_running : ∃ t, exec (.resetN true) s = .next t ∧ CameDown s t 4 ∧ t.pwr.resetNLow = true := by
  have hlow : running (withResetN s true) = true := hrun
  have hnone : (withResetN s true).cis.incs = [] := hincs
  obtain ⟨-, hpin⟩ := enterChipReset_inputs 1 4 0xFF hlow hbatch
  rw [exec_resetN_eq, if_pos ⟨rfl, hrun, by simp [hidle]⟩, deferredReset_of_none 4 hnone]
  exact ⟨_, rfl, cameDown_of_levels (enterChipReset_cameDown 4 0xFF hlow hbatch), hpin⟩

include hrun hbatch hincs hidle in
theorem exec_refclkLoss_running (us : Nat) :
    ∃ t, exec (.refclkLoss us) s = .next t ∧ CameDown s t 0x0A ∧ t.pwr.refStopped = true ∧ t.pwr.last.refUs = us := by
  rw [exec_refclkLoss_eq, if_neg (by simp [hrun, hidle])]
  exact ⟨_, rfl, cameDown_withLevels (deferredReset_cameDown 0x0A hrun hbatch hincs) _ true _ us, rfl, rfl⟩

include hrun hidle in
theorem exec_legalEngineFault_running : exec .legalEngineFault s = .next (deferredReset s 7) := by
  rw [exec_legalEngineFault_eq, if_neg (by simp [hrun]), if_neg (by simp [hidle])]

include hrun hidle in
theorem exec_wdtLegal_running : exec .wdtLegal s = .next (deferredReset s 8) := by
  rw [exec_wdtLegal_eq, if_neg (by simp [hrun, hidle])]

include hrun hidle in
theorem exec_wdtSystem_running : exec .wdtSystem s = .next (deferredReset s 9) := by
  rw [exec_wdtSystem_eq, if_neg (by simp [hrun, hidle])]

end

/-! ### The inputs of a hub that a reset holds -/

/-- In CHIP reset the first cause stands: the other sources do nothing, and RESET_N and a rail change their own level (R565). -/
theorem exec_resetSources_held {s : State} (hheld : running s = false) :
    exec .legalEngineFault s = .next s ∧ exec .wdtLegal s = .next s ∧ exec .wdtSystem s = .next s ∧
      (∀ us, exec (.refclkLoss us) s = .next s) ∧
      exec (.resetN true) s = .next (withResetN s true) ∧ exec .por s = .next (withRailUp s) := by
  refine ⟨?_, ?_, ?_, fun us => ?_, ?_, ?_⟩
  · simp [exec_legalEngineFault_eq, hheld]
  · simp [exec_wdtLegal_eq, hheld]
  · simp [exec_wdtSystem_eq, hheld]
  · simp [exec_refclkLoss_eq, hheld]
  · simp [exec_resetN_eq, hheld]
  · simp [exec_por_eq, hheld]

/-! ### The obligation -/

/-- Settles O57: a calm hub with no increment under way defers nothing, so each source asserts its CHIP reset at once; in a reset
that stands the guards of the meanings fail. -/
theorem resetsBringTheHubDown : Obligations.ResetsBringTheHubDown := by
  intro s
  refine ⟨fun hcalm hincs hidle => ?runs, rfl, rfl, fun hheld => ?held⟩
  case runs =>
    obtain ⟨hrun, -, hbatch, -, -⟩ := calm_parts hcalm
    have hdown : ∀ cause, CameDown s (deferredReset s cause) cause := fun cause => deferredReset_cameDown cause hrun hbatch hincs
    exact ⟨exec_por_running hrun hbatch, exec_bor_running hrun hbatch, exec_resetN_low_running hrun hbatch hincs hidle,
      exec_refclkLoss_running hrun hbatch hincs hidle, ⟨_, exec_legalEngineFault_running hrun hidle, hdown 7⟩,
      ⟨_, exec_wdtLegal_running hrun hidle, hdown 8⟩, ⟨_, exec_wdtSystem_running hrun hidle, hdown 9⟩⟩
  case held =>
    have hnot : running s = false := by simp [running, hheld]
    exact exec_resetSources_held hnot

end Sys2Proof.Proofs
end

section
/-!
What a report leaves alone: records, streams, teardowns and the restart of the service cores do not reach the clock, the backup
domain, the ring, the meter, the legal partition or the relays (R385, R398, R400).
-/
namespace Sys2Proof.Proofs

open Sys2Proof.Machine Sys2Proof.Laws

/-! ### The blocks beside which a report works -/

/-- `t` differs from `s` only where records, streams, host contexts and sounds work; no CHIP reset has begun, service cores that
were down are down, and the archive's fault domain is as it was. -/
structure Beside (s t : State) : Prop where
  clk : t.clk = s.clk
  bkd : t.bkd = s.bkd
  ply : t.ply = s.ply
  met : t.met = s.met
  pqe : t.pqe = s.pqe
  lgl : t.lgl = s.lgl
  crd : t.crd = s.crd
  slu : t.slu = s.slu
  ril : t.ril = s.ril
  cis : t.cis = s.cis
  inReset : t.pwr.inReset = s.pwr.inReset
  down : s.pwr.serviceDown = true → t.pwr.serviceDown = true
  archiveDom : dom t 6 = dom s 6

theorem Beside.refl (s : State) : Beside s s := ⟨rfl, rfl, rfl, rfl, rfl, rfl, rfl, rfl, rfl, rfl, rfl, id, rfl⟩

theorem Beside.trans {s t u : State} (h : Beside s t) (g : Beside t u) : Beside s u :=
  ⟨g.clk.trans h.clk, g.bkd.trans h.bkd, g.ply.trans h.ply, g.met.trans h.met, g.pqe.trans h.pqe, g.lgl.trans h.lgl,
    g.crd.trans h.crd, g.slu.trans h.slu, g.ril.trans h.ril, g.cis.trans h.cis, g.inReset.trans h.inReset, g.down ∘ h.down,
    g.archiveDom.trans h.archiveDom⟩

theorem Beside.ite {s t u : State} {c : Prop} [Decidable c] (ht : Beside s t) (hu : Beside s u) :
    Beside s (if c then t else u) := by
  split
  · exact ht
  · exact hu

theorem Beside.foldl {α : Type} (f : State → α → State) (hf : ∀ s a, Beside s (f s a)) (l : List α) (s : State) :
    Beside s (l.foldl f s) := by
  induction l generalizing s with
  | nil => exact Beside.refl s
  | cons a l ih => exact (hf s a).trans (ih (f s a))

theorem dom_congr {s t : State} (h : t.ev.doms = s.ev.doms) (k : Nat) : dom t k = dom s k := by
  unfold dom
  rw [h]

theorem Beside.of_kept {s t : State} (h : Kept s t) (hdoms : t.ev.doms = s.ev.doms) (hcis : t.cis = s.cis) : Beside s t :=
  ⟨h.clk, h.bkd, h.ply, h.met, h.pqe, h.lgl, h.crd, h.slu, h.ril, hcis, by rw [h.pwr], by rw [h.pwr]; exact id, dom_congr hdoms 6⟩

theorem Beside.of_sent {s t : State} (h : Sent s t) : Beside s t := .of_kept h.kept (by rw [h.ev]) h.cis

theorem setDom_beside (s : State) {k : Nat} (d : Dom) (hk : k ≠ 6) : Beside s (setDom s k d) :=
  ⟨rfl, rfl, rfl, rfl, rfl, rfl, rfl, rfl, rfl, rfl, rfl, id, dom_setDom_ne s d (Ne.symm hk)⟩

/-! ### Records -/

theorem record_beside (s : State) (e : EvReq) (sev k depth rflags : Nat) : Beside s (record s e sev k depth rflags) :=
  .of_kept (record_kept s e sev k depth rflags) (record_doms s e sev k depth rflags) (record_io s e sev k depth rflags).cis

theorem inform_beside (s : State) (e : EvReq) : Beside s (inform s e) := record_beside _ _ _ _ _ _

/-- An INFO event is recorded and handled by no domain (R385). -/
theorem raise_of_info {s : State} {e : EvReq} (h : severity e.id e.star = 0) : raise s e = inform s e := by
  unfold raise
  rw [if_pos h]

theorem raise_info_told {s : State} {e : EvReq} (h : severity e.id e.star = 0) : Told s (raise s e) :=
  raise_of_info h ▸ inform_told s e

theorem raise_info_doms {s : State} {e : EvReq} (h : severity e.id e.star = 0) : (raise s e).ev.doms = s.ev.doms :=
  raise_of_info h ▸ record_doms s e 0 0xFF 0 0

/-! ### Escalations that stop short of a CHIP reset -/

/-- The escalation of a domain asserts a CHIP reset (Table EVT.3). -/
def resetsChip (k : Nat) : Bool := [0, 1, 3, 4, 5, 6, 15].contains k

theorem setCtxState_beside (s : State) (t : Nat) (c : CtxState) : Beside s (setCtxState s t c) := by
  unfold setCtxState
  extract_lets old ctx1 s1 s2
  refine Beside.ite (Beside.refl s) ?_
  have hset : Beside s s1 := .of_kept (setCtx_kept _ _ _) rfl rfl
  exact hset.trans ((inform_beside s1 _).trans (.of_sent (sendMsi_sent s2 t 0)))

theorem beginTeardown_beside (s : State) (t kind cause : Nat) (undefine : Bool) :
    Beside s (beginTeardown s t kind cause undefine) := by
  unfold beginTeardown
  extract_lets c mine td cmd1 s1 ctx1 s2
  have hdrop : Beside s s2 := ⟨rfl, rfl, rfl, rfl, rfl, rfl, rfl, rfl, rfl, rfl, rfl, id, rfl⟩
  exact Beside.ite (hdrop.trans (setCtxState_beside _ _ _))
    (Beside.ite (.of_kept (setCtx_kept _ _ _) rfl rfl) (Beside.refl s))

theorem withHost_beside (s : State) (h : Hif) (r : Regs) : Beside s { s with hif := h, reg := r } :=
  ⟨rfl, rfl, rfl, rfl, rfl, rfl, rfl, rfl, rfl, rfl, rfl, id, rfl⟩

theorem hifReset_beside (s : State) : Beside s (hifReset s) := by
  unfold hifReset beginTeardownAll
  extract_lets s1 hif1 reg1 s2
  have hnote : Beside s (noteChains s 2) := ⟨rfl, rfl, rfl, rfl, rfl, rfl, rfl, rfl, rfl, rfl, rfl, id, rfl⟩
  have hdown : Beside s s1 := hnote.trans (.foldl _ (fun a t => beginTeardown_beside a t 2 7 false) _ _)
  have hclear : Beside s1 s2 := withHost_beside s1 _ _
  exact Beside.ite ((hdown.trans hclear).trans (inform_beside _ _)) (hdown.trans hclear)

theorem beginServiceReset_beside (s : State) (cause domain : Nat) : Beside s (beginServiceReset s cause domain) := by
  unfold beginServiceReset
  split
  · exact Beside.refl s
  · exact ⟨rfl, rfl, rfl, rfl, rfl, rfl, rfl, rfl, rfl, rfl, rfl, fun _ => rfl, rfl⟩

theorem beginEscalation_beside (s : State) {k : Nat} (hk : resetsChip k = false) : Beside s (beginEscalation s k) := by
  unfold beginEscalation
  have hchip : ¬ [0, 1, 3, 4, 5, 6, 15].contains k = true := by simpa [resetsChip] using hk
  rw [if_neg hchip]
  exact Beside.ite (beginTeardown_beside _ _ _ _ _)
    (Beside.ite (beginServiceReset_beside _ _ _) (Beside.ite (hifReset_beside s) (Beside.refl s)))

theorem ne_archive_of_resetsChip {k : Nat} (hk : resetsChip k = false) : k ≠ 6 := by
  rintro rfl
  exact absurd hk (by decide)

theorem escalate_beside (s : State) {k : Nat} (cause id : Nat) (hk : resetsChip k = false) : Beside s (escalate s k cause id) := by
  unfold escalate
  extract_lets d s0 reg1 s1 s2
  have hdom : Beside s s0 := setDom_beside s _ (ne_archive_of_resetsChip hk)
  have hreg : Beside s0 s1 := ⟨rfl, rfl, rfl, rfl, rfl, rfl, rfl, rfl, rfl, rfl, rfl, fun h => h, rfl⟩
  exact ((hdom.trans hreg).trans (record_beside s1 _ _ _ _ _)).trans (beginEscalation_beside s2 hk)

/-- An event works beside the blocks when it is no fault, or its domain's escalation is no CHIP reset. -/
theorem raise_beside (s : State) (e : EvReq) (h : severity e.id e.star = 0 ∨ resetsChip (faultDomain e) = false) :
    Beside s (raise s e) := by
  rcases h with hinfo | hk
  · rw [raise_of_info hinfo]
    exact inform_beside s e
  · have hne := ne_archive_of_resetsChip hk
    unfold raise
    extract_lets sev k p e1 s1 s2 v3 s3
    have hcounted : Beside s s3 :=
      ((record_beside s e1 sev k _ 0).trans (setDom_beside s1 _ hne)).trans
        ⟨rfl, rfl, rfl, rfl, rfl, rfl, rfl, rfl, rfl, rfl, rfl, id, rfl⟩
    refine Beside.ite (inform_beside _ _) ?_
    clear_value s3 p
    cases p
    case escalate c => exact hcounted.trans (escalate_beside s3 c _ hk)
    all_goals exact hcounted.trans (setDom_beside s3 _ hne)

theorem raise_info_beside {s : State} {e : EvReq} (h : severity e.id e.star = 0) : Beside s (raise s e) := raise_beside s e (.inl h)

/-- The end of a calm hub's step whose work began no CHIP reset and raised no fault of the archive. -/
theorem whenRunning_told_of_calm {s : State} (f : State → State) (hcalm : calm s = true)
    (hreset : (f s).pwr.inReset = s.pwr.inReset) (hdom : dom (f s) 6 = dom s 6) : Told (f s) (whenRunning s f) := by
  obtain ⟨hrun, hfree, -, -, harchive⟩ := calm_parts hcalm
  refine whenRunning_told s f hrun (hreset.trans hfree) ?_
  unfold roomy at harchive ⊢
  rw [hdom]
  exact harchive

end Sys2Proof.Proofs
end

section
/-!
The warning of an outlet ends (R445, R448): a channel's plays keep their owners but for those whose plays end.
-/
namespace Sys2Proof.Proofs

open Sys2Proof.Machine Sys2Proof.Laws

/-! ### Channels -/

theorem annChan_setAnnChan (s : State) (c j : Nat) (x : AnnChan) :
    annChan (setAnnChan s c x) j = if (j = 0 ↔ c = 0) then x else annChan s j := by
  unfold annChan setAnnChan
  by_cases hc : c = 0 <;> by_cases hj : j = 0 <;> simp [hc, hj]

theorem setAnnChan_beside (s : State) (c : Nat) (x : AnnChan) : Beside s (setAnnChan s c x) := by
  unfold setAnnChan
  exact Beside.ite ⟨rfl, rfl, rfl, rfl, rfl, rfl, rfl, rfl, rfl, rfl, rfl, id, rfl⟩
    ⟨rfl, rfl, rfl, rfl, rfl, rfl, rfl, rfl, rfl, rfl, rfl, id, rfl⟩

theorem playEvent_kept (s : State) (c clip what : Nat) (o : PlayOwner) : Kept s (playEvent s c clip what o) := inform_kept _ _

theorem playEvent_beside (s : State) (c clip what : Nat) (o : PlayOwner) : Beside s (playEvent s c clip what o) := inform_beside _ _

theorem playEvents_kept (s : State) (c what : Nat) (y : Sounding) : Kept s (playEvents s c what y) :=
  Kept.foldl _ (fun a o => playEvent_kept a c y.clip what o) _ _

theorem playEvents_beside (s : State) (c what : Nat) (y : Sounding) : Beside s (playEvents s c what y) :=
  Beside.foldl _ (fun a o => playEvent_beside a c y.clip what o) _ _

/-! ### Who is warned -/

/-- The MPs whose warnings a stack of plays carries. -/
def stackWarned (l : List Sounding) : List Nat :=
  l.flatMap fun y => (y.owners.filter fun o => decide (2 ≤ o.src)).map fun o => o.src - 2

theorem warned_eq (s : State) (c : Nat) : warned s c = stackWarned (annChan s c).stack := rfl

theorem mem_stackWarned {m : Nat} {l : List Sounding} : m ∈ stackWarned l ↔ ∃ y ∈ l, ∃ o ∈ y.owners, o.src = 2 + m := by
  simp only [stackWarned, List.mem_flatMap, List.mem_map, List.mem_filter, decide_eq_true_eq]
  constructor
  · rintro ⟨y, hy, o, ⟨ho, hsrc⟩, hm⟩
    exact ⟨y, hy, o, ho, by omega⟩
  · rintro ⟨y, hy, o, ho, hsrc⟩
    exact ⟨y, hy, o, ⟨ho, by omega⟩, by omega⟩

theorem warned_of_kept {s t : State} (h : Kept s t) (c : Nat) : warned t c = warned s c := by
  unfold warned annChan
  rw [h.ann]

/-- Replacing a channel by one whose plays have the same owners warns the same MPs. -/
theorem warned_setAnnChan {s : State} {c : Nat} {x : AnnChan} (h : stackWarned x.stack = warned s c) (j : Nat) :
    warned (setAnnChan s c x) j = warned s j := by
  rw [warned_eq, annChan_setAnnChan]
  split
  case isTrue hjc =>
    have hsame : annChan s j = annChan s c := by unfold annChan; simp [hjc]
    rw [h, warned_eq, warned_eq, hsame]
  case isFalse => rfl

/-- A clip that starts or resumes keeps its owners. -/
theorem soundTop_warned (s : State) (c j : Nat) : warned (soundTop s c) j = warned s j := by
  unfold soundTop
  split
  case h_1 y rest hstack =>
    have htop : ∀ y' : Sounding, y'.owners = y.owners →
        warned (setAnnChan s c { annChan s c with stack := y' :: rest }) j = warned s j := by
      intro y' howners
      refine warned_setAnnChan ?_ j
      rw [warned_eq, hstack]
      simp only [stackWarned, List.flatMap_cons, howners]
    split
    · exact (warned_of_kept (playEvents_kept _ _ _ _) j).trans (htop _ rfl)
    · exact (warned_of_kept (playEvents_kept _ _ _ _) j).trans (htop _ rfl)
    · rfl
  case h_2 =>
    unfold annIdle
    split
    · rfl
    · exact warned_setAnnChan (x := { annChan s c with idle := nowTick s }) rfl j

theorem soundTop_beside (s : State) (c : Nat) : Beside s (soundTop s c) := by
  unfold soundTop annIdle
  split
  · split
    · exact (setAnnChan_beside _ _ _).trans (playEvents_beside _ _ _ _)
    · exact (setAnnChan_beside _ _ _).trans (playEvents_beside _ _ _ _)
    · exact Beside.refl s
  · exact Beside.ite (Beside.refl s) (setAnnChan_beside _ _ _)

/-! ### Ending plays -/

theorem endPlays_beside (s : State) (c what : Nat) (gone : Nat → PlayOwner → Bool) : Beside s (endPlays s c what gone) := by
  unfold endPlays
  extract_lets x ended st
  refine Beside.ite (Beside.refl s) ?_
  exact ((setAnnChan_beside _ _ _).trans (soundTop_beside _ _)).trans
    (Beside.foldl _ (fun a (p : Nat × PlayOwner) => playEvent_beside a c p.1 what p.2) _ _)

/-- The plays left on a channel are those of the owners that do not go. -/
theorem mem_warned_endPlays {s : State} {c what : Nat} {gone : Nat → PlayOwner → Bool} {m j : Nat}
    (h : m ∈ warned (endPlays s c what gone) j) :
    m ∈ warned s j ∧ ((j = 0 ↔ c = 0) →
      ∃ y ∈ (annChan s c).stack, ∃ o ∈ y.owners, o.src = 2 + m ∧ gone y.clip o = false) := by
  unfold endPlays at h
  extract_lets x ended st at h
  split at h
  case isTrue hnone =>
    refine ⟨h, fun hjc => ?_⟩
    have hsame : annChan s j = x := by simp only [x]; unfold annChan; simp [hjc]
    rw [warned_eq, hsame, mem_stackWarned] at h
    obtain ⟨y, hy, o, ho, hsrc⟩ := h
    refine ⟨y, hy, o, ho, hsrc, ?_⟩
    by_contra hgone
    have hmem : (y.clip, o) ∈ ended :=
      List.mem_flatMap.mpr ⟨y, hy, List.mem_map.mpr ⟨o, List.mem_filter.mpr ⟨ho, by simpa using hgone⟩, rfl⟩⟩
    rw [List.isEmpty_iff.mp hnone] at hmem
    exact absurd hmem List.not_mem_nil
  case isFalse =>
    have hkept := Kept.foldl (fun a (p : Nat × PlayOwner) => playEvent a c p.1 what p.2)
      (fun a p => playEvent_kept a c p.1 what p.2) ended (soundTop (setAnnChan s c { x with stack := st }) c)
    rw [warned_of_kept hkept, soundTop_warned, warned_eq, annChan_setAnnChan] at h
    split at h
    case isFalse hne => exact ⟨h, fun hjc => absurd hjc hne⟩
    case isTrue hjc =>
      have hsame : annChan s j = x := by simp only [x]; unfold annChan; simp [hjc]
      obtain ⟨y', hy', o, ho, hsrc⟩ := mem_stackWarned.mp h
      obtain ⟨hy', -⟩ := List.mem_filter.mp hy'
      obtain ⟨y, hy, rfl⟩ := List.mem_map.mp hy'
      obtain ⟨ho, hstays⟩ := List.mem_filter.mp ho
      refine ⟨?_, fun _ => ⟨y, hy, o, ho, hsrc, by simpa using hstays⟩⟩
      rw [warned_eq, hsame]
      exact mem_stackWarned.mpr ⟨y, hy, o, ho, hsrc⟩

/-- Stopping an outlet's warning works on both channels. -/
theorem stopWarning_eq (s : State) (m what : Nat) :
    stopWarning s m what =
      endPlays (endPlays s 0 what fun _ o => o.src == 2 + m) 1 what fun _ o => o.src == 2 + m := rfl

theorem stopWarning_beside (s : State) (m what : Nat) : Beside s (stopWarning s m what) :=
  stopWarning_eq s m what ▸ (endPlays_beside _ _ _ _).trans (endPlays_beside _ _ _ _)

/-- After the end of its warning an outlet is warned on neither channel (R448). -/
theorem not_mem_warned_stopWarning (s : State) (m what c : Nat) : m ∉ warned (stopWarning s m what) c := by
  rw [stopWarning_eq]
  intro h
  obtain ⟨hfirst, hsecond⟩ := mem_warned_endPlays h
  by_cases hc : c = 0
  · obtain ⟨-, hgone⟩ := mem_warned_endPlays hfirst
    obtain ⟨y, -, o, -, hsrc, hstays⟩ := hgone (by simp [hc])
    simp [hsrc] at hstays
  · obtain ⟨y, -, o, -, hsrc, hstays⟩ := hsecond (by simp [hc])
    simp [hsrc] at hstays

end Sys2Proof.Proofs
end

section
/-!
Outlet switching (R51, R54–R57, R117, R300, R448): a relay's state moves beside the cues and the arms, so what a cue, an arm or a
reply does is read from the few operations that touch them.
-/
namespace Sys2Proof.Proofs

open Sys2Proof.Machine Sys2Proof.Laws

/-! ### Work on one relay -/

/-- `t` has the cues and the ring of `s`; of the relay of MP `m` the sequence and the credit mark are as they were. -/
structure OnRelay (m : Nat) (s t : State) : Prop where
  clk : t.clk = s.clk
  ply : t.ply = s.ply
  inReset : t.pwr.inReset = s.pwr.inReset
  archiveDom : dom t 6 = dom s 6
  seq : (relay t m).seq = (relay s m).seq
  byCredit : (relay t m).byCredit = (relay s m).byCredit

theorem OnRelay.refl (m : Nat) (s : State) : OnRelay m s s := ⟨rfl, rfl, rfl, rfl, rfl, rfl⟩

theorem OnRelay.trans {m : Nat} {s t u : State} (h : OnRelay m s t) (g : OnRelay m t u) : OnRelay m s u :=
  ⟨g.clk.trans h.clk, g.ply.trans h.ply, g.inReset.trans h.inReset, g.archiveDom.trans h.archiveDom, g.seq.trans h.seq,
    g.byCredit.trans h.byCredit⟩

theorem OnRelay.ite {m : Nat} {s t u : State} {c : Prop} [Decidable c] (ht : OnRelay m s t) (hu : OnRelay m s u) :
    OnRelay m s (if c then t else u) := by
  split
  · exact ht
  · exact hu

theorem relay_of_crd {s t : State} (h : t.crd = s.crd) (m : Nat) : relay t m = relay s m := by
  unfold relay
  rw [h]

theorem Beside.onRelay {s t : State} (h : Beside s t) (m : Nat) : OnRelay m s t :=
  ⟨h.clk, h.ply, h.inReset, h.archiveDom, by rw [relay_of_crd h.crd], by rw [relay_of_crd h.crd]⟩

theorem setRelay_onRelay {s : State} {m : Nat} {r : Relay} (hseq : r.seq = (relay s m).seq)
    (hcredit : r.byCredit = (relay s m).byCredit) : OnRelay m s (setRelay s m r) :=
  ⟨rfl, rfl, rfl, rfl, by rw [relay_setRelay]; exact hseq, by rw [relay_setRelay]; exact hcredit⟩

/-! ### Relay states (R300) -/

theorem relayEvent_beside (s : State) (m : Nat) (old new : RelayState) (cause : Nat) (warnFailed : Bool) :
    Beside s (relayEvent s m old new cause warnFailed) := raise_beside s _ (.inr (by simp [faultDomain, defaultDomain, resetsChip]))

theorem mapChain_beside (s : State) (id : Nat) (f : Chain → Chain) : Beside s (mapChain s id f) := by
  unfold mapChain
  split
  · exact ⟨rfl, rfl, rfl, rfl, rfl, rfl, rfl, rfl, rfl, rfl, rfl, fun h => h, rfl⟩
  · exact Beside.refl s

theorem dueRelay_beside (s : State) (m old new cause : Nat) (switch : Stamp) : Beside s (dueRelay s m old new cause switch) := by
  unfold dueRelay dueRecord
  split
  · exact mapChain_beside _ _ _
  · exact Beside.refl s

/-- A relay that moves: its state and the start of its lasting condition change, and nothing else of it. -/
theorem relay_setRelayState (s : State) (m : Nat) (st : RelayState) (cause : Nat) (switch : Stamp) :
    relay (setRelayState s m st cause switch) m =
      if (relay s m).state = st then relay s m else { relay s m with state := st, since := none } := by
  unfold setRelayState
  extract_lets r s1
  split
  · rfl
  · have hafter := (dueRelay_beside s1 m (relayCode r.state) (relayCode st) cause switch).trans
      (relayEvent_beside _ m r.state st cause (r.seq.elim false (·.warnFailed)))
    rw [relay_of_crd hafter.crd]
    exact relay_setRelay _ _ _

theorem setRelayState_state (s : State) (m : Nat) (st : RelayState) (cause : Nat) (switch : Stamp) :
    (relay (setRelayState s m st cause switch) m).state = st := by
  rw [relay_setRelayState]
  split
  · assumption
  · rfl

theorem setRelayState_onRelay (s : State) (m : Nat) (st : RelayState) (cause : Nat) (switch : Stamp) :
    OnRelay m s (setRelayState s m st cause switch) := by
  unfold setRelayState
  extract_lets r s1
  refine OnRelay.ite (OnRelay.refl m s) ?_
  have hmove : OnRelay m s s1 := setRelay_onRelay rfl rfl
  exact hmove.trans (((dueRelay_beside s1 _ _ _ _ _).trans (relayEvent_beside _ _ _ _ _ _)).onRelay m)

/-- A state that feedback alone leaves only after it has lasted (Table CRD.4). -/
def standing (st : RelayState) : Bool := st == .opened || st == .closed || st == .faultWelded || st == .faultNoclose

theorem judgeRelay_standing {s : State} {m : Nat} (h : standing (relay s m).state = true) :
    (relay (judgeRelay s m) m).state = (relay s m).state := by
  unfold judgeRelay
  extract_lets r0 s1 r
  have hstays : s1 = s := by
    simp only [s1]
    split
    case h_1 hstate => rw [hstate] at h; cases h
    case h_2 hstate => rw [hstate] at h; cases h
    case h_3 hstate => rw [hstate] at h; cases h
    case h_4 => rfl
  have hr : r = relay s m := by simp only [r, hstays]
  rw [hstays]
  split
  · split
    · rfl
    · rw [relay_setRelay, hr]
  · rw [relay_setRelay, hr]

theorem judgeRelay_onRelay (s : State) (m : Nat) : OnRelay m s (judgeRelay s m) := by
  unfold judgeRelay
  extract_lets r0 s1 r
  have hmove : OnRelay m s s1 := by
    simp only [s1]
    split
    · exact setRelayState_onRelay _ _ _ _ _
    · exact OnRelay.ite (setRelayState_onRelay _ _ _ _ _) (OnRelay.refl m s)
    · exact OnRelay.ite (setRelayState_onRelay _ _ _ _ _) (OnRelay.refl m s)
    · exact OnRelay.refl m s
  refine hmove.trans ?_
  split
  · exact OnRelay.ite (OnRelay.refl m s1) (setRelay_onRelay rfl rfl)
  · exact setRelay_onRelay rfl rfl

theorem relayFeedback_onRelay (s : State) (m fb : Nat) : OnRelay m s (relayFeedback s m fb) :=
  OnRelay.trans (t := setRelay s m { relay s m with fb := fb }) (setRelay_onRelay rfl rfl) (judgeRelay_onRelay _ m)

theorem replyFeedback_onRelay (s : State) (p m fb : Nat) : OnRelay m s (replyFeedback s p m fb) :=
  OnRelay.ite (relayFeedback_onRelay s m fb) (OnRelay.refl m s)

theorem tamper_beside (s : State) (m typ : Nat) : Beside s (tamper s m typ) := by
  unfold tamper tamperAt
  extract_lets key r f0 f1 f2 f3 f4 r1 fresh ev1 s1
  have hcount : Beside s s1 := Beside.ite ⟨rfl, rfl, rfl, rfl, rfl, rfl, rfl, rfl, rfl, rfl, rfl, id, rfl⟩
    ⟨rfl, rfl, rfl, rfl, rfl, rfl, rfl, rfl, rfl, rfl, rfl, id, rfl⟩
  exact hcount.trans (raise_info_beside rfl)

/-! ### Cues and sequences -/

theorem cue_of_clk {s t : State} (h : t.clk = s.clk) (i : Nat) : cue t i = cue s i := by
  unfold cue
  rw [h]

theorem seqOf_of_crd {s t : State} (h : t.crd = s.crd) (m : Nat) : seqOf t m = seqOf s m := by
  unfold seqOf
  rw [relay_of_crd h]

theorem finishCue_beside (s : State) (i : Nat) (late : Bool) :
    Beside (setCue s i { cue s i with state := if late then .late else .done }) (finishCue s i late) := by
  unfold finishCue
  extract_lets c1 s1
  exact Beside.ite (raise_info_beside rfl) (Beside.refl s1)

theorem cuePending_finishCue (s : State) (i : Nat) (late : Bool) : cuePending (cue (finishCue s i late) i) = false := by
  rw [cue_of_clk (finishCue_beside s i late).clk, cue_setCue]
  cases late <;> rfl

theorem finishSeq_beside (s : State) (m : Nat) : Beside (setSeq s m none) (finishSeq s m) := stopWarning_beside _ _ _

theorem seqOf_finishSeq (s : State) (m : Nat) : seqOf (finishSeq s m) m = none := by
  rw [seqOf_of_crd (finishSeq_beside s m).crd]
  unfold seqOf setSeq
  rw [relay_setRelay]

theorem not_mem_warned_finishSeq (s : State) (m c : Nat) : m ∉ warned (finishSeq s m) c := not_mem_warned_stopWarning _ _ _ _

/-- A pending cue that is cancelled is pending no more. -/
theorem cuePending_cancelCue (s : State) (i : Nat) : cuePending (cue (cancelCue s i) i) = false := by
  unfold cancelCue
  split
  case isTrue => rw [cue_setCue]; rfl
  case isFalse h => simpa using h

/-! ### Relay cues (R51, R54) -/

/-- RELAY_SWITCH of a cue that is due: the cue ends, and with it the sequence that made it. -/
def switchDue (s : State) (i : Nat) : State :=
  let s1 := finishCue s i (decide ((cue s i).state = .pending))
  match seqOf s1 ((cue s i).arg % 65536) with
  | some q => if q.cue = i then finishSeq s1 ((cue s i).arg % 65536) else s1
  | none => s1

theorem exec_relaySwitch_due {s : State} {q : Nat} (h : cueDue s q cueRelay = true) :
    exec (.relaySwitch q) s = .next (whenRunning s fun s => switchDue s q) := by
  show execRelaySwitch q s = _
  unfold execRelaySwitch whenRunning
  simp only [h, if_true]
  rfl

theorem switchDue_spec (s : State) (q : Nat) :
    (switchDue s q).pwr.inReset = s.pwr.inReset ∧ dom (switchDue s q) 6 = dom s 6 ∧ cuePending (cue (switchDue s q) q) = false ∧
      ((seqOf s ((cue s q).arg % 65536)).any (fun x => x.cue == q) = true → seqOf (switchDue s q) ((cue s q).arg % 65536) = none) := by
  obtain ⟨m, hm⟩ : ∃ m, (cue s q).arg % 65536 = m := ⟨_, rfl⟩
  unfold switchDue
  rw [hm]
  extract_lets s1
  have hcue : Beside _ s1 := finishCue_beside s q _
  have hends : cuePending (cue s1 q) = false := cuePending_finishCue s q _
  have hseq : seqOf s1 m = seqOf s m := seqOf_of_crd hcue.crd m
  rw [hseq]
  split
  case h_2 hnone => exact ⟨hcue.inReset, hcue.archiveDom, hends, by simp [hnone]⟩
  case h_1 x hsome =>
    split
    case isTrue =>
      have hdone := finishSeq_beside s1 m
      exact ⟨hdone.inReset.trans hcue.inReset, hdone.archiveDom.trans hcue.archiveDom,
        (congrArg cuePending (cue_of_clk hdone.clk q)).trans hends, fun _ => seqOf_finishSeq s1 m⟩
    case isFalse hother => exact ⟨hcue.inReset, hcue.archiveDom, hends, by simp [hsome, hother]⟩

/-- A due relay cue ends, with its sequence (R51, R448). -/
theorem exec_relaySwitch_ends {s : State} {q : Nat} (hcalm : calm s = true) (h : cueDue s q cueRelay = true) :
    ∃ t, exec (.relaySwitch q) s = .next t ∧ cuePending (cue t q) = false ∧
      ((seqOf s ((cue s q).arg % 65536)).any (fun x => x.cue == q) = true → seqOf t ((cue s q).arg % 65536) = none) := by
  obtain ⟨hreset, hdom, hends, hseq⟩ := switchDue_spec s q
  have hstep := (whenRunning_told_of_calm (fun s => switchDue s q) hcalm hreset hdom).kept
  refine ⟨_, exec_relaySwitch_due h, ?_, fun hmine => ?_⟩
  · rw [cue_of_clk hstep.clk]
    exact hends
  · rw [seqOf_of_crd hstep.crd]
    exact hseq hmine

/-- At its arm frame the cue of an ACTIVE head is ARMED (R54). -/
theorem exec_relaySwitch_arms {s : State} {q : Nat} {a : Arm} (hcalm : calm s = true) (hdue : cueDue s q cueRelay = false)
    (harm : armOf s q = some a) (hkind : (cue s q).kind = cueRelay) (hpending : cuePending (cue s q) = true)
    (hstate : a.state = .reserved) (hsend : a.send = nextFrame s) (hhead : (head s a.head).state = .active)
    (hseq : seqOf s a.mp = none) : exec (.relaySwitch q) s = .next (setCue s q { cue s q with state := .armed }) := by
  have hcue : a.cue = q := by
    have hfound := List.find?_some harm
    simp only [Bool.and_eq_true, beq_iff_eq] at hfound
    exact hfound.1
  have harmed : armDue s a = setCue s q { cue s q with state := .armed } := by
    simp [armDue, hseq, hhead, hcue, hpending]
  refine next_whenRunning_quiet _ hcalm ?_ rfl rfl rfl
  simp only [hdue, harm]
  rw [if_neg Bool.false_ne_true, if_pos ⟨hkind, hstate, hsend⟩]
  exact harmed

/-! ### The end of a warning (R448) -/

theorem exec_warnPlayEnd_ends {s : State} {m : Nat} {q : RelSeq} (hcalm : calm s = true) (hseq : seqOf s m = some q)
    (hphase : q.phase ≠ .held) (hcome : q.switch ≤ nowStamp s) (hcycle : s.clk.cycle.isSome = true) :
    ∃ t, exec (.warnPlayEnd m) s = .next t ∧ seqOf t m = none ∧ m ∉ warned t 0 ∧ m ∉ warned t 1 := by
  have hexec : exec (.warnPlayEnd m) s = .next (whenRunning s fun s => finishSeq s m) := by
    show execWarnPlayEnd m s = _
    unfold execWarnPlayEnd whenRunning
    simp only [hseq, hphase, hcome, hcycle, ne_eq, not_false_eq_true, and_self, if_true]
  have hdone := finishSeq_beside s m
  have hstep := (whenRunning_told_of_calm (fun s => finishSeq s m) hcalm hdone.inReset hdone.archiveDom).kept
  refine ⟨_, hexec, ?_, ?_, ?_⟩
  · rw [seqOf_of_crd hstep.crd]
    exact seqOf_finishSeq s m
  · rw [warned_of_kept hstep]
    exact not_mem_warned_finishSeq s m 0
  · rw [warned_of_kept hstep]
    exact not_mem_warned_finishSeq s m 1

/-! ### Limits and lasting feedback (R300) -/

/-- A step that only works on a relay leaves it as the work did. -/
theorem relay_whenRunning {s : State} {m : Nat} (f : State → State) (hcalm : calm s = true) (hwork : OnRelay m s (f s)) :
    relay (whenRunning s f) m = relay (f s) m :=
  relay_of_crd (whenRunning_told_of_calm f hcalm hwork.inReset hwork.archiveDom).kept.crd m

/-- A relay that moves to a standing state and is judged stands in it. -/
theorem judgeRelay_setRelayState_state (s : State) (m : Nat) {st : RelayState} (cause : Nat) (switch : Stamp)
    (h : standing st = true) : (relay (judgeRelay (setRelayState s m st cause switch) m) m).state = st := by
  have hmoved := setRelayState_state s m st cause switch
  rw [judgeRelay_standing (by rw [hmoved]; exact h), hmoved]

theorem judgeRelay_setRelayState_onRelay (s : State) (m : Nat) (st : RelayState) (cause : Nat) (switch : Stamp) :
    OnRelay m s (judgeRelay (setRelayState s m st cause switch) m) :=
  (setRelayState_onRelay s m st cause switch).trans (judgeRelay_onRelay _ m)

/-- The fault state of a movement that has passed its limit. -/
theorem exec_relayLimitExpire_faults {s : State} {m : Nat} {st : RelayState} (hcalm : calm s = true)
    (hlimit : (relay s m).limit ≤ s.bkd.tick)
    (hmoves : (relay s m).state = .closing ∧ st = .faultNoclose ∨ (relay s m).state = .opening ∧ st = .faultWelded) :
    ∃ t, exec (.relayLimitExpire m) s = .next t ∧ (relay t m).state = st := by
  have hpassed : ¬ nowTick s < (relay s m).limit := Nat.not_lt.mpr hlimit
  have hexec : exec (.relayLimitExpire m) s = .next (whenRunning s fun s => judgeRelay (setRelayState s m st 3 0) m) := by
    show execRelayLimitExpire m s = _
    unfold execRelayLimitExpire whenRunning
    rcases hmoves with ⟨hstate, rfl⟩ | ⟨hstate, rfl⟩ <;> simp only [hpassed, hstate, if_false]
  have hstand : standing st = true := by
    rcases hmoves with ⟨-, rfl⟩ | ⟨-, rfl⟩ <;> rfl
  refine ⟨_, hexec, ?_⟩
  rw [relay_whenRunning (fun s => judgeRelay (setRelayState s m st 3 0) m) hcalm (judgeRelay_setRelayState_onRelay s m st 3 0)]
  exact judgeRelay_setRelayState_state s m 3 0 hstand

/-- A lasting condition moves a relay to a standing state (Table CRD.4). -/
theorem standing_of_persistOf {s : State} {m n : Nat} {st : RelayState} (h : persistOf s m = some (st, n)) : standing st = true := by
  unfold persistOf at h
  split at h <;> simp only [Option.ite_none_right_eq_some, Option.some.injEq, Prod.mk.injEq, reduceCtorEq] at h
  all_goals
    obtain ⟨-, rfl, -⟩ := h
    rfl

/-- The work of RELAY_FEEDBACK_PERSIST: the move, its tamper record when it enters a fault state, and the judgement of the
feedback that stands. -/
def persistMove (s : State) (m : Nat) (st : RelayState) : State :=
  let s1 := setRelayState s m st 3 0
  judgeRelay (if relayFault st && !relayFault (relay s m).state then tamper s1 m 7 else s1) m

theorem persistMove_spec (s : State) (m : Nat) {st : RelayState} (h : standing st = true) :
    OnRelay m s (persistMove s m st) ∧ (relay (persistMove s m st) m).state = st := by
  unfold persistMove
  extract_lets s1
  have hmoved : (relay s1 m).state = st := setRelayState_state s m st 3 0
  have htold : Beside s1 (if relayFault st && !relayFault (relay s m).state then tamper s1 m 7 else s1) :=
    Beside.ite (tamper_beside s1 m 7) (Beside.refl s1)
  have hstate := (congrArg Relay.state (relay_of_crd htold.crd m)).trans hmoved
  refine ⟨((setRelayState_onRelay s m st 3 0).trans (htold.onRelay m)).trans (judgeRelay_onRelay _ m), ?_⟩
  rw [judgeRelay_standing (by rw [hstate]; exact h), hstate]

theorem exec_relayFeedbackPersist_moves {s : State} {m u n : Nat} {st : RelayState} (hcalm : calm s = true)
    (hlasts : persistOf s m = some (st, n)) (hsince : (relay s m).since = some u) (hpast : u + n ≤ s.bkd.tick) :
    ∃ t, exec (.relayFeedbackPersist m) s = .next t ∧ (relay t m).state = st := by
  have hpast' : u + n ≤ nowTick s := hpast
  have hexec : exec (.relayFeedbackPersist m) s = .next (whenRunning s fun s => persistMove s m st) := by
    show execRelayFeedbackPersist m s = _
    unfold execRelayFeedbackPersist whenRunning
    simp only [hlasts, hsince, hpast', if_true]
    rfl
  obtain ⟨hwork, hstate⟩ := persistMove_spec s m (standing_of_persistOf hlasts)
  refine ⟨_, hexec, ?_⟩
  rw [relay_whenRunning (fun s => persistMove s m st) hcalm hwork]
  exact hstate

/-! ### Replies of the heads (R57, R96, R117) -/

/-- The hub once a container of a head has been received: the head's fragment state, and the ACK that waits for its lane (R96). -/
def receivedBox (s : State) (p : Nat) (b : Bytes) : State :=
  sendShort (setHead s p { head s p with
    taken := (boxMseq b :: (head s p).taken).take 64, fragTyp := boxType b,
    fragNext := if boxMore b then boxFrag b + 1 else 0,
    fragBytes := if boxMore b then boxWhole s p b else [] }) p 4 (le 2 (boxMseq b))

/-- What `arrives` says of a container that is acknowledged: its action gets the whole message. -/
theorem upstream_of_arrives {s : State} {p typ : Nat} {b : Bytes} (act : State → Bytes → State) (h : arrives s p typ b = true)
    (hack : typ ≠ 0x87) : upstream s p typ b act = act (receivedBox s p b) (boxWhole s p b) := by
  unfold arrives at h
  simp only [Bool.and_eq_true, Bool.or_eq_true, Bool.not_eq_true', beq_iff_eq, decide_eq_true_eq] at h
  obtain ⟨⟨⟨⟨⟨⟨⟨⟨⟨hgood, hpos⟩, haddr⟩, hheard⟩, htyp⟩, hlen⟩, htag⟩, hnew⟩, hfrag⟩, hlast⟩ := h
  have htagged : (!joinType typ && joined s p && !boxTagOk s p b) = false := by
    rcases htag with (h | h) | h <;> simp [h]
  have hlong : ¬ 92 < boxLen b := Nat.not_lt.mpr hlen
  unfold upstream
  simp only [hgood, hpos, haddr, hheard, htyp, hlong, htagged, hnew, hfrag, hlast, hack, receivedBox, boxWhole, ne_eq,
    decide_true, Bool.not_true, bne_self_eq_false, Bool.or_self, Bool.false_eq_true, if_false, not_true_eq_false, or_self]

theorem receivedBox_frame (s : State) (p : Nat) (b : Bytes) :
    receivedBox s p b = { s with ply := (receivedBox s p b).ply } ∧ (receivedBox s p b).ply.arms = s.ply.arms ∧
      (receivedBox s p b).ply.frame = s.ply.frame := ⟨rfl, rfl, rfl⟩

theorem receivedBox_acked (s : State) (p : Nat) (b : Bytes) : acked (receivedBox s p b) p b :=
  ⟨_, List.mem_append_right _ (List.mem_singleton.mpr rfl), rfl, rfl, rfl⟩

theorem slice_whole {b : Bytes} {n : Nat} (h : b.length = n) : slice b 0 n = b := by
  simp [slice, h]

/-! ### One entry of a reply -/

/-- The hub without an arm. -/
def dropArm (s : State) (a : Arm) : State := { s with ply := { s.ply with arms := s.ply.arms.erase a } }

theorem cancelCue_frame (s : State) (i : Nat) : (cancelCue s i).ply = s.ply ∧ (cancelCue s i).pwr = s.pwr ∧
    (cancelCue s i).ev = s.ev := by
  unfold cancelCue
  split <;> exact ⟨rfl, rfl, rfl⟩

/-- An arm that will not act: it leaves the ring, and its cue is pending no more. -/
theorem armGone_spec (s : State) (a : Arm) :
    (armGone s a).ply = (dropArm s a).ply ∧ (armGone s a).pwr.inReset = s.pwr.inReset ∧
      dom (armGone s a) 6 = dom s 6 ∧ cuePending (cue (armGone s a) a.cue) = false := by
  unfold armGone
  extract_lets ply1 s1
  obtain ⟨hply, hpwr, hev⟩ := cancelCue_frame (dropArm s a) a.cue
  have hends : cuePending (cue s1 a.cue) = false := cuePending_cancelCue _ _
  have hreset : s1.pwr.inReset = s.pwr.inReset := congrArg Pwr.inReset hpwr
  have hdom : dom s1 6 = dom s 6 := dom_congr (congrArg EvBlk.doms hev) 6
  have hkeep : s1.ply = (dropArm s a).ply ∧ s1.pwr.inReset = s.pwr.inReset ∧ dom s1 6 = dom s 6 ∧
      cuePending (cue s1 a.cue) = false := ⟨hply, hreset, hdom, hends⟩
  split
  case h_2 => exact hkeep
  case h_1 q _ =>
    split
    case isFalse => exact hkeep
    case isTrue =>
      have hstop := stopWarning_beside (setSeq s1 a.mp none) a.mp 4
      exact ⟨hstop.ply.trans hply, hstop.inReset.trans hreset, hstop.archiveDom.trans hdom,
        (congrArg cuePending (cue_of_clk hstop.clk a.cue)).trans hends⟩

/-- The coil instant of an arm: it leaves the ring, and the relay notes whether credit opened it. -/
theorem coilInstant_spec (s : State) (a : Arm) :
    (coilInstant s a).ply = (dropArm s a).ply ∧ (coilInstant s a).pwr.inReset = s.pwr.inReset ∧
      dom (coilInstant s a) 6 = dom s 6 ∧ (relay (coilInstant s a) a.mp).byCredit = (a.cmd == 2 && a.cause == 0) := by
  unfold coilInstant
  extract_lets ply1 s1 r from_ s2
  have hnoted : s2.ply = (dropArm s a).ply ∧ s2.pwr.inReset = s.pwr.inReset ∧ dom s2 6 = dom s 6 ∧
      (relay s2 a.mp).byCredit = (a.cmd == 2 && a.cause == 0) := ⟨rfl, rfl, rfl, by simp only [s2, relay_setRelay]⟩
  split
  case isFalse => exact hnoted
  case isTrue =>
    obtain ⟨hply, hreset, hdom, hcredit⟩ := hnoted
    have hmove := setRelayState_onRelay s2 a.mp (if a.cmd = 1 then .closing else .opening) a.cause (cue s a.cue).stamp
    exact ⟨hmove.ply.trans hply, hmove.inReset.trans hreset, hmove.archiveDom.trans hdom, hmove.byCredit.trans hcredit⟩

theorem cancelLate_beside (s : State) (a : Arm) (outcome : Nat) : Beside s (cancelLate s a outcome) := raise_info_beside rfl

/-- The entry accepts the arm, whose action frame has not come (R117). -/
theorem ackEntry_accepts {s : State} {p : Nat} {e : Bytes} {a : Arm} (harm : armById s p (fld e 0 4) = some a)
    (hstate : a.state = .sent) (hahead : s.ply.frame < a.act) (hcode : fld e 4 1 = 0) :
    ackEntry s p e = replyFeedback (setArm s { a with state := .accepted }) p a.mp (fld e 5 1) := by
  simp [ackEntry, harm, hstate, hcode, Nat.not_le.mpr hahead]

/-- The entry refuses the arm. -/
theorem ackEntry_refuses {s : State} {p : Nat} {e : Bytes} {a : Arm} (harm : armById s p (fld e 0 4) = some a)
    (hcode : fld e 4 1 ≠ 0) : ackEntry s p e = replyFeedback (armGone s a) p a.mp (fld e 5 1) := by
  simp [ackEntry, harm, hcode]

/-- The entry says that the arm was cancelled (R56). -/
theorem resultEntry_cancelled {s : State} {p : Nat} {e : Bytes} {a : Arm} (harm : armById s p (fld e 0 4) = some a)
    (hcode : fld e 4 1 = 0) : resultEntry s p e = replyFeedback (armGone s a) p a.mp (fld e 5 1) := by
  simp [resultEntry, harm, hcode]

/-- The entry says that the arm acted (R57). -/
theorem resultEntry_acted {s : State} {p : Nat} {e : Bytes} {a : Arm} (harm : armById s p (fld e 0 4) = some a)
    (hcode : fld e 4 1 = 1) :
    resultEntry s p e = replyFeedback (if a.cancel = 0 then coilInstant s a else cancelLate (coilInstant s a) a 1) p a.mp (fld e 5 1) := by
  simp [resultEntry, harm, hcode]

/-! ### The reply as a step -/

/-- A message of 12 bytes holds one entry. -/
theorem foldl_single_entry {m : Bytes} (h : m.length = 12) (f : State → Bytes → State) (s : State) :
    (span 0 (min 7 (m.length / 12))).foldl (fun a n => f a (slice m (12 * n) 12)) s = f s m := by
  rw [h]
  show f s (slice m (12 * 0) 12) = f s m
  rw [Nat.mul_zero, slice_whole h]

theorem exec_armAck_single {s : State} {p : Nat} {b m : Bytes} (harrives : arrives s p 0x85 b = true) (hm : m = boxWhole s p b)
    (hlen : m.length = 12) : exec (.armAck p b) s = .next (whenRunning s fun s => ackEntry (receivedBox s p b) p m) := by
  show execArmAck p b s = _
  unfold execArmAck whenRunning
  simp only [upstream_of_arrives _ harrives (by decide), ← hm, foldl_single_entry hlen (fun a e => ackEntry a p e)]

theorem exec_armResult_single {s : State} {p : Nat} {b m : Bytes} (harrives : arrives s p 0x86 b = true)
    (hm : m = boxWhole s p b) (hlen : m.length = 12) :
    exec (.armResult p b) s = .next (whenRunning s fun s => resultEntry (receivedBox s p b) p m) := by
  show execArmResult p b s = _
  unfold execArmResult whenRunning
  simp only [upstream_of_arrives _ harrives (by decide), ← hm, foldl_single_entry hlen (fun a e => resultEntry a p e)]

/-- What a reply's work on the arms leaves: `u` is the hub once the container has been received. -/
structure ArmsWork (u t : State) (arms : List Arm) : Prop where
  ply : t.ply = { u.ply with arms := arms }
  inReset : t.pwr.inReset = u.pwr.inReset
  archiveDom : dom t 6 = dom u 6

theorem ArmsWork.feedback {u t : State} {arms : List Arm} (h : ArmsWork u t arms) (p m fb : Nat) :
    ArmsWork u (replyFeedback t p m fb) arms :=
  have hfb := replyFeedback_onRelay t p m fb
  ⟨hfb.ply.trans h.ply, hfb.inReset.trans h.inReset, hfb.archiveDom.trans h.archiveDom⟩

/-- At the end of the step the ACK waits for its lane, and the arms are as the work left them. -/
theorem reply_step {s : State} {p : Nat} {b : Bytes} {arms : List Arm} (f : State → State) (hcalm : calm s = true)
    (h : ArmsWork (receivedBox s p b) (f s) arms) :
    acked (whenRunning s f) p b ∧ (whenRunning s f).ply.arms = arms ∧ Kept (f s) (whenRunning s f) := by
  have hstep := (whenRunning_told_of_calm f hcalm h.inReset h.archiveDom).kept
  have hply := hstep.ply.trans h.ply
  obtain ⟨x, hx, hack⟩ := receivedBox_acked s p b
  refine ⟨⟨x, ?_, hack⟩, by rw [hply], hstep⟩
  rw [hply]
  exact hx

section
variable {s : State} {p : Nat} {b m : Bytes} {a : Arm} (hcalm : calm s = true) (hm : m = boxWhole s p b)
  (hlen : m.length = 12) (harm : armById s p (fld m 0 4) = some a)

include hcalm hm hlen harm in
theorem exec_armAck_accepts (harrives : arrives s p 0x85 b = true) (hstate : a.state = .sent) (hahead : s.ply.frame < a.act)
    (hcode : fld m 4 1 = 0) : ∃ t, exec (.armAck p b) s = .next t ∧ acked t p b ∧
      t.ply.arms = s.ply.arms.map fun x => if x.id = a.id ∧ x.head = a.head then { a with state := .accepted } else x := by
  have hwork : ArmsWork (receivedBox s p b) (ackEntry (receivedBox s p b) p m)
      (s.ply.arms.map fun x => if x.id = a.id ∧ x.head = a.head then { a with state := .accepted } else x) := by
    rw [ackEntry_accepts (s := receivedBox s p b) harm hstate hahead hcode]
    exact ArmsWork.feedback (t := setArm (receivedBox s p b) { a with state := .accepted }) ⟨rfl, rfl, rfl⟩ _ _ _
  obtain ⟨hack, harms, -⟩ := reply_step (fun s => ackEntry (receivedBox s p b) p m) hcalm hwork
  exact ⟨_, exec_armAck_single harrives hm hlen, hack, harms⟩

include hcalm in
/-- A reply that takes an arm away cancels its cue. -/
theorem reply_armGone (f : State → State) (fb : Nat) (hf : f s = replyFeedback (armGone (receivedBox s p b) a) p a.mp fb) :
    acked (whenRunning s f) p b ∧ (whenRunning s f).ply.arms = s.ply.arms.erase a ∧
      cuePending (cue (whenRunning s f) a.cue) = false := by
  obtain ⟨hply, hreset, hdom, hends⟩ := armGone_spec (receivedBox s p b) a
  have hwork : ArmsWork (receivedBox s p b) (f s) (s.ply.arms.erase a) := by
    rw [hf]
    exact ArmsWork.feedback ⟨hply, hreset, hdom⟩ _ _ _
  obtain ⟨hack, harms, hstep⟩ := reply_step f hcalm hwork
  refine ⟨hack, harms, ?_⟩
  rw [cue_of_clk hstep.clk, hf, cue_of_clk (replyFeedback_onRelay _ p a.mp fb).clk]
  exact hends

include hcalm hm hlen harm in
theorem exec_armAck_refuses (harrives : arrives s p 0x85 b = true) (hcode : fld m 4 1 ≠ 0) :
    ∃ t, exec (.armAck p b) s = .next t ∧ acked t p b ∧ t.ply.arms = s.ply.arms.erase a ∧ cuePending (cue t a.cue) = false :=
  ⟨_, exec_armAck_single harrives hm hlen,
    reply_armGone hcalm (fun s => ackEntry (receivedBox s p b) p m) _ (ackEntry_refuses (s := receivedBox s p b) harm hcode)⟩

include hcalm hm hlen harm in
theorem exec_armResult_cancelled (harrives : arrives s p 0x86 b = true) (hcode : fld m 4 1 = 0) :
    ∃ t, exec (.armResult p b) s = .next t ∧ acked t p b ∧ t.ply.arms = s.ply.arms.erase a ∧ cuePending (cue t a.cue) = false :=
  ⟨_, exec_armResult_single harrives hm hlen,
    reply_armGone hcalm (fun s => resultEntry (receivedBox s p b) p m) _ (resultEntry_cancelled (s := receivedBox s p b) harm hcode)⟩

include hcalm hm hlen harm in
theorem exec_armResult_acted (harrives : arrives s p 0x86 b = true) (hcode : fld m 4 1 = 1) :
    ∃ t, exec (.armResult p b) s = .next t ∧ acked t p b ∧ t.ply.arms = s.ply.arms.erase a ∧
      (relay t a.mp).byCredit = (a.cmd == 2 && a.cause == 0) := by
  obtain ⟨hply, hreset, hdom, hcredit⟩ := coilInstant_spec (receivedBox s p b) a
  have htold : Beside (coilInstant (receivedBox s p b) a) (if a.cancel = 0 then coilInstant (receivedBox s p b) a
      else cancelLate (coilInstant (receivedBox s p b) a) a 1) := Beside.ite (Beside.refl _) (cancelLate_beside _ _ _)
  have hfb := (htold.onRelay a.mp).trans (replyFeedback_onRelay _ p a.mp (fld m 5 1))
  rw [← resultEntry_acted (s := receivedBox s p b) harm hcode] at hfb
  obtain ⟨hack, harms, hstep⟩ := reply_step (fun s => resultEntry (receivedBox s p b) p m) hcalm
    ⟨hfb.ply.trans hply, hfb.inReset.trans hreset, hfb.archiveDom.trans hdom⟩
  refine ⟨_, exec_armResult_single harrives hm hlen, hack, harms, ?_⟩
  rw [relay_of_crd hstep.crd]
  exact hfb.byCredit.trans hcredit

end

/-! ### The obligation -/

/-- Settles O42: a relay's movement, its records and its warning work beside the cues and the arms, so each clause is read from the
one operation that ends the cue, drops the arm or moves the relay. -/
theorem relaysMove : Obligations.RelaysMove := by
  intro s hcalm
  refine ⟨fun q => exec_relaySwitch_ends hcalm, fun q a => exec_relaySwitch_arms hcalm, fun m q => exec_warnPlayEnd_ends hcalm,
    fun m hlimit => ⟨fun h => ?closing, fun h => ?opening⟩, fun m u n st => exec_relayFeedbackPersist_moves hcalm, ?ack, ?result⟩
  case closing => exact exec_relayLimitExpire_faults hcalm hlimit (.inl ⟨h, rfl⟩)
  case opening => exact exec_relayLimitExpire_faults hcalm hlimit (.inr ⟨h, rfl⟩)
  case ack =>
    intro p b m a harrives hm hlen harm hstate hahead
    exact ⟨exec_armAck_accepts hcalm hm hlen harm harrives hstate hahead, exec_armAck_refuses hcalm hm hlen harm harrives⟩
  case result =>
    intro p b m a harrives hm hlen harm
    exact ⟨exec_armResult_cancelled hcalm hm hlen harm harrives, exec_armResult_acted hcalm hm hlen harm harrives⟩

end Sys2Proof.Proofs
end

section
/-!
The cycle boundary (R31, R36, R39, R43, R46, R617): the tracker and the clock move by what they read of the clock and the objects
in force; every event on the way is INFO, and the meter's work leaves the clock and the anchors alone.
-/
namespace Sys2Proof.Proofs

open Sys2Proof.Machine Sys2Proof.Laws

/-! ### Events that only inform -/

/-- `t` differs from `s` by INFO events: no fault domain has moved. -/
structure Noted (s t : State) : Prop where
  told : Told s t
  doms : t.ev.doms = s.ev.doms
  cis : t.cis = s.cis

theorem Noted.refl (s : State) : Noted s s := ⟨Told.refl s, rfl, rfl⟩

theorem Noted.trans {s t u : State} (h : Noted s t) (g : Noted t u) : Noted s u :=
  ⟨h.told.trans g.told, g.doms.trans h.doms, g.cis.trans h.cis⟩

theorem Noted.beside {s t : State} (h : Noted s t) : Beside s t := .of_kept h.told.kept h.doms h.cis

theorem Noted.withClk {s t : State} (h : Noted s t) (x : Clk) : Noted { s with clk := x } { t with clk := x } :=
  ⟨told_clk h.told x, h.doms, h.cis⟩

theorem raise_info_noted {s : State} {e : EvReq} (h : severity e.id e.star = 0) : Noted s (raise s e) :=
  ⟨raise_info_told h, raise_info_doms h, (raise_info_beside h).cis⟩

/-- The events of a list are all INFO. -/
def allInfo (l : List EvReq) : Prop := ∀ e ∈ l, severity e.id e.star = 0

theorem foldl_raise_noted {l : List EvReq} (h : allInfo l) (s : State) : Noted s (l.foldl raise s) := by
  induction l generalizing s with
  | nil => exact Noted.refl s
  | cons e l ih =>
    obtain ⟨he, hl⟩ := List.forall_mem_cons.mp h
    exact (raise_info_noted he).trans (ih hl (raise s e))

/-! ### The tracker (R34, R35, R38) -/

theorem rangeEvents_info (s : State) (o : BoundaryObs) : allInfo (rangeEvents s o) := by
  intro e he
  obtain ⟨c, -, rfl⟩ := List.mem_map.mp he
  rfl

theorem track_info (s : State) (o : BoundaryObs) : allInfo (track s o).2 := by
  unfold track
  extract_lets c0 c1 stays c2 m
  split
  · exact rangeEvents_info s o
  · split
    · intro e he
      rcases List.mem_append.mp he with he | he
      · exact rangeEvents_info s o e he
      · rw [List.mem_singleton.mp he]
        rfl
    · exact rangeEvents_info s o

/-- The tracker changes the clock block alone, and of it neither the state nor the number. -/
theorem track_frame (s : State) (o : BoundaryObs) :
    (track s o).1 = { s with clk := (track s o).1.clk } ∧ (track s o).1.clk.cycle = s.clk.cycle := by
  unfold track
  dsimp only
  repeat' split
  all_goals exact ⟨rfl, rfl⟩

/-! ### The clock moves (R36, R37, R39) -/

/-- The clock block once the clock has moved. -/
def movedClk (s : State) (o : BoundaryObs) : Clk :=
  let st := nextClock s o
  let f := stateFreq s st o
  let c := { s.clk with
    lockRun := lockNext s o, freq := f, phaseErr := o.phaseErr, lockedFreq := if st = .locked then f else s.clk.lockedFreq }
  if s.clk.state = st then c else { c with state := st, everLocked := s.clk.everLocked || st == .locked, lockRun := 0 }

theorem movedClk_state (s : State) (o : BoundaryObs) : (movedClk s o).state = nextClock s o := by
  unfold movedClk
  extract_lets st f c
  split
  · assumption
  · rfl

theorem movedClk_place (s : State) (o : BoundaryObs) :
    (movedClk s o).cycle = s.clk.cycle ∧ (movedClk s o).tick = s.clk.tick ∧ (movedClk s o).frame = s.clk.frame := by
  unfold movedClk
  extract_lets st f c
  split <;> exact ⟨rfl, rfl, rfl⟩

theorem moveClock_noted (s : State) (o : BoundaryObs) : Noted { s with clk := movedClk s o } (moveClock s o) := by
  unfold moveClock enterClock movedClk
  extract_lets st f c
  by_cases hst : s.clk.state = st
  · have hc : c.state = st := hst
    rw [if_pos hst, if_pos hc]
    exact Noted.refl _
  · have hc : ¬ c.state = st := hst
    rw [if_neg hst, if_neg hc]
    exact raise_info_noted (by cases st <;> rfl)

/-- The clock reads the clock block, the objects in force and the cascade. -/
theorem movedClk_of_kept {s t : State} (h : Kept s t) (o : BoundaryObs) : movedClk t o = movedClk s o := by
  have ht : t = { t with clk := s.clk, bkd := s.bkd, slu := s.slu, ril := s.ril } := by rw [← h.clk, ← h.bkd, ← h.slu, ← h.ril]
  rw [ht]
  rfl

/-! ### A boundary without a number (R617) -/

/-- The work of a boundary that takes no number: the tracker, its events, and the clock. -/
def trackOnly (s : State) (o : BoundaryObs) : State := moveClock ((track s o).2.foldl raise (track s o).1) o

/-- The events of the tracker come first; the clock then moves as if they had not. -/
theorem trackOnly_noted (s : State) (o : BoundaryObs) : Noted { s with clk := movedClk (track s o).1 o } (trackOnly s o) := by
  obtain ⟨htrack, -⟩ := track_frame s o
  have hevents := foldl_raise_noted (track_info s o) (track s o).1
  have hmove := moveClock_noted ((track s o).2.foldl raise (track s o).1) o
  rw [movedClk_of_kept hevents.told.kept] at hmove
  have hpass := hevents.withClk (movedClk (track s o).1 o)
  have hsame : ({ (track s o).1 with clk := movedClk (track s o).1 o } : State) = { s with clk := movedClk (track s o).1 o } := by
    rw [htrack]
  exact Noted.trans (hsame ▸ hpass) hmove

theorem exec_cycleBoundary_unnumbered {s : State} {o : BoundaryObs} (hcalm : calm s = true)
    (h : s.clk.numbering = false ∨ s.lgl.halt = true) :
    ∃ t, exec (.cycleBoundary o) s = .next t ∧ Told { s with clk := (moveClock (track s o).1 o).clk } t ∧
      t.clk.state = nextClock (track s o).1 o ∧ t.clk.cycle = s.clk.cycle := by
  obtain ⟨htrack, hcycle⟩ := track_frame s o
  have hclk : (moveClock (track s o).1 o).clk = movedClk (track s o).1 o := (moveClock_noted _ o).told.kept.clk
  have hexec : exec (.cycleBoundary o) s = .next (whenRunning s fun s => trackOnly s o) := by
    show execCycleBoundary o s = _
    unfold execCycleBoundary whenRunning
    have hnone : ¬ (s.clk.numbering && !s.lgl.halt) = true := by rcases h with h | h <;> simp [h]
    simp only [if_neg hnone, trackOnly]
  have hwork := trackOnly_noted s o
  have hstep := whenRunning_told_of_calm (fun s => trackOnly s o) hcalm hwork.beside.inReset hwork.beside.archiveDom
  have htold := hwork.told.trans hstep
  refine ⟨_, hexec, hclk ▸ htold, ?_, ?_⟩
  · rw [htold.kept.clk]
    exact movedClk_state _ o
  · rw [htold.kept.clk]
    exact (movedClk_place _ o).1.trans hcycle

/-! ### Streams work beside the clock (R494–R499) -/

theorem resetsChip_tenant (t : Nat) : resetsChip (16 + t) = false := by
  simp [resetsChip]
  omega

theorem setRing_beside (s : State) (t i : Nat) (r : Ring) : Beside s (setRing s t i r) := .of_sent (setRing_sent s t i r)

theorem setRingState_beside (s : State) (t i : Nat) (st : RingState) (cause : Nat) : Beside s (setRingState s t i st cause) :=
  ((setRing_beside _ _ _ _).trans (inform_beside _ _)).trans (.of_sent (writeShadow_sent _ _ _))

theorem ringError_beside (s : State) (t i cause : Nat) : Beside s (ringError s t i cause) := by
  unfold ringError
  have hstate := setRingState_beside s t i .error cause
  exact Beside.ite (Beside.ite hstate (hstate.trans (escalate_beside _ 1 0x7A0 (resetsChip_tenant t)))) hstate

theorem closePage_beside (s : State) (t i pfl : Nat) : Beside s (closePage s t i pfl) := by
  unfold closePage
  split
  · exact Beside.refl s
  · exact Beside.ite (((Beside.of_sent (dma_sent _ _ _ _)).trans (setRing_beside _ _ _ _)).trans (.of_sent (produce_sent _ _ _ _)))
      (setRing_beside _ _ _ _)

theorem openPage_beside (s : State) (t i : Nat) : Beside s (openPage s t i) := by
  unfold openPage
  extract_lets r b
  refine Beside.ite (Beside.refl s) (Beside.ite
    (Beside.ite (Beside.refl s) ((setRing_beside _ _ _ _).trans (raise_info_beside rfl))) ?_)
  split
  · exact Beside.refl s
  · exact Beside.ite (ringError_beside _ _ _ _) ((Beside.of_sent (consumeEntry_sent _ _ _)).trans (setRing_beside _ _ _ _))

theorem placeRec_beside (s : State) (t i : Nat) (p : OpenPage) (rec : StreamRec) (rest : List StreamRec) :
    Beside s (placeRec s t i p rec rest) := Beside.ite (setRing_beside _ _ _ _) (closePage_beside _ _ _ _)

theorem drainRing_beside (n : Nat) (s : State) (t i : Nat) : Beside s (drainRing n s t i) := by
  induction n generalizing s with
  | zero => exact Beside.refl s
  | succ n ih =>
    unfold drainRing
    split
    · exact Beside.refl s
    · split
      · exact Beside.ite ((openPage_beside s t i).trans (ih _)) (openPage_beside s t i)
      · exact Beside.ite (Beside.refl s) ((placeRec_beside _ _ _ _ _ _).trans (ih _))

theorem stageRec_beside (s : State) (t i : Nat) (rec : StreamRec) : Beside s (stageRec s t i rec) := by
  unfold stageRec drain
  extract_lets r s1
  exact Beside.ite (setRing_beside _ _ _ _) (Beside.ite ((setRing_beside _ _ _ _).trans (drainRing_beside _ _ _ _))
    ((setRing_beside _ _ _ _).trans (raise_beside _ _ (.inr (by simp [faultDomain, defaultDomain, resetsChip])))))

theorem streamOut_beside (s : State) (rec : StreamRec) (only0 : Bool) : Beside s (streamOut s rec only0) :=
  Beside.foldl _ (fun a k => stageRec_beside a (k / 64) (k % 64) rec) _ _

/-- An archived item enters the tail or its producer's queue; the ladders' areas stand (R377, R378). -/
theorem archive_beside (s : State) (kind tenant session : Nat) (body : Bytes) :
    ∃ c : Cis, c.ladNext = s.cis.ladNext ∧ c.ladFirst = s.cis.ladFirst ∧
      Beside { s with cis := c } (archive s kind tenant session body) := by
  unfold archive
  extract_lets it s1
  split
  · exact ⟨s1.cis, rfl, rfl, streamOut_beside s1 _ _⟩
  · exact ⟨{ s.cis with waiting := s.cis.waiting ++ [⟨it, none⟩], tailFull := true }, rfl, rfl, Beside.refl _⟩

/-! ### The number, the log and the anchor (R43–R46) -/

theorem Beside.withClk {s t : State} (h : Beside s t) (x : Clk) : Beside { s with clk := x } { t with clk := x } :=
  ⟨rfl, h.bkd, h.ply, h.met, h.pqe, h.lgl, h.crd, h.slu, h.ril, h.cis, h.inReset, h.down, h.archiveDom⟩

theorem Beside.withBkd {s t : State} (h : Beside s t) (x : Bkd) : Beside { s with bkd := x } { t with bkd := x } :=
  ⟨h.clk, rfl, h.ply, h.met, h.pqe, h.lgl, h.crd, h.slu, h.ril, h.cis, h.inReset, h.down, h.archiveDom⟩

theorem Beside.withCis {s t : State} (h : Beside s t) (x : Cis) : Beside { s with cis := x } { t with cis := x } :=
  ⟨h.clk, h.bkd, h.ply, h.met, h.pqe, h.lgl, h.crd, h.slu, h.ril, rfl, h.inReset, h.down, h.archiveDom⟩

/-- With no cascade and no forward step due a boundary takes the next number (R31). -/
theorem boundaryNumber_natural {s : State} {c : Nat} (hcycle : s.clk.cycle = some c) (hmember : s.ril.member = false)
    (hjoined : s.ril.joined = false) (hsteps : s.ril.steps = []) : boundaryNumber s = some (c + 1, false) := by
  simp [boundaryNumber, nextNumber, nowCycle, hcycle, hmember, hjoined, hsteps]

/-- The clock block once a boundary has been placed and the clock has moved. -/
def placedClk (s : State) (o : BoundaryObs) (n : Nat) : Clk := movedClk (placeBoundary (track s o).1 o n) o

theorem placedClk_state (s : State) (o : BoundaryObs) (n : Nat) : (placedClk s o n).state = nextClock (track s o).1 o :=
  movedClk_state _ o

theorem placedClk_place (s : State) (o : BoundaryObs) (n : Nat) :
    (placedClk s o n).cycle = some n ∧ (placedClk s o n).tick = s.bkd.tick ∧ (placedClk s o n).frame = s.ply.frame := by
  obtain ⟨hcycle, htick, hframe⟩ := movedClk_place (placeBoundary (track s o).1 o n) o
  obtain ⟨htrack, -⟩ := track_frame s o
  refine ⟨hcycle, htick.trans ?_, hframe.trans ?_⟩
  · rw [htrack]
    rfl
  · rw [htrack]
    rfl

/-- The hub once a boundary has been placed at number `n`, its events are raised and the clock has moved. -/
def placed (s : State) (o : BoundaryObs) (n : Nat) : State :=
  moveClock (joinClock ((track s o).2.foldl raise (flushPrestamp (placeBoundary (track s o).1 o n)))) o

/-- In a hub that is no member all this changes the clock block. -/
theorem placed_beside {s : State} (o : BoundaryObs) (n : Nat) (hmember : s.ril.member = false) :
    Beside { s with clk := placedClk s o n } (placed s o n) := by
  obtain ⟨htrack, -⟩ := track_frame s o
  unfold placed
  have hevents := foldl_raise_noted (track_info s o) (flushPrestamp (placeBoundary (track s o).1 o n))
  generalize (track s o).2.foldl raise (flushPrestamp (placeBoundary (track s o).1 o n)) = u at hevents ⊢
  have hjoin : joinClock u = u := by
    have hril : u.ril.member = false := by
      rw [hevents.told.kept.ril]
      show (track s o).1.ril.member = false
      rw [htrack]
      exact hmember
    unfold joinClock
    rw [if_neg (by simp [hril])]
  have hclk : movedClk u o = placedClk s o n := movedClk_of_kept hevents.told.kept o
  have hstart : Beside { s with clk := placedClk s o n }
      { flushPrestamp (placeBoundary (track s o).1 o n) with clk := placedClk s o n } := by
    rw [htrack]
    exact ⟨rfl, rfl, rfl, rfl, rfl, rfl, rfl, rfl, rfl, rfl, rfl, id, rfl⟩
  rw [hjoin]
  exact (hstart.trans (hevents.beside.withClk _)).trans (hclk ▸ (moveClock_noted u o).beside)

/-- The entry of the boundary log (Table CYC.5): the newest names the boundary just placed (R46). -/
theorem logBoundary_beside (s old : State) (step : Bool) :
    ∃ (c : Cis) (l : Clk), c.ladNext = s.cis.ladNext ∧ c.ladFirst = s.cis.ladFirst ∧ l.cycle = s.clk.cycle ∧ l.tick = s.clk.tick ∧
      l.frame = s.clk.frame ∧ l.state = s.clk.state ∧
      l.log.head?.map (fun e => (e.cycle, e.ticks)) = some (nowCycle s, s.clk.tick) ∧
      Beside { s with clk := l, cis := c } (logBoundary s old step) := by
  unfold logBoundary
  extract_lets n first low e clk1 s1 changed
  split
  · obtain ⟨c, hnext, hfirst, harchive⟩ := archive_beside s1 6 0 0xFFFFFFFF (entryBytes24 s1 e)
    exact ⟨c, s1.clk, hnext, hfirst, rfl, rfl, rfl, rfl, rfl, harchive⟩
  · exact ⟨s.cis, s1.clk, rfl, rfl, rfl, rfl, rfl, rfl, rfl, Beside.refl s1⟩

theorem writeAnchor_beside {s t : State} (h : Beside s t) : Beside (writeAnchor s) (writeAnchor t) := by
  have hbkd : (writeAnchor t).bkd = (writeAnchor s).bkd := by
    simp only [writeAnchor, nowCycle, Machine.clk, h.bkd, h.clk]
  have hpass := h.withBkd (writeAnchor s).bkd
  exact ⟨hpass.clk, hbkd, hpass.ply, hpass.met, hpass.pqe, hpass.lgl, hpass.crd, hpass.slu, hpass.ril, hpass.cis, hpass.inReset,
    hpass.down, hpass.archiveDom⟩

/-- The anchor slot that is due names the cycle and its tick (R43). -/
theorem writeAnchor_due (s : State) :
    (if s.bkd.ret.nextB then (writeAnchor s).bkd.ret.anchorB else (writeAnchor s).bkd.ret.anchorA).cycle = nowCycle s ∧
    (if s.bkd.ret.nextB then (writeAnchor s).bkd.ret.anchorB else (writeAnchor s).bkd.ret.anchorA).ticks = s.clk.tick ∧
    (if s.bkd.ret.nextB then (writeAnchor s).bkd.ret.anchorB else (writeAnchor s).bkd.ret.anchorA).good = true := by
  unfold writeAnchor
  cases hslot : s.bkd.ret.nextB <;> simp [hslot]

/-- Between two checks of the legal engine a boundary does not concern it (R43, R236). -/
theorem legalBoundary_between {s old : State} {c : Nat} (hold : old.clk.cycle = some c) (hnow : s.clk.cycle = some (c + 1))
    (h : (c + 1) % 1048576 ≠ 0) : legalBoundary s old = s := by
  have hsame : ¬ c / 1048576 < (c + 1) / 1048576 := by omega
  unfold legalBoundary
  simp only [hold, nowCycle, hnow, Option.getD_some]
  rw [if_neg hsame]

theorem syncOutBoundary_beside (s : State) : Beside s (syncOutBoundary s) :=
  Beside.ite ⟨rfl, rfl, rfl, rfl, rfl, rfl, rfl, rfl, rfl, rfl, rfl, id, rfl⟩ (Beside.refl s)

/-! ### The meter's work at a boundary (R22) -/

/-- What the meter's work at a boundary leaves as it is: it changes registers, residuals, the legal log and increments asked for. -/
structure Metered (s t : State) : Prop where
  clk : t.clk = s.clk
  anchors : t.bkd.ret.anchorA = s.bkd.ret.anchorA ∧ t.bkd.ret.anchorB = s.bkd.ret.anchorB
  ply : t.ply = s.ply
  pqe : t.pqe = s.pqe
  crd : t.crd = s.crd
  slu : t.slu = s.slu
  lads : t.cis.ladNext = s.cis.ladNext ∧ t.cis.ladFirst = s.cis.ladFirst
  pwr : t.pwr = s.pwr
  doms : t.ev.doms = s.ev.doms

theorem Metered.refl (s : State) : Metered s s := ⟨rfl, ⟨rfl, rfl⟩, rfl, rfl, rfl, rfl, ⟨rfl, rfl⟩, rfl, rfl⟩

theorem Metered.trans {s t u : State} (h : Metered s t) (g : Metered t u) : Metered s u :=
  ⟨g.clk.trans h.clk, ⟨g.anchors.1.trans h.anchors.1, g.anchors.2.trans h.anchors.2⟩, g.ply.trans h.ply, g.pqe.trans h.pqe,
    g.crd.trans h.crd, g.slu.trans h.slu, ⟨g.lads.1.trans h.lads.1, g.lads.2.trans h.lads.2⟩, g.pwr.trans h.pwr,
    g.doms.trans h.doms⟩

theorem Noted.metered {s t : State} (h : Noted s t) : Metered s t :=
  have hkept := h.told.kept
  ⟨hkept.clk, by rw [hkept.bkd]; exact ⟨rfl, rfl⟩, hkept.ply, hkept.pqe, hkept.crd, hkept.slu, by rw [h.cis]; exact ⟨rfl, rfl⟩,
    hkept.pwr, h.doms⟩

theorem setMp_metered (s : State) (m : Nat) (x : Mp) : Metered s (setMp s m x) :=
  ⟨rfl, ⟨rfl, rfl⟩, rfl, rfl, rfl, rfl, ⟨rfl, rfl⟩, rfl, rfl⟩

theorem logEntryAdd_eq (s : State) (typ flags mp ticks : Nat) (data : Bytes) :
    logEntryAdd s typ flags mp ticks data = { s with lgl := (logEntryAdd s typ flags mp ticks data).lgl } := rfl

/-- The legal log is a matter of the legal partition alone (R248, R249). -/
theorem legalLog_eq (s : State) (typ flags mp : Nat) (data : Bytes) :
    ∃ l : Seal, legalLog s typ flags mp data = { s with lgl := l } := by
  unfold legalLog legalLogAt logWrap
  repeat' split
  all_goals exact ⟨_, rfl⟩

theorem legalLog_metered (s : State) (typ flags mp : Nat) (data : Bytes) : Metered s (legalLog s typ flags mp data) := by
  obtain ⟨l, hl⟩ := legalLog_eq s typ flags mp data
  rw [hl]
  exact ⟨rfl, ⟨rfl, rfl⟩, rfl, rfl, rfl, rfl, ⟨rfl, rfl⟩, rfl, rfl⟩

/-! ### One metering point without a queue -/

/-- The local incomer is the only metering point with an entry; it has no released cycle to book and no run to settle. -/
def IncomerOnly (s : State) : Prop := ∃ x : Mp, s.met.mps = [(256, x)] ∧ x.done = [] ∧ x.held = []

theorem mpOf_of_single {s : State} {x : Mp} (h : s.met.mps = [(256, x)]) : mpOf s 256 = x := by
  simp [mpOf, h, tget]

theorem setMp_of_single {s : State} {x : Mp} (h : s.met.mps = [(256, x)]) (y : Mp) : (setMp s 256 y).met.mps = [(256, y)] := by
  simp [setMp, h, tput]

theorem IncomerOnly.of_met {s t : State} (h : IncomerOnly s) (hmet : t.met = s.met) : IncomerOnly t := by
  unfold IncomerOnly at h ⊢
  rwa [hmet]

theorem requestInc_metered (s : State) (k : Nat) : Metered s (requestInc s k) ∧ (requestInc s k).met = s.met :=
  ⟨⟨rfl, ⟨rfl, rfl⟩, rfl, rfl, rfl, rfl, ⟨rfl, rfl⟩, rfl, rfl⟩, rfl⟩

/-- A fold of work on the meter whose every step leaves the table of metering points alone. -/
theorem foldl_metered {α : Type} (f : State → α → State) (hf : ∀ s a, Metered s (f s a) ∧ (f s a).met = s.met) (l : List α)
    (s : State) : Metered s (l.foldl f s) ∧ (l.foldl f s).met = s.met := by
  induction l generalizing s with
  | nil => exact ⟨Metered.refl s, rfl⟩
  | cons a l ih =>
    obtain ⟨hstep, hmet⟩ := hf s a
    obtain ⟨hrest, hmets⟩ := ih (f s a)
    exact ⟨hstep.trans hrest, hmets.trans hmet⟩

theorem commitReg_metered (s : State) (m x : Nat) : Metered s (commitReg s m x) ∧ (commitReg s m x).met = s.met :=
  foldl_metered _ (fun a _ => requestInc_metered a _) _ _

theorem setResiduals_metered (s : State) (m : Nat) (r : List Nat) : Metered s (setResiduals s m r) :=
  ⟨rfl, ⟨rfl, rfl⟩, rfl, rfl, rfl, rfl, ⟨rfl, rfl⟩, rfl, rfl⟩

/-- REGISTER_COMMIT of the incomer, before it has metered anything (R191). -/
theorem commitMp_metered {s : State} (h : s.met.mps = []) : Metered s (commitMp s 256) ∧ IncomerOnly (commitMp s 256) := by
  have hx : mpOf s 256 = {} := by simp [mpOf, h, tget]
  unfold commitMp
  extract_lets x s1
  have hmps : ∀ y, (setMp s 256 y).met.mps = [(256, y)] := by simp [setMp, h, tput]
  have hmet : IncomerOnly s1 := ⟨_, hmps _, congrArg Mp.done hx, congrArg Mp.held hx⟩
  have hres : Metered s s1 := (setMp_metered s 256 _).trans (setResiduals_metered _ _ _)
  obtain ⟨hregs, hmets⟩ := foldl_metered _ (fun a i => commitReg_metered a 256 i) (span 0 28) s1
  split
  · exact ⟨hres, hmet⟩
  · exact ⟨hres.trans hregs, hmet.of_met hmets⟩

theorem foldl_incomer {α : Type} (f : State → α → State)
    (hf : ∀ s a, IncomerOnly s → Metered s (f s a) ∧ IncomerOnly (f s a)) (l : List α) {s : State} (h : IncomerOnly s) :
    Metered s (l.foldl f s) ∧ IncomerOnly (l.foldl f s) := by
  induction l generalizing s with
  | nil => exact ⟨Metered.refl s, h⟩
  | cons a l ih =>
    obtain ⟨hstep, honly⟩ := hf s a h
    obtain ⟨hrest, hlast⟩ := ih honly
    exact ⟨hstep.trans hrest, hlast⟩

/-- Rollovers of the incomer (R194). -/
theorem rollovers_metered {s : State} (h : IncomerOnly s) : Metered s (rollovers s 256) ∧ IncomerOnly (rollovers s 256) := by
  refine foldl_incomer _ (fun a i honly => ?_) _ h
  obtain ⟨x, hmps, hdone, hheld⟩ := honly
  have hx := mpOf_of_single hmps
  extract_lets n y
  have hy : y = x := hx
  split
  case isFalse => exact ⟨Metered.refl a, x, hmps, hdone, hheld⟩
  case isTrue =>
    have hset := setMp_of_single hmps { y with rolls := setNth y.rolls i n }
    have honly : IncomerOnly (setMp a 256 { y with rolls := setNth y.rolls i n }) := ⟨_, hset, hy ▸ hdone, hy ▸ hheld⟩
    obtain ⟨l, hl⟩ := legalLog_eq (setMp a 256 { y with rolls := setNth y.rolls i n }) 0x0B 0 256 (le 1 i ++ zeros 3 ++ le 4 n)
    have hevent : Noted _ (mpEvent (legalLog (setMp a 256 { y with rolls := setNth y.rolls i n }) 0x0B 0 256
      (le 1 i ++ zeros 3 ++ le 4 n)) 0x303 256 [i, n]) := raise_info_noted rfl
    refine ⟨((setMp_metered a 256 _).trans (legalLog_metered _ _ _ _ _)).trans hevent.metered, ?_⟩
    exact (honly.of_met (by rw [hl])).of_met hevent.told.kept.met

/-! ### Blocks without work -/

theorem foldl_fixed {α β : Type} (f : β → α → β) (b : β) (l : List α) (h : ∀ a ∈ l, f b a = b) : l.foldl f b = b := by
  induction l with
  | nil => rfl
  | cons a l ih =>
    rw [List.foldl_cons, h a List.mem_cons_self]
    exact ih fun x hx => h x (List.mem_cons_of_mem a hx)

theorem sealApply_of_none {s : State} (h : s.lgl.pending = none) : sealApply s = s := by
  unfold sealApply
  rw [h]

theorem breakProcess_of_none {s : State} (h : s.bkd.breakLatch = none) : breakProcess s = s := by
  unfold breakProcess
  rw [h]

theorem head_of_none {s : State} (h : s.ply.heads = []) (p : Nat) : head s p = {} := by simp [head, h, tget]

theorem applyDelays_of_no_heads {s : State} (h : s.ply.heads = []) (n : Nat) : applyDelays s n = s :=
  foldl_fixed _ _ _ fun p _ => by simp [head_of_none h]

/-- An MP without outputs has no cycle to evaluate (R189). -/
theorem noLoadAll_of_no_outputs {s : State} {m : Nat} (h : mpOf s m = {}) (fuel : Nat) : noLoadAll fuel s m = s := by
  cases fuel <;> simp [noLoadAll, h]

theorem presentMps_of_slu {s t : State} (h : t.slu = s.slu) : presentMps t = presentMps s := by
  simp only [presentMps, mpAbsent, mpType, mpField, cfg, cfgBytes, h]

theorem sectionField_of_slu {s t : State} (h : t.slu = s.slu) (k off n : Nat) : sectionField t k off n = sectionField s k off n := by
  simp only [sectionField, cfg, cfgBytes, h]

/-- The incomer has nothing to book into the reconciliation sums (R204). -/
theorem takeDone_incomer {s : State} (h : IncomerOnly s) : Metered s (takeDone s) ∧ IncomerOnly (takeDone s) := by
  obtain ⟨x, hmps, hdone, hheld⟩ := h
  have htake : takeDone s = setMp s 256 { x with done := [] } := by
    simp [takeDone, hmps, hdone, mpOf, tget]
  rw [htake]
  exact ⟨setMp_metered _ _ _, _, setMp_of_single hmps _, rfl, hheld⟩

theorem settleRuns_incomer {s : State} (h : IncomerOnly s) : settleRuns s 256 = s := by
  obtain ⟨x, hmps, -, hheld⟩ := h
  simp [settleRuns, mpOf_of_single hmps, hheld]

theorem reconAll_of_no_sections {s : State} (h : ∀ k, k < 8 → sectionField s k 0 2 = 0xFFFF) : reconAll s = s :=
  foldl_fixed _ _ _ fun k hk => by
    have hlt : k < 8 := by
      have hspan : ∀ j ∈ span 0 8, j < 8 := by decide
      exact hspan k hk
    simp [h k hlt]

theorem senseAll_of_no_sections {s : State} (hheads : s.ply.heads = []) (h : ∀ k, k < 8 → sectionField s k 0 2 = 0xFFFF) :
    senseAll s = s :=
  foldl_fixed _ _ _ fun k hk => by
    have hlt : k < 8 := by
      have hspan : ∀ j ∈ span 0 8, j < 8 := by decide
      exact hspan k hk
    have hnone : sectionHeads s k = [] := by simp [sectionHeads, head_of_none hheads]
    simp [hnone, h k hlt]

/-- A ladder area that no succession has used has its first pair of blocks ahead (R370). -/
theorem ladderReclaim_of_unused {s : State} (hnext : s.cis.ladNext = []) (hfirst : s.cis.ladFirst = []) (part : Nat) :
    ladderReclaim s part = s := by
  have hroom : 1 < ladPairs part := by
    unfold ladPairs
    split_ifs <;> decide
  simp [ladderReclaim, hnext, hfirst, tget, hroom]

theorem relaysUnknown_of_none {s : State} (h : s.crd.relays = []) : relaysUnknown s = s := by
  simp [relaysUnknown, h]

/-- What `bare` and the premises of O30 say of the blocks the meter's work asks: none has anything to do but the incomer. -/
structure Quiet (s : State) : Prop where
  present : presentMps s = [256]
  mps : s.met.mps = []
  heads : s.ply.heads = []
  relays : s.crd.relays = []
  pending : s.lgl.pending = none
  breakLatch : s.bkd.breakLatch = none
  sections : ∀ k, k < 8 → sectionField s k 0 2 = 0xFFFF
  ladNext : s.cis.ladNext = []
  ladFirst : s.cis.ladFirst = []

/-- The incomer's work at a boundary: registers, rollovers and the cycles it has released (R191, R194, R204). -/
def incomerWork (s : State) : State := takeDone (rollovers (commitMp s 256) 256)

theorem incomerWork_metered {s : State} (h : s.met.mps = []) : Metered s (incomerWork s) ∧ IncomerOnly (incomerWork s) := by
  obtain ⟨hcommit, honly⟩ := commitMp_metered h
  obtain ⟨hroll, honly⟩ := rollovers_metered honly
  obtain ⟨hdone, honly⟩ := takeDone_incomer honly
  exact ⟨(hcommit.trans hroll).trans hdone, honly⟩

/-- In a quiet hub every part of the meter's work but the incomer's has nothing to do. -/
theorem meterWork_of_quiet {s : State} (h : Quiet s) : meterWork s = incomerWork (freeCues s) := by
  have hmps : (freeCues s).met.mps = [] := h.mps
  have hmp : ∀ m, mpOf (freeCues s) m = {} := fun m => by simp [mpOf, hmps, tget]
  have hlegal : applyDelays (breakProcess (sealApply (freeCues s))) (nowCycle s) = freeCues s := by
    rw [sealApply_of_none (s := freeCues s) h.pending, breakProcess_of_none (s := freeCues s) h.breakLatch,
      applyDelays_of_no_heads (s := freeCues s) h.heads]
  have hload : noLoadAll 64 (freeCues s) 256 = freeCues s := noLoadAll_of_no_outputs (hmp 256) 64
  have hpresent : presentMps (freeCues s) = [256] := h.present
  obtain ⟨hcommit, honly⟩ := commitMp_metered hmps
  obtain ⟨hroll, honly⟩ := rollovers_metered honly
  have hpresent' : presentMps (rollovers (commitMp (freeCues s) 256) 256) = [256] :=
    (presentMps_of_slu (hcommit.trans hroll).slu).trans hpresent
  obtain ⟨hwork, hlast⟩ := incomerWork_metered hmps
  have hsections : ∀ k, k < 8 → sectionField (incomerWork (freeCues s)) k 0 2 = 0xFFFF := fun k hk =>
    (sectionField_of_slu hwork.slu k 0 2).trans (h.sections k hk)
  have hladders : [0, 1, 2].foldl ladderReclaim (incomerWork (freeCues s)) = incomerWork (freeCues s) :=
    foldl_fixed _ _ _ fun part _ => ladderReclaim_of_unused (hwork.lads.1.trans h.ladNext) (hwork.lads.2.trans h.ladFirst) part
  unfold meterWork
  simp only [hlegal, hload, hpresent, hpresent', List.foldl_cons, List.foldl_nil]
  rw [show takeDone (rollovers (commitMp (freeCues s) 256) 256) = incomerWork (freeCues s) from rfl, settleRuns_incomer hlast,
    reconAll_of_no_sections hsections, senseAll_of_no_sections (by rw [hwork.ply]; exact h.heads) hsections]
  exact (congrArg relaysUnknown hladders).trans (relaysUnknown_of_none (by rw [hwork.crd]; exact h.relays))

theorem meterWork_metered {s : State} (h : Quiet s) : Metered (freeCues s) (meterWork s) := by
  rw [meterWork_of_quiet h]
  exact (incomerWork_metered (s := freeCues s) h.mps).1

/-- The work before the meter's leaves a quiet hub quiet. -/
theorem Quiet.beside {s t : State} (h : Quiet s) (g : Beside s t) : Quiet t where
  present := (presentMps_of_slu g.slu).trans h.present
  mps := by rw [g.met]; exact h.mps
  heads := by rw [g.ply]; exact h.heads
  relays := by rw [g.crd]; exact h.relays
  pending := by rw [g.lgl]; exact h.pending
  breakLatch := by rw [g.bkd]; exact h.breakLatch
  sections := fun k hk => (sectionField_of_slu g.slu k 0 2).trans (h.sections k hk)
  ladNext := by rw [g.cis]; exact h.ladNext
  ladFirst := by rw [g.cis]; exact h.ladFirst

/-! ### A numbered boundary -/

/-- The boundary that takes number `n` without a forward step, up to its anchor and the legal engine's check. -/
def anchored (s : State) (o : BoundaryObs) (n : Nat) : State :=
  syncOutBoundary (legalBoundary (writeAnchor (logBoundary (placed s o n) s false)) s)

/-- A clock block that has taken number `n` at the tick and the frame of `s`, with the boundary as the log's newest entry. -/
structure TookNumber (s : State) (o : BoundaryObs) (n : Nat) (l : Clk) : Prop where
  cycle : l.cycle = some n
  tick : l.tick = s.bkd.tick
  frame : l.frame = s.ply.frame
  state : l.state = nextClock (track s o).1 o
  newest : l.log.head?.map (fun e => (e.cycle, e.ticks)) = some (n, s.bkd.tick)

/-- The anchored boundary: the clock block has the number, the anchor slot that is due is written, and the rest is as it was. -/
theorem anchored_beside {s : State} {o : BoundaryObs} {c : Nat} (hmember : s.ril.member = false) (hcycle : s.clk.cycle = some c)
    (hcheck : (c + 1) % 1048576 ≠ 0) :
    ∃ (i : Cis) (l : Clk), i.ladNext = s.cis.ladNext ∧ i.ladFirst = s.cis.ladFirst ∧ TookNumber s o (c + 1) l ∧
      Beside (writeAnchor { s with clk := l, cis := i }) (anchored s o (c + 1)) := by
  have hplaced := placed_beside o (c + 1) hmember
  obtain ⟨hn, htick, hframe⟩ := placedClk_place s o (c + 1)
  have hclk : (placed s o (c + 1)).clk = placedClk s o (c + 1) := hplaced.clk
  obtain ⟨i, l, hnext, hfirst, lcycle, ltick, lframe, lstate, lnewest, hlogged⟩ := logBoundary_beside (placed s o (c + 1)) s false
  have hanchor := writeAnchor_beside (((hplaced.withClk l).withCis i).trans hlogged)
  have hcyc : l.cycle = some (c + 1) := by rw [lcycle, hclk, hn]
  have hlegal := legalBoundary_between hcycle (by rw [hanchor.clk]; exact hcyc) hcheck
  refine ⟨i, l, by rw [hnext, hplaced.cis], by rw [hfirst, hplaced.cis], ⟨hcyc, ?_, ?_, ?_, ?_⟩, ?_⟩
  · rw [ltick, hclk, htick]
  · rw [lframe, hclk, hframe]
  · rw [lstate, hclk, placedClk_state]
  · rw [lnewest, nowCycle, hclk, hn, htick]
    rfl
  · unfold anchored
    rw [hlegal]
    exact hanchor.trans (syncOutBoundary_beside _)

/-- Once metering has resumed, the meter's work follows the anchor; with the service cores down nothing else does. -/
theorem numberedBoundary_eq {s : State} {o : BoundaryObs} {n c : Nat} (hcycle : s.clk.cycle = some c)
    (hdown : (meterWork (anchored s o n)).pwr.serviceDown = true) :
    numberedBoundary s o n false = meterWork (anchored s o n) := by
  unfold numberedBoundary serviceWork
  simp only [hcycle, Option.isNone_some, Bool.false_eq_true, if_false]
  exact if_pos hdown

/-- What `bare` says. -/
theorem bare_parts {s : State} (h : bare s = true) :
    calm s = true ∧ s.lgl.halt = false ∧ presentMps s = [256] ∧ s.ply.heads = [] ∧ s.crd.relays = [] ∧ s.met.mps = [] := by
  unfold bare at h
  simp only [Bool.and_eq_true, Bool.not_eq_true', beq_iff_eq] at h
  obtain ⟨⟨⟨⟨⟨⟨⟨⟨⟨⟨hcalm, hhalt⟩, hpresent⟩, hheads⟩, -⟩, -⟩, -⟩, hrelays⟩, -⟩, -⟩, hmps⟩ := h
  exact ⟨hcalm, hhalt, hpresent, hheads, hrelays, hmps⟩

section
variable {s : State} {o : BoundaryObs} {c : Nat} (hcalm : calm s = true) (hquiet : Quiet s) (hcycle : s.clk.cycle = some c)
  (hdown : s.pwr.serviceDown = true) (hmember : s.ril.member = false) (hcheck : (c + 1) % 1048576 ≠ 0)

include hcalm hquiet hcycle hdown hmember hcheck in
/-- The whole step of a numbered boundary: the number, and the anchor slot that was due. -/
theorem numberedBoundary_step :
    ∃ (t : State) (l : Clk), (whenRunning s fun s => numberedBoundary s o (c + 1) false) = t ∧ TookNumber s o (c + 1) l ∧
      t.clk = { l with cues := t.clk.cues } ∧ t.bkd.ret.anchorA = (writeAnchor { s with clk := l }).bkd.ret.anchorA ∧
      t.bkd.ret.anchorB = (writeAnchor { s with clk := l }).bkd.ret.anchorB := by
  obtain ⟨i, l, hnext, hfirst, htook, hanchored⟩ := anchored_beside (o := o) hmember hcycle hcheck
  have hready : Quiet (writeAnchor { s with clk := l, cis := i }) :=
    ⟨hquiet.present, hquiet.mps, hquiet.heads, hquiet.relays, hquiet.pending, hquiet.breakLatch, hquiet.sections,
      hnext.trans hquiet.ladNext, hfirst.trans hquiet.ladFirst⟩
  have hmeter := meterWork_metered (hready.beside hanchored)
  have hpwr : (meterWork (anchored s o (c + 1))).pwr = (anchored s o (c + 1)).pwr := hmeter.pwr
  have hwork := numberedBoundary_eq (o := o) (n := c + 1) hcycle (hpwr ▸ hanchored.down hdown)
  have hstep := (whenRunning_told_of_calm (fun s => numberedBoundary s o (c + 1) false) hcalm
    (by simp only [hwork]; rw [hpwr]; exact hanchored.inReset)
    (by simp only [hwork]; exact (dom_congr hmeter.doms 6).trans hanchored.archiveDom)).kept
  have hclk : (whenRunning s fun s => numberedBoundary s o (c + 1) false).clk = (freeCues (anchored s o (c + 1))).clk :=
    (hstep.clk.trans (congrArg State.clk hwork)).trans hmeter.clk
  have hbkd := hstep.bkd.trans (congrArg State.bkd hwork)
  obtain ⟨hslotA, hslotB⟩ := hmeter.anchors
  refine ⟨_, l, rfl, htook, ?_, ?_, ?_⟩
  · rw [hclk]
    rw [← show (anchored s o (c + 1)).clk = l from hanchored.clk]
    rfl
  · rw [hbkd, hslotA]
    exact congrArg (fun b : Bkd => b.ret.anchorA) hanchored.bkd
  · rw [hbkd, hslotB]
    exact congrArg (fun b : Bkd => b.ret.anchorB) hanchored.bkd

end

/-! ### The obligation -/

/-- Settles O30: without a number only the tracker, its INFO events and the clock work; with one, the boundary is placed, logged
and anchored before a quiet hub's meter does the incomer's work. -/
theorem aBoundaryNumbersTheCycle : Obligations.ABoundaryNumbersTheCycle := by
  intro s o
  refine ⟨exec_cycleBoundary_unnumbered, ?_⟩
  intro c hbare hnumbering hcycle hdown hmember hjoined hsteps hpending hbreak hladNext hladFirst _ hcheck hsections
  obtain ⟨hcalm, hhalt, hpresent, hheads, hrelays, hmps⟩ := bare_parts hbare
  have hquiet : Quiet s := ⟨hpresent, hmps, hheads, hrelays, hpending, hbreak, hsections, hladNext, hladFirst⟩
  have hexec : exec (.cycleBoundary o) s = .next (whenRunning s fun s => numberedBoundary s o (c + 1) false) := by
    show execCycleBoundary o s = _
    unfold execCycleBoundary whenRunning
    have hnumbered : (s.clk.numbering && !s.lgl.halt) = true := by simp [hnumbering, hhalt]
    simp only [if_pos hnumbered, boundaryNumber_natural hcycle hmember hjoined hsteps]
  obtain ⟨t, l, ht, htook, hclk, hslotA, hslotB⟩ := numberedBoundary_step (o := o) hcalm hquiet hcycle hdown hmember hcheck
  obtain ⟨hnumber, htick, hgood⟩ := writeAnchor_due { s with clk := l }
  have hnow : nowCycle { s with clk := l } = c + 1 := by simp [nowCycle, htook.cycle]
  refine ⟨t, ht ▸ hexec, ?_, ?_, ?_, ?_, ?_, ?_, ?_, ?_⟩
  · rw [hclk]; exact htook.cycle
  · rw [hclk]; exact htook.tick
  · rw [hclk]; exact htook.frame
  · rw [hclk]; exact htook.state
  · rw [hclk]; exact htook.newest
  · rw [hslotA, hslotB]; exact hnumber.trans hnow
  · rw [hslotA, hslotB]; exact htick.trans htook.tick
  · rw [hslotA, hslotB]; exact hgood

end Sys2Proof.Proofs
end

section
/-!
The start (R39, R60, R193, R541, R564, R568).  Every step of Table PWR.5 carries the same few facts of the hub along, its course;
a clean start changes of them only the straps in force, which it takes, and the run ladder, which it steps.
-/
namespace Sys2Proof.Proofs

open Sys2Proof.Machine Sys2Proof.Laws

/-! ### What start-up carries from step to step -/

/-- The part of the reset controller, the clock, the backup domain, the cascade and the flash that start-up reads again after a
step, or that stands when it ends. -/
structure Course where
  inReset : Bool
  started : Bool
  t0 : Nat
  cause : Nat
  commit : Option (Nat × Nat × Nat)
  clk : Clk
  slu : Slu
  chains : Tbl Chain
  tick : Nat
  valid : Bool
  anchors : Anchor × Anchor
  res : Tbl (List Nat)
  causes : Nat × Nat
  switches : Nat × Nat
  breakLatch : Option Nat
  pins : Bool × Nat
  straps : Bool × Nat
  run : Ladder
  tailFull : Bool
  batch : List Raised

def course (s : State) : Course where
  inReset := s.pwr.inReset
  started := s.pwr.started
  t0 := s.pwr.t0
  cause := s.pwr.last.cause
  commit := s.pwr.last.commit
  clk := s.clk
  slu := s.slu
  chains := s.cus.chains
  tick := s.bkd.tick
  valid := s.bkd.ret.valid
  anchors := (s.bkd.ret.anchorA, s.bkd.ret.anchorB)
  res := s.bkd.ret.res
  causes := (s.bkd.causes, s.bkd.causesShut)
  switches := (s.bkd.swCount, s.bkd.countShut)
  breakLatch := s.bkd.breakLatch
  pins := (s.ril.pinEn, s.ril.pinId)
  straps := (s.ril.cascEn, s.ril.cascId)
  run := ladder s (ladderKey 0 runLid)
  tailFull := s.cis.tailFull
  batch := s.ev.batch

/-- `t` has the course of `s`, the fault domain `k` as it was, and the same read-only partitions of the flash. -/
structure Steady (k : Nat) (s t : State) : Prop where
  course : course t = course s
  dom : dom t k = dom s k
  readOnly : t.cis.readOnly = s.cis.readOnly

theorem Steady.refl (k : Nat) (s : State) : Steady k s s := ⟨rfl, rfl, rfl⟩

theorem Steady.trans {k : Nat} {s t u : State} (h : Steady k s t) (g : Steady k t u) : Steady k s u :=
  ⟨g.course.trans h.course, g.dom.trans h.dom, g.readOnly.trans h.readOnly⟩

theorem Steady.ite {k : Nat} {s t u : State} {c : Prop} [Decidable c] (ht : Steady k s t) (hu : Steady k s u) :
    Steady k s (if c then t else u) := by
  split
  · exact ht
  · exact hu

/-- A fold whose every step is steady as long as the course has the property `P`. -/
theorem Steady.foldl {k : Nat} {α : Type} {P : Course → Prop} {f : State → α → State} {l : List α}
    (hf : ∀ a ∈ l, ∀ s, P (Proofs.course s) → Steady k s (f s a)) {s : State} (hs : P (Proofs.course s)) :
    Steady k s (l.foldl f s) := by
  induction l generalizing s with
  | nil => exact .refl k s
  | cons a l ih =>
    obtain ⟨ha, hl⟩ := List.forall_mem_cons.mp hf
    have hstep := ha s hs
    exact hstep.trans (ih hl (hstep.course ▸ hs))

theorem Steady.clk {k : Nat} {s t : State} (h : Steady k s t) : t.clk = s.clk := congrArg Course.clk h.course

theorem course_of_kept {s t : State} (h : Kept s t) (hcis : t.cis = s.cis) (hbatch : t.ev.batch = s.ev.batch) :
    course t = course s := by
  simp only [Proofs.course, ladder, h.pwr, h.clk, h.slu, h.cus, h.bkd, h.ril, hcis, hbatch]

/-! ### Events before the first numbered boundary (R617) -/

/-- Before the first numbered boundary a record waits for its stamp: it joins no batch. -/
theorem record_batch {s : State} (h : s.clk.cycle = none) (e : EvReq) (sev k depth rflags : Nat) :
    (record s e sev k depth rflags).ev.batch = s.ev.batch := by
  have hclk : (spanNow s).clk = s.clk := (spanNow_kept s).clk
  have hspan : (spanNow s).ev.batch = s.ev.batch := by
    unfold spanNow
    split <;> rfl
  unfold record
  extract_lets s0 n ev1 s1 r
  have hcycle : s1.clk.cycle.isNone = true := by
    show (spanNow s).clk.cycle.isNone = true
    rw [hclk, h]
    rfl
  rw [if_pos hcycle]
  split <;> exact hspan

theorem raise_batch {s : State} {e : EvReq} (h : s.clk.cycle = none) (hroom : roomy s (faultDomain e) = true) :
    (raise s e).ev.batch = s.ev.batch := by
  unfold raise
  extract_lets sev k p e1 s1 s2 v3 s3
  have hp : ∀ c, p ≠ .escalate c := fun c => placeFault_roomy s k sev c e.nested hroom
  have hcounted : s3.ev.batch = s.ev.batch := record_batch h e1 sev k _ 0
  split
  · exact record_batch h _ _ _ _ _
  · clear_value s3 p
    cases p
    case escalate c => exact absurd rfl (hp c)
    all_goals exact hcounted

theorem raise_info_steady (k : Nat) {s : State} {e : EvReq} (h : severity e.id e.star = 0) (hcycle : s.clk.cycle = none) :
    Steady k s (raise s e) := by
  have hnoted := raise_info_noted (s := s) h
  have hbatch : (raise s e).ev.batch = s.ev.batch := by
    rw [raise_of_info h]
    exact record_batch hcycle _ _ _ _ _
  exact ⟨course_of_kept hnoted.told.kept hnoted.cis hbatch, dom_congr hnoted.doms k, by rw [hnoted.cis]⟩

/-- A fault that finds room in its domain leaves the course as it is. -/
theorem raise_course {s : State} {e : EvReq} (hcycle : s.clk.cycle = none) (hroom : roomy s (faultDomain e) = true) :
    course (raise s e) = course s :=
  course_of_kept (raise_kept s e hroom) (raise_io s e hroom).cis (raise_batch hcycle hroom)

theorem raise_fault_steady {k : Nat} {s : State} {e : EvReq} (hcycle : s.clk.cycle = none)
    (hroom : roomy s (faultDomain e) = true) (hk : k ≠ faultDomain e) : Steady k s (raise s e) :=
  ⟨raise_course hcycle hroom, raise_dom_ne hroom hk, by rw [(raise_io s e hroom).cis]⟩

theorem tamper_steady (k : Nat) {s : State} (m typ : Nat) (hcycle : s.clk.cycle = none) : Steady k s (tamper s m typ) := by
  unfold tamper tamperAt
  extract_lets key r f0 f1 f2 f3 f4 r1 fresh ev1 s1
  have hcount : Steady k s s1 := Steady.ite ⟨rfl, rfl, rfl⟩ ⟨rfl, rfl, rfl⟩
  exact hcount.trans (raise_info_steady k rfl (hcount.clk ▸ hcycle))

theorem legalLog_steady (k : Nat) (s : State) (typ flags mp : Nat) (data : Bytes) :
    Steady k s (legalLog s typ flags mp data) := by
  obtain ⟨l, hl⟩ := legalLog_eq s typ flags mp data
  rw [hl]
  exact ⟨rfl, rfl, rfl⟩

theorem uartLine_steady (k : Nat) (s : State) (step : Nat) (ok : Bool) : Steady k s (uartLine s step ok) := ⟨rfl, rfl, rfl⟩

theorem setMp_steady (k : Nat) (s : State) (m : Nat) (x : Mp) : Steady k s (setMp s m x) := ⟨rfl, rfl, rfl⟩

/-! ### Ladders (R365, R368) -/

/-- The flash with other ladders and other next places of their areas. -/
def withLadders (s : State) (l : Tbl Ladder) (n : Tbl Nat) : State := { s with cis := { s.cis with ladders := l, ladNext := n } }

theorem ladder_setLadder (s : State) (k : Nat) (l : Ladder) : ladder (setLadder s k l) k = l := tget_tput_self _ _ _ _

theorem ladder_setLadder_ne (s : State) {k j : Nat} (l : Ladder) (h : j ≠ k) : ladder (setLadder s k l) j = ladder s j :=
  tget_tput_ne _ _ _ _ _ h

theorem ladder_succeed (s : State) (k : Nat) (park : Bool) :
    ladder (succeed s k park) k = { ladder s k with
      lgen := (ladder s k).lgen + 1, base := ladderValue s k, f := 0, parked := park, weak := 0,
      place := ladPlace s (k / 65536) park } := ladder_setLadder _ _ _

theorem ladder_succeed_ne (s : State) {k j : Nat} (park : Bool) (h : j ≠ k) : ladder (succeed s k park) j = ladder s j :=
  ladder_setLadder_ne _ _ h

/-- `t` is `s` but for the ladder area of the flash, and there every ladder but `k` reads as it did. -/
def OnLadder (k : Nat) (s t : State) : Prop :=
  (∃ l n, t = withLadders s l n) ∧ ∀ j, j ≠ k → ladder t j = ladder s j

theorem OnLadder.trans {k : Nat} {s t u : State} (h : OnLadder k s t) (g : OnLadder k t u) : OnLadder k s u := by
  obtain ⟨⟨l, n, rfl⟩, hl⟩ := h
  obtain ⟨⟨l', n', rfl⟩, hl'⟩ := g
  exact ⟨⟨l', n', rfl⟩, fun j hj => (hl' j hj).trans (hl j hj)⟩

theorem setLadder_onLadder (s : State) (k : Nat) (l : Ladder) : OnLadder k s (setLadder s k l) :=
  ⟨⟨_, _, rfl⟩, fun _ => ladder_setLadder_ne s l⟩

theorem succeed_onLadder (s : State) (k : Nat) (park : Bool) : OnLadder k s (succeed s k park) :=
  ⟨⟨_, _, rfl⟩, fun _ => ladder_succeed_ne s park⟩

/-- What a step leaves where a generation is at hand: the ladder area changes, and the value rises by 1. -/
theorem stepLadder_spec {s : State} {k : Nat} (hwrite : s.cis.readOnly.contains (k / 65536) = false)
    (hgen : (ladder s k).lgen < 0xFFFFFD) :
    OnLadder k s (stepLadder s k) ∧ ladderValue (stepLadder s k) k = ladderValue s k + 1 := by
  unfold stepLadder
  extract_lets l full s1 l1 s2
  have hroom : ¬ (full && decide (0xFFFFFE ≤ l.lgen)) = true := by
    have hlgen : ¬ 0xFFFFFE ≤ l.lgen := by
      show ¬ 0xFFFFFE ≤ (ladder s k).lgen
      omega
    simp [hlgen]
  have hopen : OnLadder k s s1 ∧ ladderValue s1 k = ladderValue s k ∧ l1.parked = false ∧ l1.lgen < 0xFFFFFE := by
    by_cases hfull : full = true
    · have hs1 : s1 = succeed s k false := if_pos hfull
      have hl1 : l1 = ladder (succeed s k false) k := by rw [← hs1]
      rw [hs1, hl1, ladderValue, ladder_succeed]
      refine ⟨succeed_onLadder s k false, rfl, rfl, ?_⟩
      show (ladder s k).lgen + 1 < 0xFFFFFE
      omega
    · have hs1 : s1 = s := if_neg hfull
      have hl1 : l1 = ladder s k := by rw [← hs1]
      have hparked : (ladder s k).parked = false := by
        by_contra h
        exact hfull (by simp [full, l, Bool.eq_true_of_not_eq_false h])
      rw [hs1, hl1]
      exact ⟨⟨⟨_, _, rfl⟩, fun _ _ => rfl⟩, rfl, hparked, by omega⟩
  obtain ⟨hon, hvalue, hparked, hgen1⟩ := hopen
  have hstep : OnLadder k s s2 := hon.trans (setLadder_onLadder s1 k _)
  have hvalue2 : ladderValue s2 k = ladderValue s k + 1 := by
    have hnow : ladderValue s1 k = l1.base + if l1.parked then 0 else l1.f := rfl
    rw [← hvalue, hnow, ladderValue, ladder_setLadder, hparked]
    rfl
  rw [if_neg (by rw [hwrite]; exact Bool.false_ne_true), if_neg hroom]
  split
  · exact ⟨hstep, hvalue2⟩
  · rw [if_neg (by omega)]
    refine ⟨hstep.trans (succeed_onLadder s2 k false), ?_⟩
    rw [ladderValue, ladder_succeed]
    exact hvalue2

theorem OnLadder.steady {k j : Nat} {s t : State} (h : OnLadder j s t) (hj : ladderKey 0 runLid ≠ j) : Steady k s t := by
  obtain ⟨⟨l, n, rfl⟩, hl⟩ := h
  refine ⟨?_, rfl, rfl⟩
  show { course s with run := ladder (withLadders s l n) (ladderKey 0 runLid) } = course s
  rw [hl _ hj]
  rfl

/-! ### Step 3: the ring is trained (R104) -/

/-- Before the first numbered boundary no cycle has a number. -/
def Course.numberless (c : Course) : Prop := c.clk.cycle = none

theorem setHeadState_steady (k : Nat) {s : State} (p : Nat) (st : HeadState) (cause : Nat) (hcycle : s.clk.cycle = none) :
    Steady k s (setHeadState s p st cause) := by
  unfold setHeadState
  extract_lets h h1
  refine Steady.ite (.refl k s) ?_
  have hset : Steady k s (setHead s p h1) := ⟨rfl, rfl, rfl⟩
  exact hset.trans (raise_info_steady k rfl hcycle)

theorem sendShort_steady (k : Nat) (s : State) (p typ : Nat) (payload : Bytes) : Steady k s (sendShort s p typ payload) :=
  ⟨rfl, rfl, rfl⟩

theorem withPly_steady (k : Nat) (s : State) (p : Ply) : Steady k s { s with ply := p } := ⟨rfl, rfl, rfl⟩

theorem trainRing_steady {k : Nat} {s : State} (obs : TrainObs) (hk : k ≠ 2) (hcycle : s.clk.cycle = none)
    (hidle : (dom s 2).state = .idle) : Steady k s (trainRing s obs) := by
  unfold trainRing
  extract_lets base s0 ply1 s1 s2 ply3 s3 s4
  have habsent : ∀ j, Steady j s s1 := by
    intro j
    have hheads : Steady j s s0 := Steady.foldl (P := Course.numberless)
      (fun p _ a ha => .ite (.refl j a) (setHeadState_steady j p .absent 7 ha)) hcycle
    exact hheads.trans (withPly_steady j s0 _)
  have hcycle1 : s1.clk.cycle = none := (congrArg Clk.cycle (habsent 2).clk).trans hcycle
  have hroom : roomy s1 2 = true := roomy_of_idle ((congrArg Dom.state (habsent 2).dom).trans hidle)
  have hlong : ∀ e, faultDomain e = 2 → Steady k s1 (raise s1 e) :=
    fun e h => raise_fault_steady hcycle1 (h ▸ hroom) (h ▸ hk)
  refine (habsent k).trans (.ite ?_ ?_)
  · exact hlong _ (by simp [faultDomain, defaultDomain])
  have hhops : Steady k s1 s2 := by
    refine .ite ?_ (.refl k s1)
    exact hlong _ (by simp [faultDomain, defaultDomain])
  have hsent : Steady k s2 s4 := ⟨rfl, rfl, rfl⟩
  refine (hhops.trans hsent).trans (Steady.foldl (P := fun _ => True) (fun p _ a _ => ?_) trivial)
  exact (sendShort_steady k a p 7 [0]).trans (sendShort_steady k _ p 6 [])

/-! ### Step 4: the archive (R373, R374) -/

/-- Where the headers, the ladders and the journal read good, the archive closes its open page and goes on behind it. -/
theorem archiveStart_of_clean {s : State} (hjournal : s.cis.journal = []) :
    archiveStart s {} = { closeCustodyPage s with cis := { (closeCustodyPage s).cis with
      nextAseq := (highestAseq (closeCustodyPage s) / 65536 + 1) * 65536 } } := by
  have hintents : recoverIntents s = s := by simp [recoverIntents, hjournal]
  have hrecover : ∀ a k, ladderRecover a {} k = a := by simp [ladderRecover]
  unfold archiveStart
  rw [hintents]
  simp only [hrecover, List.foldl_nil]
  rw [foldl_fixed _ _ _ fun _ _ => rfl]

/-! ### Step 5: the key store (R343, R347, R349) -/

/-- The counters of a slot restart where its generation signs or transmits. -/
def restartSlot (s : State) (k : Nat) : State :=
  if !(keySlot s k).valid then s
  else if signKind k then ctrRestart s k
  else if slotKind k = some 9 then ctrRestart s (512 + k) else s

theorem restartCounters_eq (s : State) : restartCounters s = (span 0 512).foldl restartSlot s := rfl

/-- The counter ladder of a key, and of a radio key's downlink, can step. -/
def CounterOpen (s : State) (k : Nat) : Prop :=
  (ladder s (ctrLadder k)).lgen < 0xFFFFFD ∧ (ladder s (ctrLadder (512 + k))).lgen < 0xFFFFFD

theorem ctrLadder_inj {i j : Nat} : ctrLadder i = ctrLadder j ↔ i = j := by
  unfold ctrLadder ladderKey
  omega

theorem ctrRestart_spec {s : State} {i : Nat} (k : Nat) (hopen : (ladder s (ctrLadder i)).lgen < 0xFFFFFD)
    (hwrite : s.cis.readOnly = []) :
    Steady k s (ctrRestart s i) ∧ ∀ j, j ≠ i → ladder (ctrRestart s i) (ctrLadder j) = ladder s (ctrLadder j) := by
  have hon := (stepLadder_spec (s := s) (k := ctrLadder i) (by simp [hwrite]) hopen).1
  have hrun : ladderKey 0 runLid ≠ ctrLadder i := by
    unfold ctrLadder ladderKey runLid
    omega
  exact ⟨(hon.steady hrun).trans ⟨rfl, rfl, rfl⟩, fun j hj => hon.2 _ (mt ctrLadder_inj.mp hj)⟩

theorem restartSlot_spec {s : State} {i : Nat} (k : Nat) (hopen : CounterOpen s i) (hi : i < 512) (hwrite : s.cis.readOnly = []) :
    Steady k s (restartSlot s i) ∧ ∀ j, j < 512 → j ≠ i → CounterOpen s j → CounterOpen (restartSlot s i) j := by
  have hsame : Steady k s s ∧ ∀ j, j < 512 → j ≠ i → CounterOpen s j → CounterOpen s j := ⟨.refl k s, fun _ _ _ h => h⟩
  have hone : ∀ x, x = i ∨ x = 512 + i → Steady k s (ctrRestart s x) ∧
      ∀ j, j < 512 → j ≠ i → CounterOpen s j → CounterOpen (ctrRestart s x) j := by
    intro x hx
    have hgen : (ladder s (ctrLadder x)).lgen < 0xFFFFFD := by
      rcases hx with rfl | rfl
      · exact hopen.1
      · exact hopen.2
    obtain ⟨hsteady, hothers⟩ := ctrRestart_spec k hgen hwrite
    refine ⟨hsteady, fun j hj hne h => ?_⟩
    unfold CounterOpen
    rw [hothers j (by omega), hothers (512 + j) (by omega)]
    exact h
  unfold restartSlot
  split
  · exact hsame
  · split
    · exact hone i (.inl rfl)
    · split
      · exact hone (512 + i) (.inr rfl)
      · exact hsame

theorem foldl_restartSlot_steady (k : Nat) {l : List Nat} (hnodup : l.Nodup) {s : State} (hsmall : ∀ i ∈ l, i < 512)
    (hopen : ∀ i ∈ l, CounterOpen s i) (hwrite : s.cis.readOnly = []) : Steady k s (l.foldl restartSlot s) := by
  induction l generalizing s with
  | nil => exact .refl k s
  | cons i l ih =>
    obtain ⟨hi, hl⟩ := List.forall_mem_cons.mp hsmall
    obtain ⟨hopeni, hopenl⟩ := List.forall_mem_cons.mp hopen
    obtain ⟨hnew, hnodupl⟩ := List.nodup_cons.mp hnodup
    obtain ⟨hstep, hkeep⟩ := restartSlot_spec k hopeni hi hwrite
    refine hstep.trans (ih hnodupl hl (fun j hj => ?_) (hstep.readOnly.trans hwrite))
    exact hkeep j (hl j hj) (fun h => hnew (h ▸ hj)) (hopenl j hj)

theorem span_eq_range' (a n : Nat) : span a n = List.range' a n := by
  induction n generalizing a with
  | zero => rfl
  | succ n ih => rw [span, ih, List.range'_succ]

theorem ladder_lgen_lt {s : State} (h : (s.cis.ladders.all fun p => decide (p.2.lgen < 0xFFFFFD)) = true) (k : Nat) :
    (ladder s k).lgen < 0xFFFFFD := by
  unfold ladder
  generalize s.cis.ladders = m at h
  induction m with
  | nil => exact Nat.zero_lt_succ _
  | cons p m ih =>
    obtain ⟨j, l⟩ := p
    rw [List.all_cons, Bool.and_eq_true, decide_eq_true_eq] at h
    unfold tget
    split
    · exact h.1
    · split
      · exact Nat.zero_lt_succ _
      · exact ih h.2

theorem drbgStart_steady (k : Nat) (s : State) : Steady k s (drbgStart s) := ⟨rfl, rfl, rfl⟩

theorem startKeys_steady (k : Nat) {s : State} {obs : StartObs} (hlost : obs.keysLost = []) (hgood : obs.entropyGood = true)
    (hwrites : s.key.writes = []) (hwrite : s.cis.readOnly = []) (hopen : ∀ j, (ladder s j).lgen < 0xFFFFFD) :
    Steady k s (startKeys s obs) := by
  unfold startKeys
  have hsettle : settleWrite s obs.cutRecord = { s with key := { s.key with writes := [] } } := by
    unfold settleWrite
    rw [hwrites]
  rw [hlost, hsettle, List.foldl_nil, restartCounters_eq]
  extract_lets key1 s1
  have hclear : Steady k s { s with key := { s.key with writes := [] } } := ⟨rfl, rfl, rfl⟩
  have hcounters : Steady k { s with key := { s.key with writes := [] } } s1 := by
    refine foldl_restartSlot_steady k ?_ ?_ (fun i _ => ⟨hopen _, hopen _⟩) hwrite
    · rw [span_eq_range']
      exact List.nodup_range' ..
    · intro i hi
      rw [span_eq_range', List.mem_range'_1] at hi
      omega
  rw [if_pos hgood]
  exact (hclear.trans hcounters).trans (drbgStart_steady k s1)

/-! ### Step 6: the radio and the cascade (R411, R541) -/

theorem enterHold_steady (k : Nat) {s : State} (band : Nat) (hcycle : s.clk.cycle = none) (hchains : s.cus.chains = []) :
    Steady k s (enterHold s band) := by
  unfold enterHold
  extract_lets s1
  have hset : Steady k s (setCmp s fun c => { c with hold := c.hold ++ [band] }) := ⟨rfl, rfl, rfl⟩
  have hevent : Steady k s s1 := hset.trans (raise_info_steady k rfl hcycle)
  have hgaps : holdGaps s1 true = s1 := by
    have hnone : s1.cus.chains = [] := (congrArg Course.chains hevent.course).trans hchains
    simp [holdGaps, openChains, hnone]
  rw [hgaps]
  exact .ite (.refl k s) (.ite hevent hevent)

theorem radioStart_steady (k : Nat) {s : State} (bad : List Nat) (hcycle : s.clk.cycle = none) (hchains : s.cus.chains = []) :
    Steady k s (radioStart s bad) := by
  unfold radioStart
  generalize objBand s = p
  obtain ⟨b, c, r⟩ := p
  dsimp -zeta only
  extract_lets m s1 full
  have hset : Steady k s s1 := ⟨rfl, rfl, rfl⟩
  exact .ite (hset.trans (enterHold_steady k b hcycle hchains)) hset

theorem newBoot_steady (k : Nat) (s : State) : Steady k s (newBoot s) := by
  unfold newBoot
  split
  · exact ⟨rfl, rfl, rfl⟩
  · exact .refl k s

/-- The straps in force become the levels of the pins (R541). -/
theorem cascadeStart_course (s : State) : course (cascadeStart s) = { course s with straps := (course s).pins } :=
  (newBoot_steady 0 _).course

theorem cascadeStart_flash (k : Nat) (s : State) : dom (cascadeStart s) k = dom s k ∧ (cascadeStart s).cis.readOnly = s.cis.readOnly :=
  have h := newBoot_steady k (setRil s fun r => { r with cascEn := r.pinEn, cascId := r.pinId })
  ⟨h.dom, h.readOnly⟩

/-! ### Step 7: the legal partition (R43, R85, R193, R245, R249) -/

/-- The value of a ladder (R365). -/
def valueOf (l : Ladder) : Nat := l.base + if l.parked then 0 else l.f

theorem runNumber_eq (s : State) : runNumber s = valueOf (course s).run := rfl

/-- A new run takes the next run number, and nothing else of the course moves (R249). -/
theorem startRun_spec (k : Nat) {s : State} (hwrite : s.cis.readOnly = []) (hgen : (ladder s (ladderKey 0 runLid)).lgen < 0xFFFFFD) :
    (∃ l, course (startRun s) = { course s with run := l } ∧ valueOf l = valueOf (course s).run + 1) ∧
      dom (startRun s) k = dom s k ∧ (startRun s).cis.readOnly = [] := by
  obtain ⟨⟨⟨l, n, hflash⟩, -⟩, hvalue⟩ := stepLadder_spec (s := s) (k := ladderKey 0 runLid) (by simp [hwrite]) hgen
  unfold startRun
  extract_lets s1
  have hs1 : s1 = withLadders s l n := hflash
  have hlog := legalLog_steady k s1 0x01 0 0xFFFF (le 4 (runNumber s1) ++ le 1 s1.pwr.last.cause)
  refine ⟨⟨ladder s1 (ladderKey 0 runLid), ?_, hvalue⟩, ?_, ?_⟩
  · rw [hlog.course, hs1]
    rfl
  · rw [hlog.dom, hs1]
    rfl
  · rw [hlog.readOnly, hs1]
    exact hwrite

/-- A course of a run that began with RESET_N, where nothing was lost: no number and no batch, no image of an object, no custody
chain, a good retention SRAM, and a backup domain that reports nothing new. -/
structure Course.Clean (c : Course) : Prop where
  cycle : c.clk.cycle = none
  cause : c.cause = 4
  commit : c.commit = none
  images : c.slu.images = []
  chains : c.chains = []
  valid : c.valid = true
  res : ∀ m ∈ span 0 257, ((tget (List.replicate 28 0) c.res m).all fun v => decide (v < commitQuantum)) = true
  causes : c.causes.1 = c.causes.2
  switches : c.switches.1 = c.switches.2
  breakLatch : c.breakLatch = none

theorem Course.Clean.of_eq {c d : Course} (h : c.Clean) (hd : d = c) : d.Clean := hd ▸ h

/-- A run that ended by RESET_N leaves no report of a power-fail commit or of the reference clock (R575, R580). -/
theorem reportCommit_steady (k : Nat) {s : State} (img : Option ResImage) (run : Nat) (h : (course s).Clean) :
    Steady k s (reportCommit s img run) := by
  have hcause : s.pwr.last.cause = 4 := h.cause
  have hcommit : s.pwr.last.commit = none := h.commit
  have heq : reportCommit s img run = { s with pwr := { s.pwr with last := { s.pwr.last with commit := none, refUs := 0 } } } := by
    simp [reportCommit, hcause, hcommit]
  rw [heq]
  refine ⟨?_, rfl, rfl⟩
  show { course s with commit := none } = course s
  rw [← h.commit]

theorem withBkd_steady (k : Nat) (s : State) {b : Bkd} (hb : course { s with bkd := b } = course s) : Steady k s { s with bkd := b } :=
  ⟨hb, rfl, rfl⟩

/-- A backup domain whose causes and switch-overs are those of the shutdown reports nothing (R63, R76). -/
theorem reportBackup_steady (k : Nat) {s : State} (h : (course s).Clean) : Steady k s (reportBackup s) := by
  have hcauses : s.bkd.causes = s.bkd.causesShut := h.causes
  have hswitches : s.bkd.swCount = s.bkd.countShut := h.switches
  have hnone : ([0, 1, 2].filter fun c => bit s.bkd.causes c && !bit s.bkd.causesShut c) = [] := by
    rw [hcauses, List.filter_eq_nil_iff]
    simp
  unfold reportBackup
  extract_lets b s1 s2
  have hs2 : s2 = s := by
    have hs1 : s1 = s := by
      show List.foldl _ s (List.filter _ _) = s
      rw [hnone]
      rfl
    exact (if_pos hswitches).trans hs1
  rw [hs2]
  refine withBkd_steady k s ?_
  show { course s with causes := (s.bkd.causes, s.bkd.causes), switches := (s.bkd.swCount, s.bkd.swCount) } = course s
  unfold course
  rw [hcauses, hswitches]

theorem retOk_of_clean {s : State} {obs : StartObs} (h : (course s).Clean) (hbad : obs.retBad = []) (b : Nat) : retOk s obs b = true := by
  have hvalid : s.bkd.ret.valid = true := h.valid
  simp [retOk, hvalid, hbad]

theorem resOk_of_clean {s : State} {obs : StartObs} (h : (course s).Clean) (hbad : obs.retBad = []) {m : Nat} (hm : m ∈ span 0 257) :
    resOk s obs m = true := by
  unfold resOk
  rw [retOk_of_clean h hbad, Bool.true_and]
  exact h.res m hm

/-- No block of retention SRAM is reported invalid (R85). -/
theorem retEvents_of_clean {s : State} {obs : StartObs} {anchor : Option Anchor} (h : (course s).Clean) (hbad : obs.retBad = [])
    (hanchor : anchor.isSome = true) : retEvents s obs anchor = s := by
  have hvalid : s.bkd.ret.valid = true := h.valid
  have hres : (span 0 257).filter (fun m => !resOk s obs m) = [] := by
    rw [List.filter_eq_nil_iff]
    intro m hm
    simp [resOk_of_clean h hbad hm]
  unfold retEvents
  simp [retOk_of_clean h hbad, hres, hvalid, hbad, Option.isSome_iff_ne_none.mp hanchor]

theorem restartSeal_of_clean {s : State} {anchor : Option Anchor} (h : (course s).Clean) : restartSeal s anchor = s := by
  have hcause : s.pwr.last.cause = 4 := h.cause
  unfold restartSeal
  rw [if_neg (by simp [hcause])]
  exact breakProcess_of_none h.breakLatch

theorem resolveImages_of_clean {s : State} {anchor : Option Nat} (h : (course s).Clean) : resolveImages s anchor = s := by
  have himages : s.slu.images = [] := h.images
  simp [resolveImages, himages]

/-- A bad copy of the calibration objects is a fault of the legal partition (R236). -/
theorem calCheck_steady {k : Nat} {s : State} (hk : k ≠ 0) (hcycle : s.clk.cycle = none) (hidle : (dom s 0).state = .idle) :
    Steady k s (calCheck s) := by
  unfold calCheck
  extract_lets lgl1 used s1 s2 s3
  have hlog : ∀ j, Steady j s s1 := fun j => legalLog_steady j s _ _ _ _
  have hcycle1 : s1.clk.cycle = none := (congrArg Clk.cycle (hlog 0).clk).trans hcycle
  have hroom : roomy s1 0 = true := roomy_of_idle ((congrArg Dom.state (hlog 0).dom).trans hidle)
  have hfault : Steady k s1 s2 := by
    have hdom : ∀ e, faultDomain e = 0 → Steady k s1 (raise s1 e) :=
      fun e h => raise_fault_steady hcycle1 (h ▸ hroom) (h ▸ hk)
    exact hdom _ (by simp [faultDomain, defaultDomain])
  have htamper : Steady k s2 s3 := tamper_steady k _ _ ((congrArg Clk.cycle hfault.clk).trans hcycle1)
  have hmark : Steady k s3 { s3 with lgl := { s3.lgl with mark := false, checks := false } } := ⟨rfl, rfl, rfl⟩
  exact .ite ⟨rfl, rfl, rfl⟩ ((((hlog k).trans hfault).trans htamper).trans hmark)

theorem restoreMp_steady (k : Nat) {s : State} {obs : StartObs} {m : Nat} (img : Option ResImage) (h : (course s).Clean)
    (hbad : obs.retBad = []) (hm : m ∈ span 0 257) : Steady k s (restoreMp s obs img m) := by
  have hcause : s.pwr.last.cause = 4 := h.cause
  unfold restoreMp
  rw [if_pos (resOk_of_clean h hbad hm), if_neg (by simp [hcause])]
  exact setMp_steady k s m _

theorem restartKeypad_steady (k : Nat) (s : State) (anchor : Option Anchor) : Steady k s (restartKeypad s true anchor) := by
  unfold restartKeypad
  rw [if_neg (by decide)]
  extract_lets long s1
  have hlock : Steady k s s1 := .ite ⟨rfl, rfl, rfl⟩ (.refl k s)
  clear_value s1
  have hsaid : ∀ c : Crd, Steady k s1 { s1 with crd := c } := fun _ => ⟨rfl, rfl, rfl⟩
  exact hlock.trans (hsaid _)

/-- A good retention SRAM keeps its anchors and residuals when it is written again (R85). -/
theorem rewriteRetention_steady (k : Nat) {s : State} {obs : StartObs} (h : (course s).Clean) (hbad : obs.retBad = []) :
    Steady k s (rewriteRetention s obs) := by
  have hvalid : s.bkd.ret.valid = true := h.valid
  refine withBkd_steady k s ?_
  simp only [retOk_of_clean h hbad, if_true]
  show { course s with valid := true } = course s
  rw [← h.valid]

theorem loadCopies_steady (k : Nat) (s : State) : Steady k s (loadCopies s) := ⟨rfl, rfl, rfl⟩

theorem setPin_steady (k : Nat) (s : State) (p : Nat) (x : CfPin) : Steady k s (setPin s p x) := ⟨rfl, rfl, rfl⟩

theorem pinsCommit_steady (k : Nat) (s : State) : Steady k s (pinsCommit s) :=
  Steady.foldl (P := fun _ => True) (fun p _ a _ => .ite (.refl k a) (setPin_steady k a p _)) trivial

theorem bootRuns_steady (k : Nat) (s : State) (anchor : Option Anchor) : Steady k s (bootRuns s anchor) := by
  cases anchor with
  | none => exact .refl k s
  | some a => exact Steady.foldl (P := fun _ => True) (fun m _ b _ => setMp_steady k b m _) trivial

/-! ### The journal blocks are erased (R374) -/

/-- Levels under way and waiting in the archive's fault domain. -/
def archiveLoad (s : State) : Nat := (dom s 6).stack.length + (dom s 6).queue.length

theorem Steady.archiveLoad {s t : State} (h : Steady 6 s t) : archiveLoad t = archiveLoad s := by
  unfold Proofs.archiveLoad
  rw [h.dom]

theorem roomy_of_load {s : State} (h : archiveLoad s < 4) : roomy s 6 = true := by
  unfold archiveLoad at h
  unfold roomy
  cases (dom s 6).state with
  | idle => rfl
  | escalating => rfl
  | handling =>
    rw [decide_eq_true_eq]
    omega

theorem applyPlace_load (d : Dom) {p : Place} (hp : ∀ c, p ≠ .escalate c) (id sev now : Nat) (nested : Bool) :
    (applyPlace d p id sev now nested).stack.length + (applyPlace d p id sev now nested).queue.length ≤
      d.stack.length + d.queue.length + 1 := by
  cases p
  case start =>
    show 1 + d.queue.length ≤ _
    omega
  case push =>
    show d.stack.length + 1 + d.queue.length ≤ _
    omega
  case queue => simp [applyPlace]; omega
  case ignored => exact Nat.le_succ _
  case escalate c => exact absurd rfl (hp c)

theorem countFault_levels (d : Dom) (sev : Nat) : (countFault d sev).stack = d.stack ∧ (countFault d sev).queue = d.queue := by
  unfold countFault
  dsimp only
  split
  · exact ⟨rfl, rfl⟩
  · split <;> exact ⟨rfl, rfl⟩

/-- A fault of the archive with room in its domain adds one level at most. -/
theorem raise_archiveLoad {s : State} {e : EvReq} (he : faultDomain e = 6) (hroom : roomy s 6 = true) :
    archiveLoad (raise s e) ≤ archiveLoad s + 1 := by
  have hrecord : ∀ e' sev k depth rflags, dom (record s e' sev k depth rflags) 6 = dom s 6 :=
    fun e' sev k depth rflags => dom_congr (record_doms s e' sev k depth rflags) 6
  unfold archiveLoad raise
  extract_lets sev k p e1 s1 s2 v3 s3
  have hk : k = 6 := he
  have hp : ∀ c, p ≠ .escalate c := fun c => placeFault_roomy s k sev c e.nested (hk ▸ hroom)
  have hs3 : dom s3 6 = countFault (dom s 6) sev := by
    show dom (setDom s1 k (countFault (dom s1 k) sev)) 6 = _
    rw [hk, dom_setDom]
    exact congrArg (countFault · sev) (hrecord e1 sev k _ 0)
  obtain ⟨hstack, hqueue⟩ := countFault_levels (dom s 6) sev
  have hplaced := applyPlace_load (dom s3 6) hp e.id sev (nowTick s) e.nested
  rw [hs3, hstack, hqueue] at hplaced
  split
  · rw [inform, hrecord]
    exact Nat.le_succ _
  · rw [hk]
    clear_value s3 p
    cases p
    case escalate c => exact absurd rfl (hp c)
    all_goals
      rw [dom_setDom, hs3]
      exact hplaced

theorem setBlock_steady (k : Nat) (s : State) (b : Nat) (x : Block) : Steady k s (setBlock s b x) := ⟨rfl, rfl, rfl⟩

theorem journalAdd_steady (k : Nat) (s : State) (kind b count : Nat) : Steady k s (journalAdd s kind b count) := ⟨rfl, rfl, rfl⟩

theorem eraseLater_steady (k : Nat) (s : State) (b part l : Nat) : Steady k s (eraseLater s b part l) := ⟨rfl, rfl, rfl⟩

theorem intent_steady (k : Nat) (s : State) (kind b count : Nat) : Steady k s (intent s kind b count) := by
  unfold intent
  refine .ite ?_ (journalAdd_steady k s kind b count)
  exact ((journalAdd_steady k s 1 _ _).trans (eraseLater_steady k _ _ 5 _)).trans (journalAdd_steady k _ kind b count)

theorem intentDone_steady (k : Nat) (s : State) (b : Nat) : Steady k s (intentDone s b) := ⟨rfl, rfl, rfl⟩

theorem withSparesUsed_steady (k : Nat) (s : State) (n : Nat) : Steady k s { s with cis := { s.cis with sparesUsed := n } } :=
  ⟨rfl, rfl, rfl⟩

theorem startErase_steady (k : Nat) (s : State) (b part l : Nat) : Steady k s (startErase s b part l) :=
  (intent_steady k s 1 b _).trans (eraseLater_steady k _ b part l)

/-- A partition that becomes read-only is one level at most in the archive's domain (R377). -/
theorem partReadOnly_spec {s : State} (part : Nat) (hcycle : s.clk.cycle = none) (hload : archiveLoad s < 4) :
    course (partReadOnly s part) = course s ∧ archiveLoad (partReadOnly s part) ≤ archiveLoad s + 1 := by
  unfold partReadOnly
  split
  · exact ⟨rfl, Nat.le_succ _⟩
  · have hdomain : ∀ data, faultDomain { id := 0x688, data := data } = 6 := fun data => by simp [faultDomain, defaultDomain]
    have hroom : roomy { s with cis := { s.cis with readOnly := s.cis.readOnly ++ [part] } } 6 = true := roomy_of_load hload
    exact ⟨raise_course (e := { id := 0x688, data := _ }) hcycle ((hdomain _).symm ▸ hroom), raise_archiveLoad (hdomain _) hroom⟩

theorem retireBlock_spec {s : State} (b : Nat) (hcycle : s.clk.cycle = none) (hload : archiveLoad s < 4) :
    course (retireBlock s b) = course s ∧ archiveLoad (retireBlock s b) ≤ archiveLoad s + 1 := by
  unfold retireBlock
  extract_lets x s1 s2 n cis3 s3
  have hretired : Steady 6 s s1 :=
    ((intent_steady 6 s 2 b x.count).trans (setBlock_steady 6 _ b _)).trans (intentDone_steady 6 _ b)
  have hcycle1 : s1.clk.cycle = none := (congrArg Clk.cycle hretired.clk).trans hcycle
  have hsaid : Steady 6 s s2 := hretired.trans (raise_info_steady 6 rfl hcycle1)
  have hcycle2 : s2.clk.cycle = none := (congrArg Clk.cycle hsaid.clk).trans hcycle
  split
  · have hspare : Steady 6 s2 s3 := (withSparesUsed_steady 6 s2 (n + 1)).trans (startErase_steady 6 _ _ _ _)
    have hlast : Steady 6 s2 (if n + 1 = 38 then raise s3 { id := 0x687, data := Config.eventData 0x687 [8] } else s3) :=
      .ite (hspare.trans (raise_info_steady 6 rfl ((congrArg Clk.cycle hspare.clk).trans hcycle2))) hspare
    have hall := hsaid.trans hlast
    exact ⟨hall.course, hall.archiveLoad.trans_le (Nat.le_succ _)⟩
  · have hpart := partReadOnly_spec x.part hcycle2 (hsaid.archiveLoad ▸ hload)
    rw [hsaid.course, hsaid.archiveLoad] at hpart
    exact hpart

theorem queueErase_spec {s : State} (b part l : Nat) (hcycle : s.clk.cycle = none) (hload : archiveLoad s < 4) :
    course (queueErase s b part l) = course s ∧ archiveLoad (queueErase s b part l) ≤ archiveLoad s + 1 := by
  unfold queueErase
  split
  · exact retireBlock_spec b hcycle hload
  · have h := startErase_steady 6 s b part l
    exact ⟨h.course, h.archiveLoad.trans_le (Nat.le_succ _)⟩

/-- As many blocks as the archive's domain has levels are erased without an escalation. -/
theorem foldl_queueErase_course (block : State → Nat → Nat) (part : Nat) {l : List Nat} {s : State} (hcycle : s.clk.cycle = none)
    (hload : archiveLoad s + l.length ≤ 4) : course (l.foldl (fun a x => queueErase a (block a x) part x) s) = course s := by
  induction l generalizing s with
  | nil => rfl
  | cons x l ih =>
    rw [List.length_cons] at hload
    obtain ⟨hcourse, hone⟩ := queueErase_spec (s := s) (block s x) part x hcycle (by omega)
    have hclk : (queueErase s (block s x) part x).clk = s.clk := congrArg Course.clk hcourse
    exact (ih ((congrArg Clk.cycle hclk).trans hcycle) (by omega)).trans hcourse

theorem eraseJournal_course {s : State} (hcycle : s.clk.cycle = none) (hload : archiveLoad s = 0) :
    course (eraseJournal s) = course s :=
  foldl_queueErase_course (fun a l => physOf a 0 l) 0 (s := { s with cis := { s.cis with image := none } }) hcycle
    (show archiveLoad s + 4 ≤ 4 by omega)

/-! ### Step 7 as a whole -/

/-- The reports of step 7 and the checks of the legal partition: nothing is reported of a clean start but a bad copy (R43, R236). -/
theorem legalChecks_steady {s : State} {obs : StartObs} {anchor : Option Anchor} (img : Option ResImage) (run : Nat) (n : Option Nat)
    (h : (course s).Clean) (hbad : obs.retBad = []) (hanchor : anchor.isSome = true) (hidle : (dom s 0).state = .idle) :
    Steady 6 s (resolveImages (calCheck (restartSeal
      (retEvents (reportBackup (reportCommit s img run)) obs anchor) anchor)) n) := by
  have hcommit := fun k => reportCommit_steady k img run h
  have hreports := fun k => (hcommit k).trans (reportBackup_steady k (h.of_eq (hcommit k).course))
  have hclean := h.of_eq (hreports 6).course
  rw [retEvents_of_clean hclean hbad hanchor, restartSeal_of_clean hclean]
  have hcheck := (hreports 6).trans
    (calCheck_steady (by decide) hclean.cycle ((congrArg Dom.state (hreports 0).dom).trans hidle))
  rw [resolveImages_of_clean (h.of_eq hcheck.course)]
  exact hcheck

/-- The registers, the keypad and the retention SRAM are restored as they were kept, and the journal is erased (R85, R193, R374). -/
theorem legalRestore_course {s : State} {obs : StartObs} {mps : List Nat} (img : Option ResImage) (anchor : Option Anchor)
    (h : (course s).Clean) (hbad : obs.retBad = []) (hmps : ∀ m ∈ mps, m ∈ span 0 257) (hload : archiveLoad s = 0) :
    course (eraseJournal (rewriteRetention (restartKeypad (mps.foldl (fun a m => restoreMp a obs img m) s) true anchor) obs)) =
      course s := by
  have hmeter : Steady 6 s (mps.foldl (fun a m => restoreMp a obs img m) s) :=
    Steady.foldl (P := Course.Clean) (fun m hm a ha => restoreMp_steady 6 img ha hbad (hmps m hm)) h
  have hkeypad := hmeter.trans (restartKeypad_steady 6 _ anchor)
  have hkept := hkeypad.trans (rewriteRetention_steady 6 (h.of_eq hkeypad.course) hbad)
  exact (eraseJournal_course (h.of_eq hkept.course).cycle (hkept.archiveLoad.trans hload)).trans hkept.course

/-- The clock with the anchor from which its boundaries will be numbered, if they will (R44). -/
def numberFrom (c : Clk) (anchor : Option (Nat × Nat)) (numbering : Bool) : Clk := { c with anchor := anchor, numbering := numbering }

theorem course_withClk (s : State) (c : Clk) : course { s with clk := c } = { course s with clk := c } := rfl

/-- Step 7 takes the next run number and the anchor that the clock will number from. -/
theorem legalStart_course {s : State} {obs : StartObs} (h : (course s).Clean) (hbad : obs.retBad = [])
    (hanchor : (pickAnchor s obs).isSome = true) (hwrite : s.cis.readOnly = [])
    (hgen : (ladder s (ladderKey 0 runLid)).lgen < 0xFFFFFD) (hlegal : (dom s 0).state = .idle) (hload : archiveLoad s = 0) :
    ∃ l a n, course (legalStart s obs) = { course s with run := l, clk := numberFrom s.clk a n } ∧
      valueOf l = valueOf (course s).run + 1 := by
  obtain ⟨⟨l, hrun, hvalue⟩, hdom0, -⟩ := startRun_spec 0 hwrite hgen
  have hdom6 := (startRun_spec 6 hwrite hgen).2.1
  have hclean : (course (startRun s)).Clean := by
    rw [hrun]
    exact ⟨h.cycle, h.cause, h.commit, h.images, h.chains, h.valid, h.res, h.causes, h.switches, h.breakLatch⟩
  unfold legalStart
  rw [retOk_of_clean h hbad 3]
  extract_lets run img anchor s1 s2 s3 s4 s5
  have hchecks : Steady 6 (startRun s) s2 :=
    legalChecks_steady img run _ hclean hbad hanchor ((congrArg Dom.state hdom0).trans hlegal)
  have hcopies := hchecks.trans (loadCopies_steady 6 s2)
  have hloaded : archiveLoad (startRun s) = 0 := by
    unfold archiveLoad at hload ⊢
    rwa [hdom6]
  have hrestored : course s4 = course (startRun s) :=
    (legalRestore_course img anchor (hclean.of_eq hcopies.course) hbad (fun m hm => (List.mem_filter.mp hm).1)
      (hcopies.archiveLoad.trans hloaded)).trans hcopies.course
  have hpins : Steady 6 s4 s5 := (pinsCommit_steady 6 s4).trans (bootRuns_steady 6 _ anchor)
  have hs5 : course s5 = { course s with run := l } := (hpins.course.trans hrestored).trans hrun
  have hclk : s5.clk = s.clk := congrArg Course.clk hs5
  refine ⟨l, anchor.map fun a => (a.cycle, a.ticks), !s5.lgl.halt, ?_, hvalue⟩
  show course { s5 with clk := numberFrom s5.clk _ _ } = _
  rw [course_withClk, hs5, hclk]

/-! ### Steps 1 to 6 as a whole -/

/-- The flash and the key store are as they were. -/
def SameStores (s t : State) : Prop := t.cis = s.cis ∧ t.key = s.key

theorem SameStores.trans {s t u : State} (h : SameStores s t) (g : SameStores t u) : SameStores s u :=
  ⟨g.1.trans h.1, g.2.trans h.2⟩

theorem SameStores.ite {s t u : State} {c : Prop} [Decidable c] (ht : SameStores s t) (hu : SameStores s u) :
    SameStores s (if c then t else u) := by
  split
  · exact ht
  · exact hu

theorem SameStores.foldl {α : Type} (f : State → α → State) (hf : ∀ s a, SameStores s (f s a)) (l : List α) (s : State) :
    SameStores s (l.foldl f s) := by
  induction l generalizing s with
  | nil => exact ⟨rfl, rfl⟩
  | cons a l ih => exact (hf s a).trans (ih (f s a))

theorem raise_sameStores {s : State} {e : EvReq} (hroom : roomy s (faultDomain e) = true) : SameStores s (raise s e) :=
  ⟨(raise_io s e hroom).cis, (raise_kept s e hroom).key⟩

theorem sendShort_sameStores (s : State) (p typ : Nat) (payload : Bytes) : SameStores s (sendShort s p typ payload) := ⟨rfl, rfl⟩

theorem trainRing_sameStores {s : State} (obs : TrainObs) (hheads : s.ply.heads = []) (hidle : (dom s 2).state = .idle) :
    SameStores s (trainRing s obs) := by
  have habsent : positions.foldl (fun a p => if (head a p).state = .absent then a else setHeadState a p .absent 7) s = s :=
    foldl_fixed _ _ _ fun p _ => by rw [head_of_none hheads, if_pos rfl]
  unfold trainRing
  rw [habsent]
  extract_lets base s0 ply1 s1 s2 ply3 s3 s4
  have hset : SameStores s s1 := ⟨rfl, rfl⟩
  have hroom : roomy s1 2 = true := roomy_of_idle hidle
  have hlong : ∀ e, faultDomain e = 2 → SameStores s1 (raise s1 e) := fun e h => raise_sameStores (h ▸ hroom)
  refine hset.trans (.ite ?_ ?_)
  · exact hlong _ (by simp [faultDomain, defaultDomain])
  have hhops : SameStores s1 s2 := by
    refine .ite ?_ ⟨rfl, rfl⟩
    exact hlong _ (by simp [faultDomain, defaultDomain])
  clear_value s2
  have hsent : SameStores s2 s4 := ⟨rfl, rfl⟩
  refine (hhops.trans hsent).trans (.foldl _ (fun a p => ?_) _ _)
  exact (sendShort_sameStores a p 7 [0]).trans (sendShort_sameStores _ p 6 [])

/-- The course of a hub whose clock has started in COAST_NOM (Table CYC.2). -/
def startedCourse (s : State) : Course :=
  { course s with inReset := false, started := true, t0 := s.bkd.tick,
                  clk := { state := .coastNom, freq := nominalFreq (loadCopies s), lockedFreq := nominalFreq (loadCopies s) } }

/-- Step 1: the run begins, with the clock in COAST_NOM. -/
theorem startClock_spec (k : Nat) (s : State) :
    course (startClock (loadCopies (beginRun s))) = startedCourse s ∧ dom (startClock (loadCopies (beginRun s))) k = dom s k ∧
      SameStores s (startClock (loadCopies (beginRun s))) ∧ (startClock (loadCopies (beginRun s))).ply = s.ply := by
  unfold startClock
  have hevent := raise_info_steady k (e := { id := 0x080 }) (s := { loadCopies (beginRun s) with
    clk := { state := .coastNom, freq := nominalFreq (loadCopies (beginRun s)), lockedFreq := nominalFreq (loadCopies (beginRun s)) } })
    rfl rfl
  have hnoted := raise_info_noted (e := { id := 0x080 }) (s := { loadCopies (beginRun s) with
    clk := { state := .coastNom, freq := nominalFreq (loadCopies (beginRun s)), lockedFreq := nominalFreq (loadCopies (beginRun s)) } })
    rfl
  exact ⟨hevent.course, hevent.dom, ⟨hnoted.cis, hnoted.told.kept.key⟩, hnoted.told.kept.ply⟩

/-- Steps 2 and 3: the ROM check and the training of the ring. -/
def startRing (s : State) (obs : StartObs) : State :=
  let s2 := uartLine (romCheck (uartLine s 1 true) obs.romGood) 2 obs.romGood
  uartLine (if s2.lgl.halt then s2 else trainRing s2 obs.train) 3 true

theorem startRing_steady {k : Nat} {s : State} (obs : StartObs) (hk : k ≠ 2) (hcycle : s.clk.cycle = none)
    (hidle : (dom s 2).state = .idle) : Steady k s (startRing s obs) := by
  unfold startRing
  extract_lets s2
  have hrom : Steady k s s2 := ⟨rfl, rfl, rfl⟩
  exact (hrom.trans (.ite (.refl k s2) (trainRing_steady obs.train hk hcycle hidle))).trans (uartLine_steady k _ 3 true)

theorem startRing_sameStores {s : State} (obs : StartObs) (hheads : s.ply.heads = []) (hidle : (dom s 2).state = .idle) :
    SameStores s (startRing s obs) := by
  unfold startRing
  extract_lets s2
  have hrom : SameStores s s2 := ⟨rfl, rfl⟩
  have hring : SameStores s2 (if s2.lgl.halt then s2 else trainRing s2 obs.train) :=
    .ite ⟨rfl, rfl⟩ (trainRing_sameStores obs.train hheads hidle)
  exact (hrom.trans hring).trans ⟨rfl, rfl⟩

/-- Steps 1 to 3 of a start. -/
def startEarly (s : State) (obs : StartObs) : State := startRing (startClock (loadCopies (beginRun s))) obs

/-- Where the CHIP reset has cleared the ring, steps 1 to 3 show in the course as step 1 alone. -/
theorem startEarly_spec {s : State} (obs : StartObs) (hheads : s.ply.heads = []) (hidle : (dom s 2).state = .idle) :
    (∀ k, k ≠ 2 → course (startEarly s obs) = startedCourse s ∧ dom (startEarly s obs) k = dom s k) ∧
      SameStores s (startEarly s obs) := by
  have hclock := fun k => startClock_spec k s
  obtain ⟨hstarted, hdom, hstores, hply⟩ := hclock 2
  have hcycle : (startClock (loadCopies (beginRun s))).clk.cycle = none := congrArg (fun c => c.clk.cycle) hstarted
  have hready : (dom (startClock (loadCopies (beginRun s))) 2).state = .idle := (congrArg Dom.state hdom).trans hidle
  refine ⟨fun k hk => ?_, hstores.trans (startRing_sameStores obs ((congrArg Ply.heads hply).trans hheads) hready)⟩
  have hring := startRing_steady obs hk hcycle hready
  exact ⟨hring.course.trans hstarted, hring.dom.trans (hclock k).2.1⟩

/-- Steps 4 to 6: the archive, the key store, the radio and the cascade. -/
def startStores (s : State) (obs : StartObs) (bad : List Nat) : State :=
  let s4 := uartLine (archiveStart s obs.flash) 4 obs.flash.lost.isEmpty
  let s5 := uartLine (startKeys s4 obs) 5 (obs.entropyGood && obs.keysLost.isEmpty)
  uartLine (cascadeStart (radioStart s5 bad)) 6 true

/-- Of a clean start's steps 4 to 6 the course shows the straps alone. -/
theorem startStores_spec (k : Nat) {s : State} {obs : StartObs} (bad : List Nat) (hcycle : s.clk.cycle = none)
    (hchains : s.cus.chains = []) (hflash : obs.flash = {}) (hlost : obs.keysLost = []) (hgood : obs.entropyGood = true)
    (hwrites : s.key.writes = []) (hwrite : s.cis.readOnly = []) (hjournal : s.cis.journal = [])
    (hopen : ∀ j, (ladder s j).lgen < 0xFFFFFD) :
    course (startStores s obs bad) = { course s with straps := (course s).pins } ∧ dom (startStores s obs bad) k = dom s k ∧
      (startStores s obs bad).cis.readOnly = [] := by
  unfold startStores
  rw [hflash, archiveStart_of_clean hjournal]
  extract_lets lost cis1 s4 s5
  have harchive : Steady k s s4 := ⟨rfl, rfl, rfl⟩
  have hkeys : Steady k s s5 :=
    (harchive.trans (startKeys_steady k hlost hgood hwrites hwrite hopen)).trans (uartLine_steady k _ 5 _)
  have hradio : Steady k s (radioStart s5 bad) := hkeys.trans (radioStart_steady k bad
    ((congrArg Clk.cycle hkeys.clk).trans hcycle) ((congrArg Course.chains hkeys.course).trans hchains))
  obtain ⟨hdom, hreadOnly⟩ := cascadeStart_flash k (radioStart s5 bad)
  refine ⟨?_, hdom.trans hradio.dom, hreadOnly.trans (hradio.readOnly.trans hwrite)⟩
  rw [(uartLine_steady k _ 6 true).course, cascadeStart_course, hradio.course]

/-! ### The start as a whole (R568) -/

/-- The end of step 7. -/
def startReady (s : State) (tick : Nat) : State :=
  uartLine { s with hif := { s.hif with lastDoorbell := tick }, pqe := { s.pqe with lastAuto := tick } } 7 s.lgl.checks

theorem startReady_steady (k : Nat) (s : State) (tick : Nat) : Steady k s (startReady s tick) := ⟨rfl, rfl, rfl⟩

/-- The state a start leaves before its events are settled. -/
def startUp (s : State) (obs : StartObs) : State :=
  startReady (legalStart (startStores (startEarly s obs) obs ((span 0 8).filter fun b => !retOk s obs (4 + b))) obs) (nowTick s)

theorem exec_chipStart (obs : StartObs) (s : State) :
    exec (.chipStart obs) s = .next
      (if s.pwr.started || (s.pwr.pfHold || s.pwr.resetNLow || s.pwr.railBad || s.bkd.pwronLow) then s
      else settle (startUp s obs)) := by
  show execChipStart obs s = _
  rfl

/-- What a CHIP reset has cleared (R564). -/
theorem cleared_of_clearVolatile {s : State} (h : clearVolatile s = s) :
    s.cus.chains = [] ∧ s.ply.heads = [] ∧ s.cis.tailFull = false ∧ s.ev.batch = [] ∧ ∀ k, dom s k = {} := by
  have hdoms : s.ev.doms = [] := (congrArg (fun x => x.ev.doms) h).symm
  refine ⟨(congrArg (fun x => x.cus.chains) h).symm, (congrArg (fun x => x.ply.heads) h).symm,
    (congrArg (fun x => x.cis.tailFull) h).symm, (congrArg (fun x => x.ev.batch) h).symm, fun k => ?_⟩
  unfold dom
  rw [hdoms]
  rfl

theorem pickAnchor_of_course {s t : State} (obs : StartObs) (hvalid : (course t).valid = (course s).valid)
    (hanchors : (course t).anchors = (course s).anchors) : pickAnchor t obs = pickAnchor s obs := by
  have hv : t.bkd.ret.valid = s.bkd.ret.valid := hvalid
  have ha : t.bkd.ret.anchorA = s.bkd.ret.anchorA := congrArg Prod.fst hanchors
  have hb : t.bkd.ret.anchorB = s.bkd.ret.anchorB := congrArg Prod.snd hanchors
  unfold pickAnchor retOk
  dsimp only
  rw [hv, ha, hb]

/-- What a clean start makes of the course: the run begins, takes the straps, and has the next run number (R249, R541). -/
theorem startUp_course {s : State} {obs : StartObs} (hclean : startsClean s obs = true) (hclear : clearVolatile s = s) :
    ∃ l a n, course (startUp s obs) =
        { startedCourse s with straps := (course s).pins, run := l, clk := numberFrom (startedCourse s).clk a n } ∧
      valueOf l = runNumber s + 1 := by
  obtain ⟨hchains, hheads, -, -, hdoms⟩ := cleared_of_clearVolatile hclear
  simp only [startsClean, Bool.and_eq_true, and_assoc, beq_iff_eq, Option.isNone_iff_eq_none] at hclean
  obtain ⟨-, -, -, -, -, -, -, hentropy, hlost, -, hbad, hflash, hvalid, hanchor, hres, hcauses, hswitches, hlatch, hcause,
    hcommit, hreadOnly, hjournal, himages, hwrites, hladders, -⟩ := hclean
  have hidle : ∀ k, (dom s k).state = .idle := fun k => by rw [hdoms k]
  have hstart : (startedCourse s).Clean :=
    ⟨rfl, hcause, hcommit, himages, hchains, hvalid, fun m hm => List.all_eq_true.mp hres m hm, hcauses, hswitches, hlatch⟩
  obtain ⟨hearly, hstores⟩ := startEarly_spec obs hheads (hidle 2)
  unfold startUp
  rw [(startReady_steady 0 _ _).course]
  generalize startEarly s obs = s3 at hearly hstores
  generalize (span 0 8).filter (fun b => !retOk s obs (4 + b)) = bad
  obtain ⟨hcis, hkey⟩ := hstores
  have hcourse3 := (hearly 0 (by decide)).1
  have hopen : ∀ j, (ladder s3 j).lgen < 0xFFFFFD := ladder_lgen_lt (by rw [hcis]; exact hladders)
  have hlater := fun k => startStores_spec k bad (s := s3) (congrArg (fun c => c.clk.cycle) hcourse3)
    ((congrArg Course.chains hcourse3).trans hchains) hflash hlost hentropy (by rw [hkey]; exact hwrites)
    (by rw [hcis]; exact hreadOnly) (by rw [hcis]; exact hjournal) hopen
  generalize startStores s3 obs bad = s6 at hlater
  obtain ⟨hcourse6, -, hwrite6⟩ := hlater 0
  rw [hcourse3] at hcourse6
  have hdom6 : ∀ k, k ≠ 2 → dom s6 k = {} := fun k hk => ((hlater k).2.1.trans (hearly k hk).2).trans (hdoms k)
  have hclean6 : (course s6).Clean := by
    rw [hcourse6]
    exact ⟨hstart.cycle, hstart.cause, hstart.commit, hstart.images, hstart.chains, hstart.valid, hstart.res, hstart.causes,
      hstart.switches, hstart.breakLatch⟩
  have hanchor6 : (pickAnchor s6 obs).isSome = true := by
    have hvalid6 : (course s6).valid = (course s).valid := by
      rw [hcourse6]
      rfl
    have hanchors6 : (course s6).anchors = (course s).anchors := by
      rw [hcourse6]
      rfl
    rw [pickAnchor_of_course obs hvalid6 hanchors6]
    exact hanchor
  have hgen6 : (ladder s6 (ladderKey 0 runLid)).lgen < 0xFFFFFD := by
    have hrun : ladder s6 (ladderKey 0 runLid) = ladder s (ladderKey 0 runLid) := congrArg Course.run hcourse6
    rw [hrun]
    exact ladder_lgen_lt hladders _
  have hload : archiveLoad s6 = 0 := by
    unfold archiveLoad
    rw [hdom6 6 (by decide)]
    rfl
  obtain ⟨l, a, n, hlegal, hvalue⟩ :=
    legalStart_course hclean6 hbad hanchor6 hwrite6 hgen6 (by rw [hdom6 0 (by decide)]) hload
  have hclk6 : s6.clk = (startedCourse s).clk := congrArg Course.clk hcourse6
  rw [hcourse6] at hvalue
  rw [hcourse6, hclk6] at hlegal
  exact ⟨l, a, n, hlegal, hvalue⟩

/-- A start whose course ends without a batch or a full tail leaves no event to settle. -/
theorem settle_of_course {t : State} (hreset : (course t).inReset = false) (hbatch : (course t).batch = [])
    (htail : (course t).tailFull = false) : settle t = t :=
  settle_quiet t hreset hbatch fun h => absurd h (by rw [show t.cis.tailFull = false from htail]; decide)

theorem exec_chipStart_of_clean {s : State} {obs : StartObs} (hclean : startsClean s obs = true) (hclear : clearVolatile s = s) :
    exec (.chipStart obs) s = .next (startUp s obs) := by
  obtain ⟨-, -, htail, hbatch, -⟩ := cleared_of_clearVolatile hclear
  obtain ⟨l, a, n, hcourse, -⟩ := startUp_course hclean hclear
  simp only [startsClean, Bool.and_eq_true, and_assoc, Bool.not_eq_true'] at hclean
  obtain ⟨-, hstarted, hpf, hresetN, hrail, hpwron, -⟩ := hclean
  have hsettle : settle (startUp s obs) = startUp s obs := settle_of_course (by rw [hcourse]; rfl)
    (by rw [hcourse]; exact hbatch) (by rw [hcourse]; exact htail)
  rw [exec_chipStart, hstarted, hpf, hresetN, hrail, hpwron, hsettle]
  rfl

theorem exec_chipStart_of_held {s : State} (obs : StartObs)
    (h : s.pwr.started = true ∨ s.pwr.pfHold = true ∨ s.pwr.resetNLow = true ∨ s.pwr.railBad = true ∨ s.bkd.pwronLow = true) :
    exec (.chipStart obs) s = .next s := by
  have hheld : (s.pwr.started || (s.pwr.pfHold || s.pwr.resetNLow || s.pwr.railBad || s.bkd.pwronLow)) = true := by
    simpa only [Bool.or_eq_true, or_assoc] using h
  rw [exec_chipStart, if_pos hheld]

/-- Settles O60: no step of a clean start touches its course but step 1, which begins the run in COAST_NOM, step 6, which takes the
straps, and step 7, which steps the run ladder; the rest of what is claimed is read off the course. -/
theorem theHubStartsWhenNothingHoldsIt : Obligations.TheHubStartsWhenNothingHoldsIt := by
  unfold Obligations.TheHubStartsWhenNothingHoldsIt
  intro s obs
  refine ⟨exec_chipStart_of_held obs, fun hclean hclear => ⟨startUp s obs, exec_chipStart_of_clean hclean hclear, ?_⟩⟩
  obtain ⟨l, a, n, hcourse, hvalue⟩ := startUp_course hclean hclear
  have hclk : (startUp s obs).clk = numberFrom (startedCourse s).clk a n := congrArg Course.clk hcourse
  have hstraps : ((startUp s obs).ril.cascEn, (startUp s obs).ril.cascId) = (s.ril.pinEn, s.ril.pinId) := congrArg Course.straps hcourse
  have hres : (startUp s obs).bkd.ret.res = s.bkd.ret.res := congrArg Course.res hcourse
  have hrun : runNumber (startUp s obs) = valueOf l := by rw [runNumber_eq, hcourse]
  have hvalid : s.bkd.ret.valid = true := by
    simp only [startsClean, Bool.and_eq_true, and_assoc] at hclean
    obtain ⟨-, -, -, -, -, -, -, -, -, -, -, -, hvalid, -⟩ := hclean
    exact hvalid
  refine ⟨congrArg Course.started hcourse, congrArg Course.inReset hcourse, congrArg Course.t0 hcourse, ?_, ?_,
    congrArg Prod.fst hstraps, congrArg Prod.snd hstraps, hrun.trans hvalue, (congrArg Course.valid hcourse).trans hvalid, ?_⟩
  · rw [hclk]
    rfl
  · rw [hclk]
    rfl
  · intro m _
    unfold residuals
    rw [hres]

end Sys2Proof.Proofs
end

section
/-!
Capture groups (R73, R585): a first read captures, a last read and 1 ms end the capture; each is a change of the captures and an
answer.
-/
namespace Sys2Proof.Proofs

open Sys2Proof.Machine Sys2Proof.Laws

/-- A meaning that changes no report's input and answers a read: the answer is sent, and nothing else changes. -/
theorem next_whenRunning_answer {s u : State} {k v : Nat} (f : State → State) (h : calm s = true) (hf : f s = answer u k v)
    (hpwr : u.pwr = s.pwr) (hbatch : u.ev.batch = s.ev.batch) (hcis : u.cis = s.cis) :
    ∃ t, (.next (whenRunning s f) : Out) = .next t ∧ Told u t ∧ .read k v ∈ t.hif.out :=
  ⟨_, next_whenRunning_quiet f h hf hpwr hbatch hcis, answer_told u k v, mem_answer_out u k v⟩

/-- The hub with another capture of the shadow words (R73). -/
def withFreeze (s : State) (c : Option (Nat × List Nat)) : State := { s with bkd := { s.bkd with freeze := c } }

/-- The hub with other captures of the groups (R585). -/
def withCaps (s : State) (l : Tbl (Nat × List Nat)) : State := { s with reg := { s.reg with caps := l } }

theorem not_shadowGroup_of_capOf {f g : Nat} (h : capOf f g = true) : ¬ (f = 0 ∧ g = 0) := by
  rintro ⟨rfl, rfl⟩
  exact absurd h (by decide)

section
variable {s : State} (hcalm : calm s = true)

include hcalm in
theorem exec_bkdRtcSh0_captures :
    ∃ t, exec .bkdRtcSh0 s = .next t ∧
      Told (withFreeze s (some (s.bkd.tick, shadowWords (withFreeze s (some (s.bkd.tick, [])))))) t ∧
      .read 0 (s.bkd.tick % 4294967296) ∈ t.hif.out :=
  next_whenRunning_answer _ hcalm rfl rfl rfl rfl

include hcalm in
theorem exec_captureGroupFirstRead_captures {f g : Nat} (h : capOf f g = true) :
    ∃ t, exec (.captureGroupFirstRead f g) s = .next t ∧
      Told (withCaps s (tput s.reg.caps (256 * f + g) (s.bkd.tick, capLive s f g))) t ∧
      .read f (nth 0 (capLive s f g) 0) ∈ t.hif.out :=
  next_whenRunning_answer _ hcalm (if_pos h) rfl rfl rfl

include hcalm in
theorem exec_captureGroupLastRead_ends {f g : Nat} (h : capOf f g = true) :
    ∃ t, exec (.captureGroupLastRead f g) s = .next t ∧ Told (withCaps s (tdel s.reg.caps (256 * f + g))) t ∧
      .read f (capWord s f g 1) ∈ t.hif.out :=
  next_whenRunning_answer _ hcalm ((if_neg (not_shadowGroup_of_capOf h)).trans (if_pos h)) rfl rfl rfl

include hcalm in
theorem exec_captureGroupLastRead_endsFreeze :
    ∃ t, exec (.captureGroupLastRead 0 0) s = .next t ∧ Told (withFreeze s none) t ∧ .read 0 (capWord s 0 0 5) ∈ t.hif.out :=
  next_whenRunning_answer _ hcalm (if_pos ⟨rfl, rfl⟩) rfl rfl rfl

end

theorem exec_shadowFreezeExpire_due {s : State} {f : Nat × List Nat} (hfreeze : s.bkd.freeze = some f)
    (hold : f.1 + 33 ≤ s.bkd.tick) : exec .shadowFreezeExpire s = .next (withFreeze s none) := by
  show execShadowFreezeExpire s = _
  unfold execShadowFreezeExpire
  rw [hfreeze]
  exact congrArg _ (if_pos hold)

theorem exec_captureGroupExpire_due {s : State} {f g : Nat} {c : Nat × List Nat} (hcap : tfind s.reg.caps (256 * f + g) = some c)
    (hold : c.1 + 33 ≤ s.bkd.tick) :
    exec (.captureGroupExpire f g) s = .next (withCaps s (tdel s.reg.caps (256 * f + g))) := by
  show execCaptureGroupExpire f g s = _
  unfold execCaptureGroupExpire
  rw [hcap]
  exact congrArg _ (if_pos hold)

/-- Settles O8: each read is one change of the captures and one answer; an expiry is the change alone. -/
theorem capturedReadsFreezeAndExpire : Obligations.CapturedReadsFreezeAndExpire := by
  intro s hcalm
  refine ⟨exec_bkdRtcSh0_captures hcalm, fun f => exec_shadowFreezeExpire_due, fun f g hgroup => ⟨?first, ?last, ?expire⟩,
    exec_captureGroupLastRead_endsFreeze hcalm⟩
  case first => exact exec_captureGroupFirstRead_captures hcalm hgroup
  case last => exact exec_captureGroupLastRead_ends hcalm hgroup
  case expire => exact fun c => exec_captureGroupExpire_due

end Sys2Proof.Proofs
end

section
/-!
The fault domain of backup faults is BACKUP, domain 4 (Tables EVT.1, EVT.3); domain 3 is CYCLE.
-/
namespace Sys2Proof.Proofs

open Sys2Proof.Machine Sys2Proof.Laws

/-- A running hub whose BACKUP domain handles an OSF fault with sixteen sensor faults pending, and so has no room for another. -/
def backupQueueFull : State :=
  { ev := { doms := [(4, { state := .handling, stack := [⟨0x101, 2, 0, false⟩], queue := List.replicate 16 (0x106, 1) })] } }

/-- A step that asserts a CHIP reset has changed the reset controller. -/
theorem not_told_of_reset {s t : State} (hrun : s.pwr.inReset = false) (hreset : t.pwr.inReset = true) : ¬ Told s t := by
  intro h
  rw [h.kept.pwr, hrun] at hreset
  exact absurd hreset (by decide)

/-- EV_BKD_OSF of a stopped crystal finds the pending queue of BACKUP full: the domain escalates to a CHIP reset (R398, R400). -/
theorem exec_crystalStop_backupQueueFull : ∃ t, exec .crystalStop backupQueueFull = .next t ∧ t.pwr.inReset = true :=
  ⟨_, rfl, by decide⟩

/-- Refutes O9: its premise is that CYCLE, domain 3, is idle, but backup faults go to BACKUP, domain 4; with the pending queue of
BACKUP full a crystal stop ends in CHIP reset. -/
theorem not_supplyAndCrystalEvents : ¬ Obligations.SupplyAndCrystalEvents := by
  intro h
  obtain ⟨-, -, ⟨t, hexec, htold⟩, -⟩ := h backupQueueFull (by decide) (by decide)
  obtain ⟨u, hexec', hreset⟩ := exec_crystalStop_backupQueueFull
  obtain rfl : t = u := by simpa [hexec] using hexec'
  exact not_told_of_reset rfl hreset htold

end Sys2Proof.Proofs
end

section
/-!
The time commands of tenant 0 (R63, R75, R77, R80, R82, R515): a time set works on the tick counter's offset, OSF and the alarms,
and a power-off commits and resets the chip.
-/
namespace Sys2Proof.Proofs

open Sys2Proof.Machine Sys2Proof.Laws

/-! ### Commands that pass their checks -/

theorem checked_of_pass {s : State} {d : Desc} {checks : List (Bool × Nat)} (act : State → State) (h : firstFail checks = none) :
    checked s d checks act = act s := by
  unfold checked
  rw [h]

theorem firstFail_by0 {d : Desc} (h : d.tenant = 0) : firstFail [by0 d] = none := by
  simp [by0, h, firstFail]

/-- A check of tenant 0's right and one more, both of which pass. -/
theorem firstFail_by0_and {d : Desc} {ok : Bool} (st : Nat) (h : d.tenant = 0) (hok : ok = true) :
    firstFail [by0 d, (ok, st)] = none := by
  simp [by0, h, hok, firstFail]

/-- A command of a calm hub whose meaning changes neither the rings, nor the host interface, nor the archive's domain, nor the reset
controller before it completes. -/
theorem next_hostCmd_reply {s u : State} {d : Desc} {opc st : Nat} {data : Bool} {res : Bytes} (act : State → State)
    (h : canTake s d opc data = true) (hact : act (take s d) = reply u d st res) (hrng : u.rng = (take s d).rng)
    (hhif : u.hif = (take s d).hif) (hpwr : u.pwr = (take s d).pwr) (hdoms : u.ev.doms = (take s d).ev.doms) :
    ∃ t, (.next (hostCmd s d opc data act) : Out) = .next t ∧ Told u t ∧ answered s t d st 0 res := by
  obtain ⟨-, -, -, harchive⟩ := canTake_parts h
  have hroom : roomy u 6 = true := by rw [roomy_congr hdoms, roomy_take, harchive]
  have hreset : u.pwr.inReset = s.pwr.inReset := by rw [hpwr, (take_kept s d).pwr]
  exact ⟨_, rfl, (host_finish act h hact hrng hhif hreset hroom).symm⟩

/-! ### READ_TIME, TIME_CHALLENGE and CLEAR_FIRST_SWITCH (R63, R80, R515) -/

/-- RESULT of READ_TIME (Table BKD.11). -/
def timeResult (s : State) : Bytes := le 6 (nowTick s) ++ le 7 (nowStamp s) ++ le 1 (clkTt s) ++ le 1 (osfByte s (calRange s))

/-- The answer reads the clock, the backup domain and the cascade. -/
theorem timeResult_of_kept {s t : State} (h : Kept s t) : timeResult t = timeResult s := by
  have ht : t = { t with clk := s.clk, bkd := s.bkd, ril := s.ril } := by rw [← h.clk, ← h.bkd, ← h.ril]
  rw [ht]
  rfl

theorem exec_readTime_answers {s : State} {d : Desc} (h : canTake s d 0x0201 true = true) (hlen : d.dlen = 0) :
    ∃ t, exec (.readTime d) s = .next t ∧ Told s t ∧ answered s t d stOk 0 (timeResult s) := by
  have hstep : ∃ t, exec (.readTime d) s = .next t ∧ Told (take s d) t ∧ answered s t d stOk 0 (timeResult (take s d)) :=
    next_hostCmd_reply _ h (if_pos hlen) rfl rfl rfl rfl
  rw [timeResult_of_kept (take_kept s d)] at hstep
  obtain ⟨t, hexec, htold, hanswer⟩ := hstep
  exact ⟨t, hexec, (take_told s d).trans htold, hanswer⟩

/-- The hub with a nonce issued at the current tick (R80). -/
def withNonce (s : State) (n : Nat) : State := { s with bkd := { s.bkd with nonce := some (n, s.bkd.tick) } }

theorem exec_timeChallenge_issues {s : State} {d : Desc} (h : canTake s d 0x0202 false = true) (hten : d.tenant = 0)
    (hdrbg : drbgUp s = true) : ∃ t n, exec (.timeChallenge d) s = .next t ∧ n < 2 ^ 128 ∧ t.bkd.nonce = some (n, s.bkd.tick) ∧
      answered s t d stOk 0 (le 16 n) := by
  have htake := take_kept s d
  have hdrbg' : drbgUp (take s d) = true := by rw [← hdrbg, drbgUp, htake.key, drbgUp]
  have hstep : ∃ t, exec (.timeChallenge d) s = .next t ∧
      Told (withNonce (drbgValue (take s d)).2 ((drbgValue (take s d)).1 % 2 ^ 128)) t ∧
      answered s t d stOk 0 (le 16 ((drbgValue (take s d)).1 % 2 ^ 128)) :=
    next_hostCmd_reply _ h (checked_of_pass _ (firstFail_by0_and stRngFail hten hdrbg')) rfl rfl rfl rfl
  obtain ⟨t, hexec, htold, hanswer⟩ := hstep
  refine ⟨t, _, hexec, Nat.mod_lt _ (Nat.two_pow_pos 128), ?_, hanswer⟩
  rw [htold.kept.bkd, ← htake.bkd]
  rfl

/-- The hub without a first-switch record (R63). -/
def withoutFirst (s : State) : State := { s with bkd := { s.bkd with first := none } }

theorem exec_clearFirstSwitch_clears {s : State} {d : Desc} (h : canTake s d 0x0204 false = true) (hten : d.tenant = 0) :
    ∃ t, exec (.clearFirstSwitch d) s = .next t ∧ Told (withoutFirst s) t ∧ answered s t d stOk 0 [] := by
  obtain ⟨t, hexec, htold, hanswer⟩ : ∃ t, exec (.clearFirstSwitch d) s = .next t ∧ Told (withoutFirst (take s d)) t ∧
      answered s t d stOk 0 [] := next_hostCmd_reply _ h (checked_of_pass _ (firstFail_by0 hten)) rfl rfl rfl rfl
  have htake : withoutFirst (take s d) = { take s d with bkd := (withoutFirst s).bkd } := by
    rw [withoutFirst, (take_kept s d).bkd, withoutFirst]
  exact ⟨t, hexec, (htake ▸ told_bkd (take_told s d) (withoutFirst s).bkd).trans htold, hanswer⟩

/-! ### TIME_SET (R75, R77, R80) -/

/-- What follows a time set leaves as it is: the instant, OSF and what enables the alarms, and the blocks that the completion and
the calendars read. -/
structure TimeStands (s t : State) : Prop where
  tick : t.bkd.tick = s.bkd.tick
  epoch : t.bkd.epoch = s.bkd.epoch
  osf : t.bkd.osf = s.bkd.osf
  causes : t.bkd.causes = s.bkd.causes
  alarms : ∀ n, (alarm t n).ctrl = (alarm s n).ctrl
  cus : t.cus = s.cus
  slu : t.slu = s.slu
  rng : t.rng = s.rng
  hif : t.hif = s.hif
  pwr : t.pwr = s.pwr
  doms : t.ev.doms = s.ev.doms

theorem TimeStands.refl (s : State) : TimeStands s s := ⟨rfl, rfl, rfl, rfl, fun _ => rfl, rfl, rfl, rfl, rfl, rfl, rfl⟩

theorem TimeStands.trans {s t u : State} (h : TimeStands s t) (g : TimeStands t u) : TimeStands s u :=
  ⟨g.tick.trans h.tick, g.epoch.trans h.epoch, g.osf.trans h.osf, g.causes.trans h.causes, fun n => (g.alarms n).trans (h.alarms n),
    g.cus.trans h.cus, g.slu.trans h.slu, g.rng.trans h.rng, g.hif.trans h.hif, g.pwr.trans h.pwr, g.doms.trans h.doms⟩

theorem utcTicks_of_bkd {s t : State} (h : t.bkd = s.bkd) : utcTicks t = utcTicks s := by
  rw [utcTicks, h, utcTicks]

theorem TimeStands.utcTicks {s t : State} (h : TimeStands s t) : utcTicks t = utcTicks s := by
  rw [Machine.utcTicks, h.tick, h.epoch, Machine.utcTicks]

theorem raise_info_timeStands {s : State} {e : EvReq} (h : severity e.id e.star = 0) : TimeStands s (raise s e) := by
  have hkept := (raise_info_told (s := s) h).kept
  have hio : Io s (raise s e) := raise_of_info h ▸ inform_io s e
  refine ⟨?_, ?_, ?_, ?_, fun n => ?_, hkept.cus, hkept.slu, hio.rng, hio.hif, hkept.pwr, raise_info_doms h⟩
  case refine_5 => rw [alarm, hkept.bkd, alarm]
  all_goals rw [hkept.bkd]

theorem legalLog_timeStands (s : State) (typ flags mp : Nat) (data : Bytes) : TimeStands s (legalLog s typ flags mp data) := by
  obtain ⟨l, hl⟩ := legalLog_eq s typ flags mp data
  rw [hl]
  exact ⟨rfl, rfl, rfl, rfl, fun _ => rfl, rfl, rfl, rfl, rfl, rfl, rfl⟩

/-- The second at which an alarm last matched enables nothing. -/
theorem setAlarmLast_timeStands (s : State) (n : Nat) (x : Option Int) : TimeStands s (setAlarm s n fun a => { a with last := x }) := by
  have hctrl : ∀ j, (alarm (setAlarm s n fun a => { a with last := x }) j).ctrl = (alarm s j).ctrl := by
    intro j
    by_cases hn : n = 0 <;> by_cases hj : j = 0 <;> simp [alarm, setAlarm, setBkd, hn, hj]
  refine ⟨?_, ?_, ?_, ?_, hctrl, rfl, rfl, rfl, rfl, rfl, rfl⟩ <;> (unfold setAlarm setBkd; split <;> rfl)

/-- An alarm that is off does not fire at a time set; one that was passed backwards may match again (R75). -/
theorem stepAlarm_timeStands {s : State} {n : Nat} (old new : Int) (hoff : bit (alarm s n).ctrl 0 = false) :
    TimeStands s (stepAlarm s n old new) := by
  unfold stepAlarm
  extract_lets a
  split
  case isTrue => exact setAlarmLast_timeStands s n none
  case isFalse =>
    rw [if_neg (by simp [a, hoff])]
    exact TimeStands.refl s

theorem dueTimeSet_of_no_chains {s : State} (h : openChains s = []) (step : Int) (oldTt : Nat) : dueTimeSet s step oldTt = s := by
  unfold dueTimeSet
  rw [h, List.foldl_nil]

theorem openChains_of_cus {s t : State} (h : t.cus = s.cus) : openChains t = openChains s := by
  rw [openChains, h, openChains]

theorem calPresent_of_slu {s t : State} (h : t.slu = s.slu) (c : Nat) (passive : Bool) :
    calPresent t c passive = calPresent s c passive := by
  simp only [calPresent, slotPresent, cfgRd, cfg, cfgBytes, h]

/-- No calendar is present, active or passive. -/
def NoCalendar (s : State) : Prop := ∀ c < 33, calPresent s c false = false ∧ calPresent s c true = false

theorem NoCalendar.of_slu {s t : State} (h : NoCalendar s) (hslu : t.slu = s.slu) : NoCalendar t := fun c hc => by
  rw [calPresent_of_slu hslu, calPresent_of_slu hslu]
  exact h c hc

theorem reevaluateAll_of_no_calendar {s : State} (h : NoCalendar s) (flg : Nat) : reevaluateAll s flg = s :=
  foldl_fixed _ _ _ fun c hc => by
    have hlt : c < 33 := by
      rw [span_eq_range', List.mem_range'_1] at hc
      omega
    obtain ⟨hactive, hpassive⟩ := h c hlt
    simp [hactive, hpassive]

/-- The hub once the offset is set and OSF is clear (R77, R80): what follows a time set starts from here. -/
def withTime (s : State) (utc : Int) : State :=
  { s with
    bkd := { s.bkd with epoch := utc - (s.bkd.tick : Int), osf := false, causes := 0, causesShut := 0, vbatFrom := s.bkd.tick,
                        stepBack := if utc < utcTicks s then some (utcTicks s) else none }
    ril := { s.ril with skewed := false } }

theorem utcTicks_withTime (s : State) (utc : Int) : utcTicks (withTime s utc) = utc := by
  simp only [utcTicks, withTime]
  omega

/-- With no alarm on, no chain open and no calendar, nothing that follows a time set moves the time again. -/
theorem applyTime_timeStands {s : State} (utc : Int) (hoff : ∀ n, bit (alarm s n).ctrl 0 = false) (hchains : openChains s = [])
    (hcal : NoCalendar s) : TimeStands (withTime s utc) (applyTime s utc) := by
  unfold applyTime
  extract_lets old oldTt was s0 ril1 s1 s2 s3 s4 pqe s5
  have hlog : TimeStands s1 (legalLog s2 0x10 0 0xFFFF (leInt 8 (utc - old))) :=
    (raise_info_timeStands rfl).trans (legalLog_timeStands _ _ _ _ _)
  have hdue : TimeStands s1 s3 := by
    simp only [s3]
    rw [dueTimeSet_of_no_chains ((openChains_of_cus hlog.cus).trans hchains)]
    exact hlog
  have hoff3 : ∀ n, bit (alarm s3 n).ctrl 0 = false := fun n => by rw [hdue.alarms]; exact hoff n
  have hfirst : TimeStands s3 (stepAlarm s3 0 old utc) := stepAlarm_timeStands old utc (hoff3 0)
  have hsecond : TimeStands s3 s4 :=
    hfirst.trans (stepAlarm_timeStands old utc (by rw [hfirst.alarms]; exact hoff3 1))
  have hend : TimeStands s1 s5 :=
    (hdue.trans hsecond).trans ⟨rfl, rfl, rfl, rfl, fun _ => rfl, rfl, rfl, rfl, rfl, rfl, rfl⟩
  have hnone : NoCalendar s1 := hcal
  rw [reevaluateAll_of_no_calendar (hnone.of_slu hend.slu)]
  exact hend

/-- The checks of a time set read the backup domain and the key store. -/
theorem timeChecks_of_kept {s t : State} (h : Kept s t) (b : Bytes) : timeChecks t b = timeChecks s b := by
  have ht : t = { t with bkd := s.bkd, key := s.key } := by rw [← h.bkd, ← h.key]
  rw [ht]
  rfl

/-- EV_BKD_TIME_REFUSED (R80). -/
def refusedRequest (st : Nat) : EvReq := { id := 0x103, data := Config.eventData 0x103 [(st : Int)] }

/-- A time set whose message the operator key verifies ends the nonce, whatever follows (R80). -/
def nonceSpent (s : State) (b : Bytes) : State :=
  if operatorSigned s (b.take 36) (slice b 36 64) then { s with bkd := { s.bkd with nonce := none } } else s

theorem nonceSpent_timeStands (s : State) (b : Bytes) : TimeStands s (nonceSpent s b) := by
  unfold nonceSpent
  split
  · exact ⟨rfl, rfl, rfl, rfl, fun _ => rfl, rfl, rfl, rfl, rfl, rfl, rfl⟩
  · exact TimeStands.refl s

section
variable {s : State} {d : Desc} {b : Bytes} (h : canTake s d 0x0203 true = true) (hten : d.tenant = 0) (hlen : 100 ≤ d.dlen)
  (hbuf : 100 ≤ b.length)

include hten hlen hbuf in
theorem timeSet_permitted : firstFail [by0 d, (decide (100 ≤ d.dlen ∧ 100 ≤ b.length), stDataShort)] = none :=
  firstFail_by0_and _ hten (decide_eq_true ⟨hlen, hbuf⟩)

include h hten hlen hbuf in
/-- A refused time set leaves the time and OSF (R80). -/
theorem exec_timeSet_refused {st : Nat} (hfail : firstFail (timeChecks s b) = some st) :
    ∃ t, exec (.timeSet d b) s = .next t ∧ t.bkd.tick = s.bkd.tick ∧ t.bkd.osf = s.bkd.osf ∧ t.bkd.causes = s.bkd.causes ∧
      utcTicks t = utcTicks s := by
  have hstands := (nonceSpent_timeStands (take s d) b).trans (raise_info_timeStands (e := refusedRequest st) rfl)
  obtain ⟨t, hexec, htold, -⟩ : ∃ t, exec (.timeSet d b) s = .next t ∧
      Told (raise (nonceSpent (take s d) b) (refusedRequest st)) t ∧ answered s t d st 0 [] := by
    refine next_hostCmd_reply _ h ((checked_of_pass _ (timeSet_permitted hten hlen hbuf)).trans ?_) hstands.rng hstands.hif
      hstands.pwr hstands.doms
    rw [timeChecks_of_kept (take_kept s d), hfail]
    rfl
  have hbkd : t.bkd = (raise (nonceSpent (take s d) b) (refusedRequest st)).bkd := htold.kept.bkd
  have htake : (take s d).bkd = s.bkd := (take_kept s d).bkd
  refine ⟨t, hexec, ?_, ?_, ?_, ?_⟩
  · rw [hbkd, hstands.tick, htake]
  · rw [hbkd, hstands.osf, htake]
  · rw [hbkd, hstands.causes, htake]
  · rw [utcTicks_of_bkd hbkd, hstands.utcTicks, utcTicks_of_bkd htake]

include h hten hlen hbuf in
/-- A time set that passes every check sets UTC and clears OSF (R77, R80). -/
theorem exec_timeSet_accepted (hpass : firstFail (timeChecks s b) = none) (hoff : ∀ n, bit (alarm s n).ctrl 0 = false)
    (hchains : openChains s = []) (hcal : NoCalendar s) :
    ∃ t, exec (.timeSet d b) s = .next t ∧ t.bkd.tick = s.bkd.tick ∧ t.bkd.osf = false ∧ t.bkd.causes = 0 ∧
      utcTicks t = ((fld b 28 8 : Nat) : Int) := by
  have htake := take_kept s d
  have hspent := nonceSpent_timeStands (take s d) b
  have hset := applyTime_timeStands (s := nonceSpent (take s d) b) ((fld b 28 8 : Nat) : Int)
    (fun n => by rw [hspent.alarms, alarm, htake.bkd]; exact hoff n)
    ((openChains_of_cus (hspent.cus.trans htake.cus)).trans hchains)
    (hcal.of_slu (hspent.slu.trans htake.slu))
  obtain ⟨t, hexec, htold, -⟩ : ∃ t, exec (.timeSet d b) s = .next t ∧
      Told (applyTime (nonceSpent (take s d) b) ((fld b 28 8 : Nat) : Int)) t ∧
      answered s t d stOk 0 (leInt 8 ((fld b 28 8 : Nat) - utcTicks (take s d)) ++ le 6 (nowTick (take s d))) := by
    refine next_hostCmd_reply _ h ((checked_of_pass _ (timeSet_permitted hten hlen hbuf)).trans ?_) (hset.rng.trans hspent.rng)
      (hset.hif.trans hspent.hif) (hset.pwr.trans hspent.pwr) (hset.doms.trans hspent.doms)
    rw [timeChecks_of_kept htake, hpass]
    rfl
  have hbkd : t.bkd = (applyTime (nonceSpent (take s d) b) ((fld b 28 8 : Nat) : Int)).bkd := htold.kept.bkd
  refine ⟨t, hexec, ?_, ?_, ?_, ?_⟩
  · rw [hbkd, hset.tick, ← htake.bkd, ← hspent.tick]
    rfl
  · rw [hbkd, hset.osf]
    rfl
  · rw [hbkd, hset.causes]
    rfl
  · rw [utcTicks_of_bkd hbkd, hset.utcTicks]
    exact utcTicks_withTime _ _

end

/-! ### POWER_OFF (R82, R515, R576) -/

/-- The end of a step that came to a CHIP reset leaves the reset controller and PWRON as the reset has them (R564). -/
theorem settle_of_reset {s : State} (h : s.pwr.inReset = true) :
    (settle s).pwr = s.pwr ∧ (settle s).bkd.pwronLow = s.bkd.pwronLow ∧ (settle s).bkd.lowSince = s.bkd.lowSince := by
  unfold settle
  rw [if_pos h]
  exact ⟨rfl, rfl, rfl⟩

theorem finishUnit_of_no_tail {s : State} (h : s.cis.tail = []) : finishUnit s = s := by
  unfold finishUnit
  rw [h]

/-- A completion into a ring that is not being deleted goes to the host, and no further. -/
theorem complete_sent {s : State} {d : Desc} (q st x : Nat) (r : Bytes) (h : (ring s d.tenant d.ring).state ≠ .deleting) :
    Sent s (complete s d q st x r) := by
  have hids := (completeOne_told s d q st x r).ids d.tenant d.ring
  have hstate : (ring (completeOne s d q st x r) d.tenant d.ring).state = (ring s d.tenant d.ring).state :=
    congrArg (fun p => p.2.1) hids
  unfold complete settleDelete
  rw [if_neg fun hdel => h (hstate ▸ hdel.1)]
  exact completeOne_sent s d q st x r

/-- The freeze of a hub off the air ends its plays; the archive stands, and no reset begins (R573). -/
theorem commitFreeze_off_air {s : State} (hair : s.cmp.air = none) : Beside s (commitFreeze s) := by
  unfold commitFreeze
  extract_lets pwr0 s0 s1
  have hfreeze : Beside s s0 := ⟨rfl, rfl, rfl, rfl, rfl, rfl, rfl, rfl, rfl, rfl, rfl, id, rfl⟩
  have hair0 : s0.cmp.air = none := hair
  have hsame : s1 = s0 := by simp only [s1, hair0]
  rw [hsame]
  unfold bothChans
  exact (hfreeze.trans (endPlays_beside s0 0 6 _)).trans (endPlays_beside _ 1 6 _)

/-- A CHIP reset of a hub that runs notes its cause (R564, R570). -/
theorem enterChipReset_cause {s : State} (scope cause domain : Nat) (hfree : s.pwr.inReset = false) :
    (enterChipReset s scope cause domain).pwr.inReset = true ∧ (enterChipReset s scope cause domain).pwr.last.cause = cause := by
  unfold enterChipReset
  rw [if_neg (by simp [hfree])]
  exact ⟨rfl, rfl⟩

/-- The commit of a power-off with nothing under way ends in CHIP reset, with PWRON low from now on (R82, R576): none of its steps
begins a reset of its own. -/
theorem powerCommit_off {s : State} (us : Nat) (hfree : s.pwr.inReset = false) (hair : s.cmp.air = none) (htail : s.cis.tail = [])
    (hincs : s.cis.incs = []) :
    (powerCommit s 6 6 us).pwr.inReset = true ∧ (powerCommit s 6 6 us).pwr.last.cause = 6 ∧
      (powerCommit s 6 6 us).bkd.pwronLow = true ∧ (powerCommit s 6 6 us).bkd.lowSince = s.bkd.tick := by
  have hfreeze := commitFreeze_off_air hair
  unfold powerCommit
  extract_lets s1 s2 t ev s3 pwr last s4 s5 s6 r pwrHeld bkdLow
  have hunit : s2 = commitFreeze s := by
    have hnone : (commitFreeze s).cis.tail = [] := by rw [hfreeze.cis, htail]
    simp only [s2, s1, Nat.reduceLeDiff, if_true, finishUnit_of_no_tail hnone]
  have hpairs : t = commitFreeze s := by
    simp only [t, hunit, hfreeze.cis, hincs, List.length_nil, finishPairs]
  have hsteps : s3.pwr = t.pwr := by simp only [s3, Nat.reduceLeDiff, if_true]
  have hruns : s4.pwr.inReset = false := by
    show s3.pwr.inReset = false
    rw [hsteps, hpairs, hfreeze.inReset, hfree]
  clear_value s4
  have himage : s5.pwr = s4.pwr := by
    simp only [s5]
    split <;> rfl
  have hpage : s6.pwr = s5.pwr := by simp only [s6, closeCustodyPage, Nat.reduceLeDiff, if_true]
  have h6 : s6.pwr.inReset = false := by rw [hpage, himage, hruns]
  clear_value s6
  obtain ⟨hreset, hcause⟩ := enterChipReset_cause 1 6 0xFF h6
  rw [if_pos (by decide), if_neg (by decide)]
  exact ⟨hreset, hcause, rfl, rfl⟩

theorem exec_powerOff_resets {s : State} {d : Desc} (us : Nat) (h : canTake s d 0x0205 false = true) (hten : d.tenant = 0)
    (hpolicy : s.bkd.policy ≠ 0) (hincs : s.cis.incs = []) (hair : s.cmp.air = none) (htail : s.cis.tail = []) :
    ∃ t, exec (.powerOff d us) s = .next t ∧ t.pwr.inReset = true ∧ t.pwr.last.cause = 6 ∧ t.bkd.pwronLow = true ∧
      t.bkd.lowSince = s.bkd.tick := by
  obtain ⟨htaken, -, hfree, -⟩ := canTake_parts h
  have htake := take_sent s d
  have hring : (ring (take s d) d.tenant d.ring).state ≠ .deleting := by
    obtain ⟨-, hsub, -⟩ := take_rings (taken_ready htaken)
    obtain ⟨-, hactive, -⟩ := ready_rings (taken_ready htaken)
    rw [hsub]
    simp [hactive]
  have hreply : Sent s (reply (take s d) d stOk []) := htake.trans (complete_sent _ _ _ _ hring)
  obtain ⟨hreset, hcause, hlow, hsince⟩ := powerCommit_off (s := reply (take s d) d stOk []) us (by rw [hreply.kept.pwr, hfree])
    (by rw [hreply.kept.cmp, hair]) (by rw [hreply.cis, htail]) (by rw [hreply.cis, hincs])
  have hmay : ((take s d).bkd.policy != 0) = true := by rw [htake.kept.bkd, bne_iff_ne]; exact hpolicy
  have hexec : exec (.powerOff d us) s = .next (settle (powerCommit (reply (take s d) d stOk []) 6 6 us)) := by
    show execPowerOff d us s = _
    unfold execPowerOff
    rw [hostCmd_taken _ htaken, checked_of_pass _ (firstFail_by0_and stNotPermitted hten hmay)]
  obtain ⟨hpwr, hlow', hsince'⟩ := settle_of_reset hreset
  refine ⟨_, hexec, ?_, ?_, hlow'.trans hlow, hsince'.trans (hsince.trans (by rw [hreply.kept.bkd]))⟩
  · rw [hpwr, hreset]
  · rw [hpwr, hcause]

/-! ### The obligation -/

/-- Settles O11: three commands answer at once; of what follows a time set nothing moves the time or OSF again; and a power-off
with nothing to finish goes straight to its CHIP reset. -/
theorem timeCommandsOfTenantZero : Obligations.TimeCommandsOfTenantZero := by
  intro s d
  refine ⟨exec_readTime_answers, exec_timeChallenge_issues, exec_clearFirstSwitch_clears, ?timeSet, ?powerOff⟩
  case timeSet =>
    intro b h hten hlen hbuf hoff0 hoff1 hchains hcal
    have hoff : ∀ n, bit (alarm s n).ctrl 0 = false := by
      intro n
      unfold alarm
      split
      · exact hoff0
      · exact hoff1
    cases hcheck : firstFail (timeChecks s b) with
    | none => simpa using exec_timeSet_accepted h hten hlen hbuf hcheck hoff hchains hcal
    | some st => simpa using exec_timeSet_refused h hten hlen hbuf hcheck
  case powerOff =>
    intro us h hten hpolicy hincs hair htail _
    exact exec_powerOff_resets us h hten hpolicy hincs hair htail

end Sys2Proof.Proofs
end

section
/-!
The hub's side of a head (R90, R94, R96, R110, R119): a message queued to a head changes only the ring's queue and the head's next
MSEQ, an event about a head works beside the ring, and a step ends with what its work left of the ring.
-/
namespace Sys2Proof.Proofs

open Sys2Proof.Machine Sys2Proof.Laws

/-! ### Steps that work on the ring -/

/-- The work from `s` to `t` has begun no CHIP reset and has left the archive's fault domain alone, so the end of a calm hub's step
only reports what it did. -/
structure Uncut (s t : State) : Prop where
  inReset : t.pwr.inReset = s.pwr.inReset
  archiveDom : dom t 6 = dom s 6

theorem Uncut.refl (s : State) : Uncut s s := ⟨rfl, rfl⟩

theorem Uncut.trans {s t u : State} (h : Uncut s t) (g : Uncut t u) : Uncut s u :=
  ⟨g.inReset.trans h.inReset, g.archiveDom.trans h.archiveDom⟩

theorem Beside.uncut {s t : State} (h : Beside s t) : Uncut s t := ⟨h.inReset, h.archiveDom⟩

theorem Metered.uncut {s t : State} (h : Metered s t) : Uncut s t := ⟨by rw [h.pwr], dom_congr h.doms 6⟩

/-- A change of the ring block alone. -/
theorem Uncut.of_ply {s t : State} (h : t = { s with ply := t.ply }) : Uncut s t := by
  rw [h]
  exact ⟨rfl, rfl⟩

/-- The step of a calm hub whose work is `u`: it ends in `u` but for reports. -/
theorem next_whenRunning_kept {s : State} (f : State → State) {u : State} (hcalm : calm s = true) (hu : f s = u) (hwork : Uncut s u) :
    ∃ t, (.next (whenRunning s f) : Out) = .next t ∧ Kept u t := by
  subst hu
  exact ⟨_, rfl, (whenRunning_told_of_calm f hcalm hwork.inReset hwork.archiveDom).kept⟩

theorem head_of_ply {s t : State} (h : t.ply = s.ply) (p : Nat) : head t p = head s p := by
  unfold head
  rw [h]

/-! ### Messages to a head (R93, R96) -/

/-- A head that expects another next MSEQ. -/
def withMseq (h : Head) (n : Nat) : Head := { h with mseq := n }

/-- `t` differs from `s` by messages queued to the head at `p`. -/
structure Sends (p : Nat) (s t : State) : Prop where
  rest : t = { s with ply := t.ply }
  queue : s.ply.queue <+: t.ply.queue
  head : ∃ n, head t p = withMseq (head s p) n

theorem Sends.refl (p : Nat) (s : State) : Sends p s s := ⟨rfl, List.prefix_refl _, _, rfl⟩

theorem Sends.trans {p : Nat} {s t u : State} (h : Sends p s t) (g : Sends p t u) : Sends p s u := by
  obtain ⟨n, hn⟩ := h.head
  obtain ⟨k, hk⟩ := g.head
  refine ⟨?_, h.queue.trans g.queue, k, by rw [hk, hn]; rfl⟩
  rw [g.rest, h.rest]

theorem Sends.uncut {p : Nat} {s t : State} (h : Sends p s t) : Uncut s t := .of_ply h.rest

theorem queueFrags_sends (p typ : Nat) (release : Option Nat) (l : List Bytes) (frag : Nat) (s : State) :
    Sends p s (queueFrags s p typ frag release l) := by
  induction l generalizing s frag with
  | nil => exact Sends.refl p s
  | cons b l ih =>
    refine Sends.trans ?_ (ih (frag + 1) _)
    exact ⟨rfl, List.prefix_append _ _, _, head_setHead _ _ _⟩

theorem sendShort_sends (s : State) (p typ : Nat) (payload : Bytes) : Sends p s (sendShort s p typ payload) :=
  queueFrags_sends p typ none [payload] 0 s

theorem sendLong_sends (s : State) (p typ : Nat) (payload : Bytes) (release : Option Nat) :
    Sends p s (sendLong s p typ payload release) := queueFrags_sends p typ release _ 0 s

/-- A long message of at most 92 bytes waits for a lane in one fragment (R93). -/
theorem sendLong_queues (s : State) (p typ : Nat) {payload : Bytes} (release : Option Nat) (h : payload.length ≤ 92) :
    ∃ m ∈ (sendLong s p typ payload release).ply.queue, m.addr = p ∧ m.typ = typ ∧ m.payload = payload := by
  have hone : chunks 92 16 payload = [payload] := by rw [chunks, if_pos h]
  unfold sendLong
  rw [hone]
  exact ⟨_, List.mem_append_right _ (List.mem_singleton.mpr rfl), rfl, rfl, rfl⟩

theorem acked_of_ply {s t : State} (h : t.ply = s.ply) (p : Nat) (b : Bytes) : acked t p b ↔ acked s p b := by
  unfold acked
  rw [h]

theorem acked_setHead (s : State) (q : Nat) (h : Head) (p : Nat) (b : Bytes) : acked (setHead s q h) p b ↔ acked s p b := Iff.rfl

/-- An ACK that waits for its lane still waits when more has been queued. -/
theorem acked_of_queue {s t : State} {p : Nat} {b : Bytes} (h : acked s p b) (hqueue : s.ply.queue <+: t.ply.queue) : acked t p b := by
  obtain ⟨m, hm, hack⟩ := h
  exact ⟨m, hqueue.subset hm, hack⟩

theorem setHead_uncut (s : State) (p : Nat) (h : Head) : Uncut s (setHead s p h) := ⟨rfl, rfl⟩

theorem dropMessages_uncut (s : State) (p : Nat) : Uncut s (dropMessages s p) := ⟨rfl, rfl⟩

/-- A head to which a configuration has gone out: its APPLY_FRAME, and its last fragment with whether that is acknowledged. -/
def withConfig (h : Head) (apply : Option Nat) (last : Nat) (done : Bool) : Head :=
  { h with applyFrame := apply, configMseq := last, configAcked := done }

/-- A configuration goes out in fragments, and the head notes the last one and the frame it applies at (R137). -/
theorem sendConfig_eq (s src : State) (p f : Nat) : ∃ u, Sends p s u ∧
    sendConfig s src p f = setHead u p (withConfig (head u p) (some f) (((head u p).mseq + 65535) % 65536) false) :=
  ⟨_, queueFrags_sends p 0x44 none _ 0 s, rfl⟩

theorem compareConfig_spec (s : State) (p : Nat) :
    Uncut s (compareConfig s p) ∧ s.ply.queue <+: (compareConfig s p).ply.queue ∧ ∃ n f q a,
      head (compareConfig s p) p = withConfig (withMseq (head s p) n) f q a := by
  unfold compareConfig
  split
  · exact ⟨Uncut.refl s, List.prefix_refl _, _, _, _, _, rfl⟩
  · obtain ⟨u, hsent, hu⟩ := sendConfig_eq s s p (boundaryFrom s (s.ply.frame + 32)).2
    obtain ⟨n, hn⟩ := hsent.head
    rw [hu]
    refine ⟨hsent.uncut.trans ⟨rfl, rfl⟩, hsent.queue, ?_⟩
    rw [head_setHead, hn]
    exact ⟨n, _, _, _, rfl⟩

/-! ### Head states (Table PLY.7) -/

/-- EV_PLY and EV_HED faults go to a domain whose escalation is no CHIP reset. -/
theorem plyEvent_beside (s : State) {id : Nat} (p : Nat) (fields : List Int) (h : resetsChip (defaultDomain id) = false) :
    Beside s (plyEvent s id p fields) := raise_beside s _ (.inr h)

/-- A head in another state, with the frame in which its last session ended. -/
def inHeadState (h : Head) (st : HeadState) (ended : Option Nat) : Head := { h with state := st, ended := ended }

/-- The hub with the head at `p` in another state. -/
def withHeadState (s : State) (p : Nat) (st : HeadState) : State :=
  setHead s p (inHeadState (head s p) st (if (head s p).state = .active then some s.ply.frame else (head s p).ended))

/-- A head that is not in the state moves to it, with an INFO event. -/
theorem setHeadState_of_ne {s : State} {p : Nat} {st : HeadState} (cause : Nat) (h : (head s p).state ≠ st) :
    ∃ e, setHeadState s p st cause = inform (withHeadState s p st) e :=
  ⟨_, (if_neg h).trans (raise_of_info rfl)⟩

theorem setHeadState_beside {s : State} {p : Nat} {st : HeadState} (cause : Nat) (h : (head s p).state ≠ st) :
    Beside (withHeadState s p st) (setHeadState s p st cause) := by
  obtain ⟨e, he⟩ := setHeadState_of_ne cause h
  rw [he]
  exact inform_beside _ _

/-- Whatever state the head was in: it is in the new one, and it keeps all but that state and the end of its session. -/
theorem setHeadState_spec (s : State) (p : Nat) (st : HeadState) (cause : Nat) :
    Uncut s (setHeadState s p st cause) ∧ (setHeadState s p st cause).ply.queue = s.ply.queue ∧
      ∃ e, head (setHeadState s p st cause) p = inHeadState (head s p) st e := by
  by_cases h : (head s p).state = st
  · have hstays : setHeadState s p st cause = s := if_pos h
    rw [hstays]
    exact ⟨Uncut.refl s, rfl, (head s p).ended, by rw [inHeadState, ← h]⟩
  · have hmoves := setHeadState_beside cause h
    refine ⟨Uncut.trans (t := withHeadState s p st) ⟨rfl, rfl⟩ hmoves.uncut, by rw [hmoves.ply]; rfl, ?_⟩
    rw [head_of_ply hmoves.ply, withHeadState, head_setHead]
    exact ⟨_, rfl⟩

theorem setHeadState_state (s : State) (p : Nat) (st : HeadState) (cause : Nat) :
    (head (setHeadState s p st cause) p).state = st := by
  obtain ⟨-, -, e, he⟩ := setHeadState_spec s p st cause
  rw [he, inHeadState]

theorem exclude_spec (s : State) (p cause : Nat) (counted : Bool) :
    Uncut s (exclude s p cause counted) ∧ (head (exclude s p cause counted) p).state = .excluded := by
  unfold exclude
  extract_lets h s0 recent list s1
  have hleave : Uncut s s0 := by
    simp only [s0]
    split
    · exact (dropMessages_uncut s p).trans (sendShort_sends _ p 7 [1]).uncut
    · exact Uncut.refl s
  have hmoves : Uncut s0 s1 := (setHeadState_spec s0 p .excluded cause).1
  refine ⟨(hleave.trans hmoves).trans ⟨rfl, rfl⟩, ?_⟩
  rw [head_setHead]
  exact setHeadState_state s0 p .excluded cause

theorem forceRejoin_spec (s : State) (p cause : Nat) :
    Uncut s (forceRejoin s p cause) ∧ (head (forceRejoin s p cause) p).state = .repeater := by
  unfold forceRejoin
  extract_lets s1 s2
  have hleave : Uncut s s1 := (dropMessages_uncut s p).trans (sendShort_sends _ p 7 [0]).uncut
  have hmoves : Uncut s1 s2 := (setHeadState_spec s1 p .repeater cause).1
  refine ⟨(hleave.trans hmoves).trans ⟨rfl, rfl⟩, ?_⟩
  rw [head_setHead]
  exact setHeadState_state s1 p .repeater cause

/-! ### Containers of a head (R90, R94, R96) -/

/-- A head that has taken a container, the last of its message or not. -/
def takingBox (s : State) (p : Nat) (b : Bytes) : Head :=
  { head s p with
    taken := (boxMseq b :: (head s p).taken).take 64, fragTyp := boxType b,
    fragNext := if boxMore b then boxFrag b + 1 else 0, fragBytes := if boxMore b then boxWhole s p b else [] }

theorem head_receivedBox (s : State) (p : Nat) (b : Bytes) : ∃ n, head (receivedBox s p b) p = withMseq (takingBox s p b) n := by
  obtain ⟨n, hn⟩ := (sendShort_sends (setHead s p (takingBox s p b)) p 4 (le 2 (boxMseq b))).head
  rw [head_setHead] at hn
  exact ⟨n, hn⟩

/-- A container that is acknowledged: the step's work is its action on the whole message. -/
theorem next_received {s u : State} {p typ : Nat} {b : Bytes} (act : State → Bytes → State) (hcalm : calm s = true)
    (harrives : arrives s p typ b = true) (hack : typ ≠ 0x87) (hu : act (receivedBox s p b) (boxWhole s p b) = u)
    (hwork : Uncut (receivedBox s p b) u) :
    ∃ t, (.next (whenRunning s fun s => upstream s p typ b act) : Out) = .next t ∧ Kept u t :=
  next_whenRunning_kept _ hcalm ((upstream_of_arrives act harrives hack).trans hu)
    (Uncut.trans (t := receivedBox s p b) ⟨rfl, rfl⟩ hwork)

end Sys2Proof.Proofs
end

section
/-!
Joining (R98, R102, R103, R105, R106, R110): each message of a join finds the head as it was, moves it, and queues what follows
behind its ACK; exclusion and its end move the head's state.
-/
namespace Sys2Proof.Proofs

open Sys2Proof.Machine Sys2Proof.Laws

/-! ### The head that a message finds -/

theorem pos_of_arrives {s : State} {p typ : Nat} {b : Bytes} (h : arrives s p typ b = true) : p < 64 := by
  unfold arrives at h
  simp only [Bool.and_eq_true, decide_eq_true_eq] at h
  obtain ⟨⟨⟨⟨⟨⟨⟨⟨⟨-, hpos⟩, -⟩, -⟩, -⟩, -⟩, -⟩, -⟩, -⟩, -⟩ := h
  exact hpos

section
variable (s : State) (p : Nat) (b : Bytes)

theorem receivedBox_state : (head (receivedBox s p b) p).state = (head s p).state := by
  obtain ⟨n, hn⟩ := head_receivedBox s p b
  rw [hn, withMseq, takingBox]

theorem receivedBox_join : (head (receivedBox s p b) p).join = (head s p).join := by
  obtain ⟨n, hn⟩ := head_receivedBox s p b
  rw [hn, withMseq, takingBox]

theorem receivedBox_serial : (head (receivedBox s p b) p).serial = (head s p).serial := by
  obtain ⟨n, hn⟩ := head_receivedBox s p b
  rw [hn, withMseq, takingBox]

theorem receivedBox_unsupported : (head (receivedBox s p b) p).unsupported = (head s p).unsupported := by
  obtain ⟨n, hn⟩ := head_receivedBox s p b
  rw [hn, withMseq, takingBox]

theorem receivedBox_keys : (head (receivedBox s p b) p).keys = (head s p).keys := by
  obtain ⟨n, hn⟩ := head_receivedBox s p b
  rw [hn, withMseq, takingBox]

end

/-- The configuration, the time and the cascade do not change with a container. -/
theorem receivedBox_stands (s : State) (p : Nat) (b : Bytes) :
    (receivedBox s p b).slu = s.slu ∧ (receivedBox s p b).bkd = s.bkd ∧ (receivedBox s p b).ril = s.ril := by
  rw [(receivedBox_frame s p b).1]
  exact ⟨rfl, rfl, rfl⟩

theorem receivedBox_serialFits (s : State) (p : Nat) (b : Bytes) (serial : Nat) :
    serialFits (receivedBox s p b) p serial = serialFits s p serial := by
  simp only [serialFits, expectSerial, cfg, cfgBytes, (receivedBox_stands s p b).1]

/-! ### Announcement (R98) -/

theorem announced_notes {s : State} {p : Nat} {m : Bytes} (hstate : (head s p).state = .repeater) (hproto : fld m 12 1 = 1)
    (hsupported : (head s p).unsupported = false) (hserial : serialFits s p (fld m 0 8) = true) :
    announced s p m = noteAnnounce s p m := by
  simp [announced, hstate, hproto, hsupported, hserial]

theorem exec_announce_starts {s : State} {p : Nat} {b : Bytes} (hcalm : calm s = true) (harrives : arrives s p 0x81 b = true)
    (hstate : (head s p).state = .repeater) (hproto : fld (boxWhole s p b) 12 1 = 1) (hsupported : (head s p).unsupported = false)
    (hserial : serialFits s p (fld (boxWhole s p b) 0 8) = true) :
    ∃ t, exec (.announce p b) s = .next t ∧ (head t p).serial = fld (boxWhole s p b) 0 8 ∧ (head t p).state = .repeater ∧
      (head t p).join.step = 1 ∧ (head t p).join.certLen = fld (boxWhole s p b) 10 2 ∧ acked t p b := by
  have hplace : p ≠ 0xFE := Nat.ne_of_lt (Nat.lt_trans (pos_of_arrives harrives) (by decide))
  have hexec : exec (.announce p b) s = .next (whenRunning s fun s => upstream s p 0x81 b fun s m => announced s p m) := by
    show execAnnounce p b s = _
    simp only [execAnnounce, hplace, if_false]
  have hfound := (receivedBox_state s p b).trans hstate
  have hnotes : announced (receivedBox s p b) p (boxWhole s p b) = noteAnnounce (receivedBox s p b) p (boxWhole s p b) :=
    announced_notes hfound hproto ((receivedBox_unsupported s p b).trans hsupported)
      ((receivedBox_serialFits s p b _).trans hserial)
  obtain ⟨t, ht, hkept⟩ := next_received (fun s m => announced s p m) hcalm harrives (by decide) hnotes ⟨rfl, rfl⟩
  refine ⟨t, hexec.trans ht, ?_⟩
  rw [acked_of_ply hkept.ply, head_of_ply hkept.ply, noteAnnounce, head_setHead, acked_setHead]
  exact ⟨rfl, hfound, rfl, rfl, receivedBox_acked s p b⟩

/-! ### Certificate (R102, R103) -/

/-- The certificate's check reads the head's announcement, the configuration, the time and its trust. -/
theorem certOk_congr {s t : State} {h h' : Head} (hslu : t.slu = s.slu) (hbkd : t.bkd = s.bkd) (hril : t.ril = s.ril)
    (hjoin : h'.join = h.join) (hserial : h'.serial = h.serial) (c : Bytes) : certOk t h' c = certOk s h c := by
  have hanchors : anchors t = anchors s := by simp only [anchors, cfg, cfgBytes, hslu]
  simp only [certOk, hanchors, hjoin, hserial, tt, utcTicks, hbkd, hril]

/-- The hub's side of a join is queued to the head, which is at step 2 (R103). -/
theorem startJoin_eq (s : State) (p : Nat) (cert : Bytes) : ∃ (h : Head) (hub : Bytes),
    startJoin s p cert =
      sendLong (sendLong (setHead { s with free := s.free + 2 } p h) p 0x41 Config.hubCert none) p 0x42 hub none ∧
    h.state = (head s p).state ∧ h.join.step = 2 ∧ h.join.cert = cert :=
  ⟨_, _, rfl, rfl, rfl, rfl⟩

theorem startJoin_spec (s : State) (p : Nat) (cert : Bytes) :
    Uncut s (startJoin s p cert) ∧ s.ply.queue <+: (startJoin s p cert).ply.queue ∧
      (head (startJoin s p cert) p).state = (head s p).state ∧ (head (startJoin s p cert) p).join.step = 2 ∧
      (head (startJoin s p cert) p).join.cert = cert := by
  obtain ⟨h, hub, heq, hjoin⟩ := startJoin_eq s p cert
  have hsent := (sendLong_sends (setHead { s with free := s.free + 2 } p h) p 0x41 Config.hubCert none).trans
    (sendLong_sends _ p 0x42 hub none)
  rw [← heq] at hsent
  obtain ⟨n, hn⟩ := hsent.head
  rw [head_setHead] at hn
  rw [hn]
  have hbegins : Uncut s (setHead { s with free := s.free + 2 } p h) := ⟨rfl, rfl⟩
  exact ⟨hbegins.trans hsent.uncut, hsent.queue, hjoin⟩

/-- The head is JOINING when its certificate is judged. -/
def certBox (s : State) (p : Nat) (b : Bytes) : State := setHeadState (receivedBox s p b) p .joining 1

section
variable {s : State} {p : Nat} {b : Bytes} (hcalm : calm s = true) (harrives : arrives s p 0x82 b = true)
  (hstate : (head s p).state = .repeater) (hstep : (head s p).join.step = 1) (hsupported : (head s p).unsupported = false)

include hstate in
theorem certOk_certBox : certOk (certBox s p b) (head (receivedBox s p b) p) (boxWhole s p b) = certOk s (head s p) (boxWhole s p b) := by
  have hmoves : (head (receivedBox s p b) p).state ≠ .joining := by
    rw [receivedBox_state, hstate]
    decide
  have hbeside : Beside (withHeadState (receivedBox s p b) p .joining) (certBox s p b) := setHeadState_beside 1 hmoves
  obtain ⟨hslu, hbkd, hril⟩ := receivedBox_stands s p b
  exact certOk_congr (hbeside.slu.trans hslu) (hbeside.bkd.trans hbkd) (hbeside.ril.trans hril) (receivedBox_join s p b)
    (receivedBox_serial s p b) _

include hstate hstep hsupported in
/-- A CERT of a REPEATER whose ANNOUNCE is noted is judged (R102). -/
theorem cert_due : ¬ ((head (receivedBox s p b) p).state ≠ .repeater ∨ (head (receivedBox s p b) p).join.step ≠ 1 ∨
    (head (receivedBox s p b) p).unsupported = true) := by
  simp [receivedBox_state, receivedBox_join, receivedBox_unsupported, hstate, hstep, hsupported]

include hcalm harrives hstate hstep hsupported in
theorem exec_cert_joins (hdrbg : s.key.drbg = true) (hok : certOk s (head s p) (boxWhole s p b) = true) :
    ∃ t, exec (.cert p b) s = .next t ∧ acked t p b ∧ (head t p).state = .joining ∧ (head t p).join.step = 2 ∧
      (head t p).join.cert = boxWhole s p b := by
  obtain ⟨hmoved, hqueue, -⟩ := setHeadState_spec (receivedBox s p b) p .joining 1
  obtain ⟨hstarted, hsent, hst, hjoin⟩ := startJoin_spec (certBox s p b) p (boxWhole s p b)
  have hpasses : ¬ (!certOk (certBox s p b) (head (receivedBox s p b) p) (boxWhole s p b)) = true := by
    simp [certOk_certBox hstate, hok]
  obtain ⟨t, ht, hkept⟩ : ∃ t, exec (.cert p b) s = .next t ∧ Kept (startJoin (certBox s p b) p (boxWhole s p b)) t :=
    next_received _ hcalm harrives (by decide)
      ((if_neg (cert_due hstate hstep hsupported)).trans ((if_neg hpasses).trans (if_pos hdrbg))) (hmoved.trans hstarted)
  refine ⟨t, ht, acked_of_queue (receivedBox_acked s p b) ?_, ?_⟩
  · rw [hkept.ply, ← hqueue]
    exact hsent
  · rw [head_of_ply hkept.ply]
    exact ⟨hst.trans (setHeadState_state _ _ _ _), hjoin⟩

include hcalm harrives hstate hstep hsupported in
theorem exec_cert_excludes (hbad : certOk s (head s p) (boxWhole s p b) = false) :
    ∃ t, exec (.cert p b) s = .next t ∧ (head t p).state = .excluded := by
  have hmoved := (setHeadState_spec (receivedBox s p b) p .joining 1).1
  obtain ⟨hout, hexcluded⟩ := exclude_spec (certBox s p b) p 2 true
  have hfails : (!certOk (certBox s p b) (head (receivedBox s p b) p) (boxWhole s p b)) = true := by
    simp [certOk_certBox hstate, hbad]
  obtain ⟨t, ht, hkept⟩ : ∃ t, exec (.cert p b) s = .next t ∧ Kept (exclude (certBox s p b) p 2 true) t :=
    next_received _ hcalm harrives (by decide) ((if_neg (cert_due hstate hstep hsupported)).trans (if_pos hfails)) (hmoved.trans hout)
  exact ⟨t, ht, by rw [head_of_ply hkept.ply]; exact hexcluded⟩

end

/-! ### JOIN_HEAD (R103–R105) -/

/-- The signature of JOIN_HEAD (R104). -/
def joinSigned (s : State) (p : Nat) (m : Bytes) : Bool :=
  Config.ecdsaVerify (Config.certKey (head s p).join.cert) (Config.sha256 ((head s p).join.hubContent ++ m.take 80)) (slice m 80 64)

theorem joinSigned_receivedBox (s : State) (p : Nat) (b m : Bytes) : joinSigned (receivedBox s p b) p m = joinSigned s p m := by
  rw [joinSigned, receivedBox_join, joinSigned]

section
variable {s : State} {p : Nat} {b : Bytes} (hcalm : calm s = true) (harrives : arrives s p 0x83 b = true)
  (hstate : (head s p).state = .joining) (hstep : (head s p).join.step = 2) (hserial : serialFits s p (head s p).serial = true)

include hstate hstep in
theorem joinHead_due : ¬ ((head (receivedBox s p b) p).state ≠ .joining ∨ (head (receivedBox s p b) p).join.step ≠ 2) := by
  simp [receivedBox_state, receivedBox_join, hstate, hstep]

include hserial in
theorem serial_stands : ¬ (!serialFits (receivedBox s p b) p (head (receivedBox s p b) p).serial) = true := by
  simp [receivedBox_serialFits, receivedBox_serial, hserial]

include hcalm harrives hstate hstep hserial in
theorem exec_joinHead_confirms (hsigned : joinSigned s p (boxWhole s p b) = true) :
    ∃ t, exec (.joinHead p b) s = .next t ∧ (head t p).state = .joining ∧ (head t p).join.step = 4 ∧ (head t p).keys.length = 4 := by
  have hpasses : ¬ (!joinSigned (receivedBox s p b) p (boxWhole s p b)) = true := by simp [joinSigned_receivedBox, hsigned]
  have hwork : ∀ h confirm, Uncut (receivedBox s p b) (sendLong (setHead (receivedBox s p b) p h) p 0x43 confirm none) :=
    fun h confirm => (setHead_uncut _ p h).trans (sendLong_sends _ p 0x43 confirm none).uncut
  obtain ⟨h, confirm, ⟨t, ht, hkept⟩, hst, hfour, hkeys⟩ : ∃ (h : Head) (confirm : Bytes), (∃ t, exec (.joinHead p b) s = .next t ∧
      Kept (sendLong (setHead (receivedBox s p b) p h) p 0x43 confirm none) t) ∧ h.state = (head (receivedBox s p b) p).state ∧
      h.join.step = 4 ∧ h.keys.length = 4 :=
    ⟨_, _, next_received _ hcalm harrives (by decide) ((if_neg (joinHead_due hstate hstep)).trans
      ((if_neg (serial_stands hserial)).trans (if_neg hpasses))) (hwork _ _), rfl, rfl, rfl⟩
  have hsent := sendLong_sends (setHead (receivedBox s p b) p h) p 0x43 confirm none
  obtain ⟨n, hn⟩ := hsent.head
  refine ⟨t, ht, ?_⟩
  rw [head_of_ply hkept.ply, hn, head_setHead]
  exact ⟨hst.trans ((receivedBox_state s p b).trans hstate), hfour, hkeys⟩

include hcalm harrives hstate hstep hserial in
theorem exec_joinHead_excludes (hforged : joinSigned s p (boxWhole s p b) = false) :
    ∃ t, exec (.joinHead p b) s = .next t ∧ (head t p).state = .excluded := by
  have hfails : (!joinSigned (receivedBox s p b) p (boxWhole s p b)) = true := by simp [joinSigned_receivedBox, hforged]
  obtain ⟨hout, hexcluded⟩ := exclude_spec (receivedBox s p b) p 2 true
  obtain ⟨t, ht, hkept⟩ : ∃ t, exec (.joinHead p b) s = .next t ∧ Kept (exclude (receivedBox s p b) p 2 true) t :=
    next_received _ hcalm harrives (by decide)
      ((if_neg (joinHead_due hstate hstep)).trans ((if_neg (serial_stands hserial)).trans (if_pos hfails))) hout
  exact ⟨t, ht, by rw [head_of_ply hkept.ply]; exact hexcluded⟩

end

/-! ### JOIN_FINISH (R105, R143) -/

/-- VERSION, the report and the event buffer of a head are asked for (Table HED.2). -/
def askReports (s : State) (p : Nat) : State :=
  sendLong (sendLong (sendLong s p 0x46 [0] none) p 0x46 [1] none) p 0x46 [2] none

theorem askReports_sends (s : State) (p : Nat) : Sends p s (askReports s p) :=
  ((sendLong_sends s p 0x46 [0] none).trans (sendLong_sends _ p 0x46 [1] none)).trans (sendLong_sends _ p 0x46 [2] none)

theorem askReports_queues (s : State) (p : Nat) {c : Nat} (h : c < 3) :
    ∃ m ∈ (askReports s p).ply.queue, m.addr = p ∧ m.typ = 0x46 ∧ m.payload = [BitVec.ofNat 8 c] := by
  have hfirst := (sendLong_sends (sendLong s p 0x46 [0] none) p 0x46 [1] none).queue
  have hsecond := (sendLong_sends (sendLong (sendLong s p 0x46 [0] none) p 0x46 [1] none) p 0x46 [2] none).queue
  interval_cases c
  · obtain ⟨m, hm, hask⟩ := sendLong_queues s p 0x46 (payload := [0]) none (by decide)
    exact ⟨m, (hfirst.trans hsecond).subset hm, hask⟩
  · obtain ⟨m, hm, hask⟩ := sendLong_queues (sendLong s p 0x46 [0] none) p 0x46 (payload := [1]) none (by decide)
    exact ⟨m, hsecond.subset hm, hask⟩
  · exact sendLong_queues _ p 0x46 (payload := [2]) none (by decide)

/-- The confirmation code of JOIN_FINISH (R104, R105). -/
def joinConfirmed (s : State) (p : Nat) (m : Bytes) : Prop :=
  m.take 16 = be 16 (Config.cmac (nth 0 (head s p).keys 3) (0x44 :: (head s p).join.transcript))

theorem joinConfirmed_receivedBox (s : State) (p : Nat) (b m : Bytes) :
    joinConfirmed (receivedBox s p b) p m ↔ joinConfirmed s p m := by
  rw [joinConfirmed, receivedBox_keys, receivedBox_join, joinConfirmed]

section
variable {s : State} {p : Nat} {b : Bytes} (hcalm : calm s = true) (harrives : arrives s p 0x84 b = true)
  (hstate : (head s p).state = .joining) (hstep : (head s p).join.step = 4) (hserial : serialFits s p (head s p).serial = true)

include hstate hstep in
theorem joinFinish_due : ¬ ((head (receivedBox s p b) p).state ≠ .joining ∨ (head (receivedBox s p b) p).join.step ≠ 4) := by
  simp [receivedBox_state, receivedBox_join, hstate, hstep]

/-- The head is ACTIVE from its session start, and its reports are asked for; the generation of its ring keys rises (R347). -/
theorem joinFinish_work (s : State) (p : Nat) (h : Head) (k : Keys) :
    let s2 := setHeadState (setHead s p h) p .active 1
    let t := askReports (setHead { s2 with key := k } p { head s2 p with ended := none }) p
    Uncut s t ∧ (head t p).state = .active ∧ (head t p).session = h.session := by
  intro s2 t
  obtain ⟨hmoved, -, e, he⟩ := setHeadState_spec (setHead s p h) p .active 1
  have hset : Uncut s2 (setHead { s2 with key := k } p { head s2 p with ended := none }) := ⟨rfl, rfl⟩
  have hsent : Sends p (setHead { s2 with key := k } p { head s2 p with ended := none }) t := askReports_sends _ p
  obtain ⟨n, hn⟩ := hsent.head
  refine ⟨((setHead_uncut s p h).trans hmoved).trans (hset.trans hsent.uncut), ?_⟩
  rw [hn, head_setHead]
  have hs2 : head s2 p = inHeadState h .active e := by rw [he, head_setHead]
  rw [hs2]
  exact ⟨rfl, rfl⟩

include hcalm harrives hstate hstep hserial in
theorem exec_joinFinish_activates (hconfirmed : joinConfirmed s p (boxWhole s p b)) :
    ∃ t, exec (.joinFinish p b) s = .next t ∧ (head t p).state = .active ∧ (head t p).session = some (head s p).join.start ∧
      ∀ c, c < 3 → ∃ m ∈ t.ply.queue, m.addr = p ∧ m.typ = 0x46 ∧ m.payload = [BitVec.ofNat 8 c] := by
  rw [← joinConfirmed_receivedBox s p b] at hconfirmed
  have hpasses : ¬ ¬ joinConfirmed (receivedBox s p b) p (boxWhole s p b) := not_not.mpr hconfirmed
  obtain ⟨h, k, u, hu, ⟨t, ht, hkept⟩, hsession⟩ : ∃ (h : Head) (k : Keys) (u : State), u = setHeadState (setHead (receivedBox s p b) p h) p .active 1 ∧
      (∃ t, exec (.joinFinish p b) s = .next t ∧
        Kept (askReports (setHead { u with key := k } p { head u p with ended := none }) p) t) ∧
      h.session = some (head (receivedBox s p b) p).join.start :=
    ⟨_, _, _, rfl, next_received _ hcalm harrives (by decide) ((if_neg (joinFinish_due hstate hstep)).trans
      ((if_neg (serial_stands hserial)).trans (if_neg hpasses))) (joinFinish_work _ p _ _).1, rfl⟩
  obtain ⟨-, hactive, hstart⟩ := joinFinish_work (receivedBox s p b) p h k
  rw [← hu] at hactive hstart
  refine ⟨t, ht, ?_, ?_, ?_⟩
  · rw [head_of_ply hkept.ply]
    exact hactive
  · rw [head_of_ply hkept.ply, ← receivedBox_join s p b, ← hsession]
    exact hstart
  · intro c hc
    rw [hkept.ply]
    exact askReports_queues _ p hc

include hcalm harrives hstate hstep hserial in
theorem exec_joinFinish_excludes (hforged : ¬ joinConfirmed s p (boxWhole s p b)) :
    ∃ t, exec (.joinFinish p b) s = .next t ∧ (head t p).state = .excluded := by
  obtain ⟨hout, hexcluded⟩ := exclude_spec (receivedBox s p b) p 2 false
  rw [← joinConfirmed_receivedBox s p b] at hforged
  obtain ⟨t, ht, hkept⟩ : ∃ t, exec (.joinFinish p b) s = .next t ∧ Kept (exclude (receivedBox s p b) p 2 false) t :=
    next_received _ hcalm harrives (by decide)
      ((if_neg (joinFinish_due hstate hstep)).trans ((if_neg (serial_stands hserial)).trans (if_pos hforged))) hout
  exact ⟨t, ht, by rw [head_of_ply hkept.ply]; exact hexcluded⟩

end

/-! ### Time limits (R103, R106, R110) -/

theorem exec_joinStepTimeout_excludes {s : State} {p : Nat} (hcalm : calm s = true) (hstate : (head s p).state = .joining)
    (hlate : (head s p).join.since + 256 < s.ply.frame) :
    ∃ t, exec (.joinStepTimeout p) s = .next t ∧ (head t p).state = .excluded := by
  obtain ⟨hout, hexcluded⟩ := exclude_spec s p 4 false
  obtain ⟨t, ht, hkept⟩ : ∃ t, exec (.joinStepTimeout p) s = .next t ∧ Kept (exclude s p 4 false) t :=
    next_whenRunning_kept _ hcalm (if_pos ⟨hstate, hlate⟩) hout
  exact ⟨t, ht, by rw [head_of_ply hkept.ply]; exact hexcluded⟩

/-- At the end of its holdoff a head joins again, or is ISOLATED when neither port hears it. -/
theorem exec_exclusionHoldoffEnd_releases {s : State} {p : Nat} (hcalm : calm s = true) (hstate : (head s p).state = .excluded)
    (hheld : (head s p).held = false) (hpast : (head s p).exclUntil ≤ s.bkd.tick) :
    ∃ t, exec (.exclusionHoldoffEnd p) s = .next t ∧ (head t p).state = if unreachable s p then .isolated else .repeater := by
  have hdue : (head s p).state = .excluded ∧ (!(head s p).held) = true ∧ (head s p).exclUntil ≤ nowTick s :=
    ⟨hstate, by simp [hheld], hpast⟩
  by_cases hreach : unreachable s p = true
  · have hevent := plyEvent_beside (setHeadState s p .isolated 6) (id := 0x182) p [] rfl
    obtain ⟨t, ht, hkept⟩ : ∃ t, exec (.exclusionHoldoffEnd p) s = .next t ∧
        Kept (plyEvent (setHeadState s p .isolated 6) 0x182 p []) t :=
      next_whenRunning_kept _ hcalm ((if_pos hdue).trans (if_pos hreach)) ((setHeadState_spec s p .isolated 6).1.trans hevent.uncut)
    refine ⟨t, ht, ?_⟩
    rw [if_pos hreach, head_of_ply hkept.ply, head_of_ply hevent.ply]
    exact setHeadState_state s p .isolated 6
  · obtain ⟨hout, hrejoins⟩ := forceRejoin_spec s p 5
    obtain ⟨t, ht, hkept⟩ : ∃ t, exec (.exclusionHoldoffEnd p) s = .next t ∧ Kept (forceRejoin s p 5) t :=
      next_whenRunning_kept _ hcalm ((if_pos hdue).trans (if_neg hreach)) hout
    refine ⟨t, ht, ?_⟩
    rw [if_neg hreach, head_of_ply hkept.ply]
    exact hrejoins

/-! ### Readmission (R110) -/

/-- An event of a head's state reaches neither a ring of the host, nor the host interface, nor a fault domain. -/
theorem setHeadState_io (s : State) (p : Nat) (st : HeadState) (cause : Nat) :
    Io s (setHeadState s p st cause) ∧ (setHeadState s p st cause).pwr = s.pwr ∧
      (setHeadState s p st cause).ev.doms = s.ev.doms := by
  by_cases h : (head s p).state = st
  · have hstays : setHeadState s p st cause = s := if_pos h
    rw [hstays]
    exact ⟨Io.refl s, rfl, rfl⟩
  · obtain ⟨e, he⟩ := setHeadState_of_ne cause h
    have hset : Io s (withHeadState s p st) := ⟨rfl, rfl, rfl, rfl⟩
    rw [he]
    exact ⟨hset.trans (inform_io _ e), (inform_kept _ e).pwr, record_doms _ e 0 0xFF 0 0⟩

/-- The hub with the hold of a head cleared. -/
def withoutHold (s : State) (p : Nat) : State := setHead s p { head s p with held := false }

theorem exec_plyReadmit_clears {s : State} {d : Desc} {p : Nat} (h : canTake s d 0x0307 false = true) (hten : d.tenant = 0)
    (hplace : p < 64) (hheld : (head s p).held = true) :
    ∃ t, exec (.plyReadmit d p) s = .next t ∧ (head t p).state = .repeater ∧ (head t p).held = false ∧
      (head t p).counted = (head s p).counted ∧ answered s t d stOk 0 [] := by
  have hfound : head (take s d) p = head s p := head_of_ply (take_kept s d).ply p
  have hchecks : firstFail [by0 d, (decide (p < 64), stBadArg), ((head (take s d) p).held, stBadState)] = none := by
    simp [by0, firstFail, hten, hplace, hfound, hheld]
  obtain ⟨hio, hpwr, hdoms⟩ := setHeadState_io (withoutHold (take s d) p) p .repeater 5
  obtain ⟨-, -, e, he⟩ := setHeadState_spec (withoutHold (take s d) p) p .repeater 5
  obtain ⟨t, ht, htold, hanswer⟩ : ∃ t, exec (.plyReadmit d p) s = .next t ∧
      Told (setHeadState (withoutHold (take s d) p) p .repeater 5) t ∧ answered s t d stOk 0 [] :=
    next_hostCmd_reply _ h (checked_of_pass _ hchecks) hio.rng hio.hif hpwr hdoms
  refine ⟨t, ht, ?_⟩
  rw [head_of_ply htold.kept.ply, he, withoutHold, head_setHead, hfound]
  exact ⟨rfl, rfl, rfl, hanswer⟩

/-! ### The obligation -/

/-- Settles O27: every clause is one message, limit or command, whose work moves the head at its position and queues behind what
waits; its events work beside the ring. -/
theorem headsJoin : Obligations.HeadsJoin := by
  intro s hcalm
  refine ⟨fun p b => exec_announce_starts hcalm, ?cert, ?joinHead, ?joinFinish, fun p => exec_joinStepTimeout_excludes hcalm,
    fun p => exec_exclusionHoldoffEnd_releases hcalm, fun d p => exec_plyReadmit_clears⟩
  case cert =>
    intro p b harrives hstate hstep hsupported hdrbg
    cases hok : certOk s (head s p) (boxWhole s p b) with
    | true => simpa using exec_cert_joins hcalm harrives hstate hstep hsupported hdrbg hok
    | false => simpa using exec_cert_excludes hcalm harrives hstate hstep hsupported hok
  case joinHead =>
    intro p b harrives hstate hstep hserial
    cases hsigned : joinSigned s p (boxWhole s p b) with
    | true =>
      obtain ⟨t, ht, hjoins⟩ := exec_joinHead_confirms hcalm harrives hstate hstep hserial hsigned
      exact ⟨t, ht, (if_pos hsigned).mpr hjoins⟩
    | false =>
      obtain ⟨t, ht, hout⟩ := exec_joinHead_excludes hcalm harrives hstate hstep hserial hsigned
      exact ⟨t, ht, (if_neg (ne_true_of_eq_false hsigned)).mpr hout⟩
  case joinFinish =>
    intro p b harrives hstate hstep hserial
    by_cases hconfirmed : joinConfirmed s p (boxWhole s p b)
    · obtain ⟨t, ht, hjoins⟩ := exec_joinFinish_activates hcalm harrives hstate hstep hserial hconfirmed
      exact ⟨t, ht, (if_pos hconfirmed).mpr hjoins⟩
    · obtain ⟨t, ht, hout⟩ := exec_joinFinish_excludes hcalm harrives hstate hstep hserial hconfirmed
      exact ⟨t, ht, (if_neg hconfirmed).mpr hout⟩

end Sys2Proof.Proofs
end

section
/-!
Replies of the heads (R96, R100, R119, R137, R143–R146, R160, R175): what a message says is noted at its head, and the events it
brings work beside the ring.
-/
namespace Sys2Proof.Proofs

open Sys2Proof.Machine Sys2Proof.Laws

/-! ### Acknowledgements (R96) -/

/-- An ACK is not itself acknowledged. -/
theorem upstream_of_arrives_ack {s : State} {p : Nat} {b : Bytes} (act : State → Bytes → State) (h : arrives s p 0x87 b = true) :
    upstream s p 0x87 b act = act (setHead s p (takingBox s p b)) (boxWhole s p b) := by
  unfold arrives at h
  simp only [Bool.and_eq_true, Bool.or_eq_true, Bool.not_eq_true', beq_iff_eq, decide_eq_true_eq] at h
  obtain ⟨⟨⟨⟨⟨⟨⟨⟨⟨hgood, hpos⟩, haddr⟩, hheard⟩, htyp⟩, hlen⟩, htag⟩, hnew⟩, hfrag⟩, hlast⟩ := h
  have htagged : (!joinType 0x87 && joined s p && !boxTagOk s p b) = false := by
    rcases htag with (h | h) | h <;> simp [h]
  have hlong : ¬ 92 < boxLen b := Nat.not_lt.mpr hlen
  unfold upstream
  simp only [hgood, hpos, haddr, hheard, htyp, hlong, htagged, hnew, hfrag, hlast, takingBox, boxWhole, ne_eq, decide_true,
    Bool.not_true, bne_self_eq_false, Bool.or_self, Bool.false_eq_true, if_false, if_true, not_true_eq_false, or_self]

/-- A head whose message with this MSEQ is acknowledged. -/
def ackedHead (h : Head) (mseq : Nat) : Head :=
  { h with unacked := h.unacked.filter (fun x => x.mseq != mseq), configAcked := h.configAcked || decide (h.configMseq = mseq) }

theorem exec_ack_ends {s : State} {p : Nat} {b : Bytes} (hcalm : calm s = true) (harrives : arrives s p 0x87 b = true) :
    ∃ t, exec (.ack p b) s = .next t ∧
      (head t p).unacked = (head s p).unacked.filter (fun x => x.mseq != fld (boxWhole s p b) 0 2) ∧
      (head t p).state = (head s p).state ∧ t.ply.queue = s.ply.queue := by
  have hexec : exec (.ack p b) s =
      .next (setHead (setHead s p (takingBox s p b)) p (ackedHead (takingBox s p b) (fld (boxWhole s p b) 0 2))) := by
    refine next_whenRunning_quiet _ hcalm ((upstream_of_arrives_ack _ harrives).trans ?_) rfl rfl rfl
    rw [head_setHead, ackedHead]
  refine ⟨_, hexec, ?_⟩
  rw [head_setHead]
  exact ⟨rfl, rfl, rfl⟩

/-! ### Surveys (R100, R160) -/

/-- The frame, the loop delay and the event buffers' numbers do not change with a container. -/
theorem receivedBox_ring (s : State) (p : Nat) (b : Bytes) : (receivedBox s p b).ply.frame = s.ply.frame ∧
    (receivedBox s p b).ply.la = s.ply.la ∧ (receivedBox s p b).ply.eventSeqs = s.ply.eventSeqs := by
  simp [receivedBox, sendShort, queueFrags, setHead]

/-- The action of a message that notes its findings at the head, with events beside the ring. -/
theorem next_received_beside {s w : State} {p typ : Nat} {b : Bytes} (act : State → Bytes → State) (hcalm : calm s = true)
    (harrives : arrives s p typ b = true) (hack : typ ≠ 0x87) (hw : Uncut (receivedBox s p b) w)
    (hwork : Beside w (act (receivedBox s p b) (boxWhole s p b))) :
    ∃ t, (.next (whenRunning s fun s => upstream s p typ b act) : Out) = .next t ∧ t.ply = w.ply := by
  obtain ⟨t, ht, hkept⟩ := next_received act hcalm harrives hack rfl (hw.trans hwork.uncut)
  exact ⟨t, ht, hkept.ply.trans hwork.ply⟩

/-- A head whose survey is complete: its forward latency, and twice the delay that applies later. -/
def surveyedHead (s : State) (p : Nat) (m : Bytes) : Head :=
  { head s p with
    rLat := fld m 4 2, nextDA2 := some ((s.ply.la : Int) - fld m 4 2 - Machine.signed 32 (fld m 0 4), s.ply.frame) }

theorem exec_surveyReply_notes {s : State} {p : Nat} {b : Bytes} (hcalm : calm s = true) (harrives : arrives s p 0x88 b = true) :
    ∃ t, exec (.surveyReply p b) s = .next t ∧ acked t p b ∧ (head t p).rLat = fld (boxWhole s p b) 4 2 ∧
      (head t p).nextDA2 =
        some ((s.ply.la : Int) - fld (boxWhole s p b) 4 2 - Machine.signed 32 (fld (boxWhole s p b) 0 4), s.ply.frame) := by
  obtain ⟨t, ht, hply⟩ : ∃ t, exec (.surveyReply p b) s = .next t ∧
      t.ply = (setHead (receivedBox s p b) p (surveyedHead (receivedBox s p b) p (boxWhole s p b))).ply := by
    refine next_received_beside _ hcalm harrives (by decide) (setHead_uncut _ p _) ?_
    extract_lets d h s1
    split
    · exact Beside.refl _
    · exact Beside.ite (raise_info_beside rfl) (Beside.refl _)
  obtain ⟨hframe, hla, -⟩ := receivedBox_ring s p b
  refine ⟨t, ht, ?_⟩
  rw [acked_of_ply hply, acked_setHead, head_of_ply hply, head_setHead, surveyedHead, hframe, hla]
  exact ⟨receivedBox_acked s p b, rfl, rfl⟩

/-! ### Versions (R119, R137) -/

theorem head_reportDone (s : State) (p code : Nat) :
    head (reportDone s p code) p = { head s p with reports := (head s p).reports.filter (fun r => r.1 != code) } := head_setHead _ _ _

theorem acked_reportDone (s : State) (p code q : Nat) (b : Bytes) : acked (reportDone s p code) q b ↔ acked s q b := Iff.rfl

theorem reportDone_eventSeqs (s : State) (p code : Nat) : (reportDone s p code).ply.eventSeqs = s.ply.eventSeqs := rfl

theorem reportDone_uncut (s : State) (p code : Nat) : Uncut s (reportDone s p code) := setHead_uncut s p _

/-- The hub once a VERSION has come: it is noted, and its reply is complete. -/
def versionBox (s : State) (p : Nat) (m : Bytes) : State := reportDone (setHead s p { head s p with version := m }) p 0

theorem head_versionBox (s : State) (p : Nat) (m : Bytes) : head (versionBox s p m) p =
    { head s p with version := m, reports := (head s p).reports.filter (fun r => r.1 != 0) } := by
  rw [versionBox, head_reportDone, head_setHead]

theorem acked_versionBox (s : State) (p : Nat) (m : Bytes) (q : Nat) (b : Bytes) : acked (versionBox s p m) q b ↔ acked s q b := Iff.rfl

/-- An unsupported head is sent LEAVE, and goes back to REPEATER (R119). -/
theorem refuseVersion_spec (s : State) (p : Nat) :
    let u := setHeadState (plyEvent (sendShort (dropMessages s p) p 7 [1]) 0x200 p []) p .repeater 5
    let t := setHead u p { head u p with unsupported := true, join := {} }
    Uncut s t ∧ (head t p).state = .repeater ∧ (head t p).unsupported = true := by
  intro u t
  have hleave := (dropMessages_uncut s p).trans (sendShort_sends _ p 7 [1]).uncut
  have hevent := plyEvent_beside (sendShort (dropMessages s p) p 7 [1]) (id := 0x200) p [] rfl
  have hmoved : Uncut (plyEvent (sendShort (dropMessages s p) p 7 [1]) 0x200 p []) u := (setHeadState_spec _ p .repeater 5).1
  have hstate : (head u p).state = .repeater := setHeadState_state _ p .repeater 5
  clear_value u
  refine ⟨((hleave.trans hevent.uncut).trans hmoved).trans (setHead_uncut u p _), ?_⟩
  rw [head_setHead]
  exact ⟨hstate, rfl⟩

theorem exec_version_refuses {s : State} {p : Nat} {b : Bytes} (hcalm : calm s = true) (harrives : arrives s p 0x89 b = true)
    (hbad : ¬ versionOk (boxWhole s p b) = true) :
    ∃ t, exec (.version p b) s = .next t ∧ (head t p).state = .repeater ∧ (head t p).unsupported = true := by
  obtain ⟨hwork, hspec⟩ := refuseVersion_spec (versionBox (receivedBox s p b) p (boxWhole s p b)) p
  have hnoted : Uncut (receivedBox s p b) (versionBox (receivedBox s p b) p (boxWhole s p b)) :=
    (setHead_uncut _ p _).trans (reportDone_uncut _ p 0)
  obtain ⟨t, ht, hkept⟩ : ∃ t, exec (.version p b) s = .next t ∧ Kept _ t :=
    next_received _ hcalm harrives (by decide) (if_neg hbad) (hnoted.trans hwork)
  exact ⟨t, ht, by rw [head_of_ply hkept.ply]; exact hspec⟩

theorem exec_version_notes {s : State} {p : Nat} {b : Bytes} (hcalm : calm s = true) (harrives : arrives s p 0x89 b = true)
    (hok : versionOk (boxWhole s p b) = true) :
    ∃ t, exec (.version p b) s = .next t ∧ acked t p b ∧ (head t p).state = (head s p).state ∧
      (head t p).version = boxWhole s p b ∧
      (head t p).mpCount = fld (boxWhole s p b) 1 1 ∧
      (head t p).nextGd = some (fld (boxWhole s p b) 14 4, (head s p).session.getD s.ply.frame) := by
  have hnoted : ∀ h, Uncut (receivedBox s p b) (setHead (versionBox (receivedBox s p b) p (boxWhole s p b)) p h) :=
    fun h => ((setHead_uncut _ p _).trans (reportDone_uncut _ p 0)).trans (setHead_uncut _ p h)
  obtain ⟨h, ⟨t, ht, hkept⟩, hst, hversion, hcount, hgd⟩ : ∃ h : Head, (∃ t, exec (.version p b) s = .next t ∧
      Kept (compareConfig (setHead (versionBox (receivedBox s p b) p (boxWhole s p b)) p h) p) t) ∧
      h.state = (head (versionBox (receivedBox s p b) p (boxWhole s p b)) p).state ∧
      h.version = (head (versionBox (receivedBox s p b) p (boxWhole s p b)) p).version ∧ h.mpCount = fld (boxWhole s p b) 1 1 ∧
      h.nextGd = some (fld (boxWhole s p b) 14 4,
        (head (versionBox (receivedBox s p b) p (boxWhole s p b)) p).session.getD (receivedBox s p b).ply.frame) :=
    ⟨_, next_received _ hcalm harrives (by decide) (if_pos hok) ((hnoted _).trans (compareConfig_spec _ p).1), rfl, rfl, rfl, rfl⟩
  obtain ⟨-, hqueue, n, f, q, a, hconfig⟩ :=
    compareConfig_spec (setHead (versionBox (receivedBox s p b) p (boxWhole s p b)) p h) p
  obtain ⟨k, hk⟩ := head_receivedBox s p b
  rw [head_versionBox, hk] at hst hversion hgd
  rw [(receivedBox_ring s p b).1] at hgd
  have hack : acked (setHead (versionBox (receivedBox s p b) p (boxWhole s p b)) p h) p b := by
    rw [acked_setHead, acked_versionBox]
    exact receivedBox_acked s p b
  refine ⟨t, ht, (acked_of_ply hkept.ply p b).mpr (acked_of_queue hack hqueue), ?_⟩
  rw [head_of_ply hkept.ply, hconfig, head_setHead]
  exact ⟨hst, hversion, hcount, hgd⟩

/-! ### Event buffers (R146) -/

theorem getElem?_slice (b : Bytes) (o n j : Nat) : (slice b o n)[j]? = if j < n then some (b[o + j]?.getD 0) else none := by
  simp only [slice, List.getElem?_append, List.length_take, List.length_drop, List.getElem?_take, List.getElem?_drop,
    List.getElem?_replicate]
  by_cases hn : j < n
  · by_cases hb : o + j < b.length
    · have hin : j < min n (b.length - o) := by omega
      simp [hn, hb, hin]
    · have hout : ¬ j < min n (b.length - o) := by omega
      have hpad : j - min n (b.length - o) < n - (b.length - o) := by omega
      simp [hn, hb, hout, hpad]
  · have hout : ¬ j < min n (b.length - o) := by omega
    have hpad : ¬ j - min n (b.length - o) < n - (b.length - o) := by omega
    simp [hn, hout, hpad]

/-- A part of a part is a part. -/
theorem slice_slice (b : Bytes) {o n i k : Nat} (h : i + k ≤ n) : slice (slice b o n) i k = slice b (o + i) k := by
  refine List.ext_getElem? fun j => ?_
  simp only [getElem?_slice]
  by_cases hj : j < k
  · have hin : i + j < n := by omega
    simp [hj, hin, Nat.add_assoc]
  · simp [hj]

theorem fld_slice (b : Bytes) {o n i k : Nat} (h : i + k ≤ n) : fld (slice b o n) i k = fld b (o + i) k := by
  rw [fld, slice_slice b h, fld]

/-- The hub once the entry with this SEQ of a head's serial has been taken. -/
def seqTaken (s : State) (p seq : Nat) : State :=
  { s with ply := { s.ply with eventSeqs := tput s.ply.eventSeqs (head s p).serial seq } }

/-- A new entry whose code is POWER_UP is reported and counts no tamper. -/
theorem takeEntry_new {s : State} {p : Nat} {e : Bytes} (hcode : fld e 4 1 = 1)
    (hnew : tget 0 s.ply.eventSeqs (head s p).serial < fld e 0 4) : Beside (seqTaken s p (fld e 0 4)) (takeEntry s p e) := by
  unfold takeEntry
  extract_lets h seq ply1 s1 code s2 at_ seen
  have hreport : Beside s1 s2 := raise_info_beside (by simp only [code, hcode]; decide)
  rw [if_neg (Nat.not_le.mpr hnew), if_neg (by simp [code, hcode])]
  exact hreport

theorem seqTaken_spec {s t : State} {p seq : Nat} (h : Beside (seqTaken s p seq) t) :
    Uncut s t ∧ t.ply.eventSeqs = tput s.ply.eventSeqs (head s p).serial seq ∧ head t p = head s p ∧
      ∀ b, acked t p b ↔ acked s p b := by
  have htaken : Uncut s (seqTaken s p seq) := ⟨rfl, rfl⟩
  refine ⟨htaken.trans h.uncut, by rw [h.ply]; rfl, (head_of_ply h.ply p).trans rfl, fun b => (acked_of_ply h.ply p b).trans Iff.rfl⟩

/-- A buffer of one entry brings that entry. -/
theorem foldl_one_entry {n : Nat} (h : n = 1) (f : State → Nat → State) (s : State) : (span 0 (min 5 n)).foldl f s = f s 0 := by
  rw [h]
  rfl

theorem exec_event_takes {s : State} {p : Nat} {b : Bytes} (hcalm : calm s = true) (harrives : arrives s p 0x8B b = true)
    (hone : fld (boxWhole s p b) 0 1 = 1) (hovf : fld (boxWhole s p b) 2 2 = 0) (hcode : fld (boxWhole s p b) 8 1 = 1)
    (hnew : tget 0 s.ply.eventSeqs (head s p).serial < fld (boxWhole s p b) 4 4) :
    ∃ t, exec (.event p b) s = .next t ∧ acked t p b ∧ tget 0 t.ply.eventSeqs (head s p).serial = fld (boxWhole s p b) 4 4 ∧
      (head t p).reports = (head s p).reports.filter (fun r => r.1 != 2) := by
  have hseq : fld (slice (boxWhole s p b) 4 16) 0 4 = fld (boxWhole s p b) 4 4 := fld_slice _ (by decide)
  have hpower : fld (slice (boxWhole s p b) 4 16) 4 1 = 1 := (fld_slice _ (by decide)).trans hcode
  rw [← (receivedBox_ring s p b).2.2, ← receivedBox_serial s p b, ← hseq] at hnew
  obtain ⟨hwork, hseqs, hhead, hack⟩ := seqTaken_spec (takeEntry_new hpower hnew)
  rw [hseq] at hseqs
  obtain ⟨t, ht, hkept⟩ : ∃ t, exec (.event p b) s = .next t ∧
      Kept (reportDone (takeEntry (receivedBox s p b) p (slice (boxWhole s p b) 4 16)) p 2) t := by
    refine next_received _ hcalm harrives (by decide) ?_ (hwork.trans (reportDone_uncut _ p 2))
    simp only [foldl_one_entry hone, hovf, if_true, Nat.mul_zero, Nat.add_zero]
  obtain ⟨n, hn⟩ := head_receivedBox s p b
  refine ⟨t, ht, ?_, ?_, ?_⟩
  · rw [acked_of_ply hkept.ply, acked_reportDone, hack]
    exact receivedBox_acked s p b
  · rw [hkept.ply, reportDone_eventSeqs, hseqs, receivedBox_serial, tget_tput_self]
  · rw [head_of_ply hkept.ply, head_reportDone, hhead, hn]
    rfl

/-! ### Results of a synchronising reset (R175) -/

/-- A channel whose wait for SETTLE has ended: its own stages are cleared at the computed label. -/
def endedChan (s : State) (c f off : Nat) : Chan :=
  { chan s c with syncWait := none, reset := some (resetLabel s c f off, false) }

/-- The wait of a channel ends, where it waits. -/
def endWait (s : State) (c : Nat) : State :=
  match (chan s c).syncWait with
  | some (f, off) => setChan s c (endedChan s c f off)
  | none => s

theorem chan_setChan (s : State) (c j : Nat) (x : Chan) : chan (setChan s c x) j = if j = c then x else chan s j := tget_tput _ _ _ _ _

theorem endWait_frame (s : State) (c : Nat) : endWait s c = { s with flt := (endWait s c).flt } := by
  unfold endWait
  split <;> rfl

theorem foldl_endWait_frame (l : List Nat) (s : State) : l.foldl endWait s = { s with flt := (l.foldl endWait s).flt } := by
  induction l generalizing s with
  | nil => rfl
  | cons c l ih =>
    rw [List.foldl_cons, ih, endWait_frame]

theorem chan_endWait_of_none {s : State} {j : Nat} (h : (chan s j).syncWait = none) (c : Nat) : chan (endWait s c) j = chan s j := by
  unfold endWait
  split
  case h_1 hc =>
    rw [chan_setChan, if_neg]
    rintro rfl
    simp [h] at hc
  case h_2 => rfl

theorem chan_endWait_ne {s : State} {j c : Nat} (h : j ≠ c) : chan (endWait s c) j = chan s j := by
  unfold endWait
  split
  · rw [chan_setChan, if_neg h]
  · rfl

theorem chan_foldl_endWait_of_none (l : List Nat) {s : State} {j : Nat} (h : (chan s j).syncWait = none) :
    chan (l.foldl endWait s) j = chan s j := by
  induction l generalizing s with
  | nil => rfl
  | cons c l ih =>
    have hkeeps := chan_endWait_of_none h c
    rw [List.foldl_cons, ih (hkeeps ▸ h), hkeeps]

/-- The label is computed from the clock and the head's delays, not from the channels. -/
theorem endedChan_endWait {s : State} {j c : Nat} (h : j ≠ c) (f off : Nat) :
    endedChan (endWait s c) j f off = endedChan s j f off := by
  have hlabel : resetLabel (endWait s c) j f off = resetLabel s j f off := by
    rw [endWait_frame]
    rfl
  rw [endedChan, chan_endWait_ne h, hlabel, endedChan]

/-- Every channel of a list that waits ends its wait. -/
theorem chan_foldl_endWait {l : List Nat} {s : State} {j f off : Nat} (hj : j ∈ l) (hwaits : (chan s j).syncWait = some (f, off)) :
    chan (l.foldl endWait s) j = endedChan s j f off := by
  induction l generalizing s with
  | nil => cases hj
  | cons c l ih =>
    rw [List.foldl_cons]
    by_cases hjc : j = c
    · subst hjc
      have hends : chan (endWait s j) j = endedChan s j f off := by
        simp only [endWait, hwaits, chan_setChan, if_true]
      rw [chan_foldl_endWait_of_none l (by rw [hends]; rfl), hends]
    · have hkeeps := chan_endWait_ne (s := s) hjc
      rw [ih ((List.mem_cons.mp hj).resolve_left hjc) (hkeeps ▸ hwaits), endedChan_endWait hjc]

theorem head_receivedBox_ne (s : State) {p q : Nat} (b : Bytes) (h : q ≠ p) : head (receivedBox s p b) q = head s q := by
  unfold receivedBox sendShort queueFrags queueFrags head setHead
  exact (tget_tput_ne _ _ _ _ _ h).trans (tget_tput_ne _ _ _ _ _ h)

/-- The computed label reads the running cycle and the heads' delays alone. -/
theorem resetLabel_congr {s t : State} (hclk : t.clk = s.clk)
    (hdelay : ∀ q, (head t q).oldDelay = (head s q).oldDelay ∧ (head t q).dA2 = (head s q).dA2 ∧ (head t q).gd = (head s q).gd)
    (c f off : Nat) : resetLabel t c f off = resetLabel s c f off := by
  have hsame : ∀ q n, headDelay t q n = headDelay s q n := by
    intro q n
    obtain ⟨hold, hd, hg⟩ := hdelay q
    simp only [headDelay, hold, hd, hg]
  simp only [resetLabel, hsame, nowCycle, hclk]

theorem resetLabel_receivedBox (s : State) (p : Nat) (b : Bytes) (c f off : Nat) :
    resetLabel (receivedBox s p b) c f off = resetLabel s c f off := by
  refine resetLabel_congr (by rw [(receivedBox_frame s p b).1]) (fun q => ?_) c f off
  by_cases hq : q = p
  · obtain ⟨n, hn⟩ := head_receivedBox s p b
    rw [hq, hn, withMseq, takingBox]
    exact ⟨rfl, rfl, rfl⟩
  · rw [head_receivedBox_ne s b hq]
    exact ⟨rfl, rfl, rfl⟩

/-- A failed synchronising reset is reported to domain 1, which can take it. -/
theorem plyEvent_syncFailed {s : State} (hidle : (dom s 1).state = .idle) (p : Nat) (fields : List Int) :
    Kept s (plyEvent s 0x284 p fields) ∧ Uncut s (plyEvent s 0x284 p fields) := by
  have hroom : roomy s (defaultDomain 0x284) = true := roomy_of_idle hidle
  have hkept : Kept s (plyEvent s 0x284 p fields) := raise_kept s _ hroom
  have hother : 6 ≠ defaultDomain 0x284 := by decide
  exact ⟨hkept, by rw [hkept.pwr], raise_dom_ne hroom hother⟩

/-- The hub once every wait of a head's channels has ended. -/
def endWaits (s : State) (p : Nat) : State := (headChans p).foldl endWait s

theorem chan_receivedBox (s : State) (p : Nat) (b : Bytes) (c : Nat) : chan (receivedBox s p b) c = chan s c := by
  rw [(receivedBox_frame s p b).1]
  rfl

theorem dom_receivedBox (s : State) (p : Nat) (b : Bytes) (k : Nat) : dom (receivedBox s p b) k = dom s k := by
  rw [(receivedBox_frame s p b).1]
  rfl

theorem chan_of_flt {s t : State} (h : t.flt = s.flt) (c : Nat) : chan t c = chan s c := by
  rw [chan, h, chan]

theorem endWaits_spec (s : State) (p : Nat) :
    (endWaits s p).pwr = s.pwr ∧ (endWaits s p).ev = s.ev ∧ (endWaits s p).ply = s.ply := by
  have h : endWaits s p = { s with flt := (endWaits s p).flt } := foldl_endWait_frame _ s
  rw [h]
  exact ⟨rfl, rfl, rfl⟩

theorem exec_syncDone_clears {s : State} {p : Nat} {b : Bytes} (hcalm : calm s = true) (hidle : (dom s 1).state = .idle)
    (harrives : arrives s p 0x8C b = true) (hfailed : fld (boxWhole s p b) 4 1 = 1) :
    ∃ t, exec (.syncDone p b) s = .next t ∧ acked t p b ∧ ∀ c ∈ headChans p, ∀ f off, (chan s c).syncWait = some (f, off) →
      (chan t c).syncWait = none ∧ (chan t c).reset = some (resetLabel s c f off, false) := by
  obtain ⟨hpwr, hev, hply⟩ := endWaits_spec (receivedBox s p b) p
  have hdom : ∀ k, dom (endWaits (receivedBox s p b) p) k = dom (receivedBox s p b) k := dom_congr (by rw [hev])
  obtain ⟨hevent, huncut⟩ := plyEvent_syncFailed (s := endWaits (receivedBox s p b) p)
    (by rw [hdom, dom_receivedBox]; exact hidle) p [(fld (boxWhole s p b) 0 4 : Int)]
  have hfails : ¬ fld (boxWhole s p b) 4 1 = 0 := by omega
  obtain ⟨t, ht, hkept⟩ : ∃ t, exec (.syncDone p b) s = .next t ∧
      Kept (plyEvent (endWaits (receivedBox s p b) p) 0x284 p [(fld (boxWhole s p b) 0 4 : Int)]) t :=
    next_received _ hcalm harrives (by decide) (if_neg hfails) (Uncut.trans ⟨by rw [hpwr], hdom 6⟩ huncut)
  refine ⟨t, ht, ?_, fun c hc f off hwaits => ?_⟩
  · rw [acked_of_ply (hkept.ply.trans (hevent.ply.trans hply))]
    exact receivedBox_acked s p b
  · have hchan : chan t c = endedChan (receivedBox s p b) c f off :=
      (chan_of_flt (hkept.flt.trans hevent.flt) c).trans (chan_foldl_endWait hc (by rw [chan_receivedBox]; exact hwaits))
    rw [hchan, endedChan, resetLabel_receivedBox]
    exact ⟨rfl, rfl⟩

/-! ### Autonomous reports (R144, R145, R196–R199) -/

theorem Metered.foldl {α : Type} {f : State → α → State} (hf : ∀ s a, Metered s (f s a)) (l : List α) (s : State) :
    Metered s (l.foldl f s) := by
  induction l generalizing s with
  | nil => exact Metered.refl s
  | cons a l ih => exact (hf s a).trans (ih (f s a))

theorem Metered.ite {s t u : State} {c : Prop} [Decidable c] (ht : Metered s t) (hu : Metered s u) : Metered s (if c then t else u) := by
  split
  · exact ht
  · exact hu

theorem withTar_metered (s : State) (x : Tar) : Metered s { s with tar := x } :=
  ⟨rfl, ⟨rfl, rfl⟩, rfl, rfl, rfl, rfl, ⟨rfl, rfl⟩, rfl, rfl⟩

theorem setSession_metered (s : State) (id : Nat) (x : Session) : Metered s (setSession s id x) := withTar_metered s _

theorem setBill_metered (s : State) (t : Nat) (x : Bill) : Metered s (setBill s t x) := withTar_metered s _

theorem setMpRegs_metered (s : State) (m : Nat) (x : RegSet) : Metered s (setMpRegs s m x) := withTar_metered s _

/-- Booking is a matter of the tariff block (R272). -/
theorem bookFill_metered (s : State) (m : Nat) (a z : Int) (n0 n1 : Nat) (fill : List Nat) (bridged : Bool) :
    Metered s (bookFill s m a z n0 n1 fill bridged) := by
  unfold bookFill
  refine .ite (Metered.refl s) (Metered.trans (Metered.trans (Metered.foldl (fun x p => ?_) _ s)
    (Metered.foldl (fun x p => setMpRegs_metered x _ _) _ _)) (setBill_metered _ _ _))
  refine Metered.trans ?_ (setBill_metered _ _ _)
  split
  · exact setSession_metered _ _ _
  · exact Metered.refl x

/-- A filled span is entered at the metering point, logged, reported and booked (R197–R199). -/
theorem fillMp_metered (s : State) (m : Nat) (rep : Bytes) (ends span st : Int) : Metered s (fillMp s m rep ends span st) := by
  have hreport : ∀ u fields, Metered u (mpEvent u 0x301 m fields) := fun u fields => (raise_info_noted rfl).metered
  unfold fillMp
  split
  · exact Metered.refl s
  · split
    refine .ite (Metered.refl s) (Metered.trans ?_ (bookFill_metered _ _ _ _ _ _ _ _))
    exact ((setMp_metered s m _).trans (legalLog_metered _ _ _ _ _)).trans (hreport _ _)

theorem headTamper_beside (s : State) (p typ : Nat) : Beside s (headTamper s p typ) :=
  Beside.foldl _ (fun a m => tamper_beside a m typ) _ s

/-- A report that is refused is an event and a tamper of the head (R145, R196). -/
theorem reportBad_beside (s : State) (p cause : Nat) : Beside s (reportBad s p cause) :=
  (plyEvent_beside s p [(cause : Int)] rfl).trans (headTamper_beside _ p 5)

/-- A head whose autonomous time has been settled. -/
def withSpan (h : Head) (x : Option (Nat × Nat × Nat)) : Head := { h with span := x }

theorem setHead_ply_congr {s t : State} (h : t.ply = s.ply) (p : Nat) (x : Head) : (setHead t p x).ply = (setHead s p x).ply := by
  rw [setHead, h, setHead]

theorem useReport_spec (s : State) (p : Nat) (rep : Bytes) :
    Uncut s (useReport s p rep) ∧ ∃ x, (useReport s p rep).ply = (setHead s p (withSpan (head s p) x)).ply := by
  unfold useReport
  extract_lets h st boot named own said ok used s1 ends h' s2
  have h1 : Beside s s1 := .ite (Beside.refl s) (reportBad_beside s p 2)
  have h2 : ∃ x, s2 = setHead s1 p (withSpan (head s1 p) x) := ⟨_, rfl⟩
  clear_value s2 s1
  obtain ⟨x, rfl⟩ := h2
  have hfill : ∀ u : State, Metered u (if bit (fld rep 2 2) 2 then u
      else (headMps u p).foldl (fun a m => if bit (fld rep 41 1) (m % 4) && !mpAbsent a m then fillMp a m rep ends used st else a) u) :=
    fun u => .ite (Metered.refl u) (Metered.foldl (fun a m => .ite (fillMp_metered a m rep ends used st) (Metered.refl a)) _ u)
  have hfilled := hfill (setHead s1 p (withSpan (head s1 p) x))
  refine ⟨(h1.uncut.trans (setHead_uncut _ p _)).trans hfilled.uncut, x, ?_⟩
  rw [hfilled.ply, setHead_ply_congr h1.ply, head_of_ply h1.ply]

/-- Whether the signature of an autonomous report is its head's. -/
def reportSigned (h : Head) (m : Bytes) : Bool :=
  Config.ecdsaVerify (Config.certKey h.join.cert) (Config.sha256 (m.take 1164)) (slice m 1164 64)

/-- The hub once a report has come that it waited for. -/
def reportBox (s : State) (p : Nat) (b : Bytes) : State := reportDone (receivedBox s p b) p 1

theorem reportBox_spec (s : State) (p : Nat) (b : Bytes) : Uncut (receivedBox s p b) (reportBox s p b) ∧ acked (reportBox s p b) p b ∧
    (head (reportBox s p b) p).reports = (head s p).reports.filter (fun r => r.1 != 1) ∧
    (head (reportBox s p b) p).counted = (head s p).counted := by
  obtain ⟨n, hn⟩ := head_receivedBox s p b
  refine ⟨reportDone_uncut _ p 1, receivedBox_acked s p b, ?_⟩
  rw [reportBox, head_reportDone, hn]
  exact ⟨rfl, rfl⟩

theorem reportSigned_receivedBox (s : State) (p : Nat) (b m : Bytes) :
    reportSigned (head (receivedBox s p b) p) m = reportSigned (head s p) m := by
  rw [reportSigned, receivedBox_join, reportSigned]

/-- Whether a report's sequence has been taken from that head (R144). -/
def reportStale (s : State) (serial seq : Nat) : Bool :=
  match tfind s.ply.autonSeqs serial with
  | some n => decide (seq ≤ n)
  | none => false

/-- The hub once the sequence of a head's report is noted. -/
def withReportSeq (s : State) (serial seq : Nat) : State :=
  { s with ply := { s.ply with autonSeqs := tput s.ply.autonSeqs serial seq } }

theorem withReportSeq_spec (s : State) (serial seq p : Nat) (b : Bytes) : Uncut s (withReportSeq s serial seq) ∧
    head (withReportSeq s serial seq) p = head s p ∧ (acked (withReportSeq s serial seq) p b ↔ acked s p b) :=
  ⟨⟨rfl, rfl⟩, rfl, Iff.rfl⟩

/-- A head whose report was badly signed at this tick. -/
def withCounted (h : Head) (tick : Nat) : Head := { h with counted := tick :: h.counted }

section
variable {s : State} {p : Nat} {b : Bytes} (hcalm : calm s = true) (harrives : arrives s p 0x8A b = true)
include hcalm harrives

theorem exec_autonReport_counts (hbad : ¬ reportSigned (head s p) (boxWhole s p b) = true) :
    ∃ t, exec (.autonReport p b) s = .next t ∧ acked t p b ∧ (head t p).reports = (head s p).reports.filter (fun r => r.1 != 1) ∧
      (head t p).counted = s.bkd.tick :: (head s p).counted := by
  obtain ⟨hdone, hack, hreports, hcounted⟩ := reportBox_spec s p b
  have hevent := reportBad_beside (reportBox s p b) p 0
  have hfails : (!reportSigned (head (receivedBox s p b) p) (boxWhole s p b)) = true := by
    rw [reportSigned_receivedBox, Bool.eq_false_of_not_eq_true hbad]
    rfl
  obtain ⟨t, ht, hkept⟩ : ∃ t, exec (.autonReport p b) s = .next t ∧
      Kept (setHead (reportBad (reportBox s p b) p 0) p
        (withCounted (head (reportBad (reportBox s p b) p 0) p) (nowTick (receivedBox s p b)))) t :=
    next_received _ hcalm harrives (by decide) (if_pos hfails) ((hdone.trans hevent.uncut).trans (setHead_uncut _ p _))
  refine ⟨t, ht, ?_⟩
  rw [acked_of_ply hkept.ply, acked_setHead, acked_of_ply hevent.ply, head_of_ply hkept.ply, head_setHead, withCounted,
    head_of_ply hevent.ply]
  exact ⟨hack, hreports, by rw [hcounted, nowTick, (receivedBox_stands s p b).2.1]⟩

theorem exec_autonReport_uses (hsigned : reportSigned (head s p) (boxWhole s p b) = true) :
    ∃ t, exec (.autonReport p b) s = .next t ∧ acked t p b ∧ (head t p).reports = (head s p).reports.filter (fun r => r.1 != 1) ∧
      (head t p).counted = (head s p).counted := by
  obtain ⟨hdone, hack, hreports, hcounted⟩ := reportBox_spec s p b
  have hpasses : ¬ (!reportSigned (head (receivedBox s p b) p) (boxWhole s p b)) = true := by
    simp [reportSigned_receivedBox, hsigned]
  by_cases hstale : reportStale (receivedBox s p b) (head (receivedBox s p b) p).serial (fld (boxWhole s p b) 20 4) = true
  · have hevent := reportBad_beside (reportBox s p b) p 1
    obtain ⟨t, ht, hkept⟩ : ∃ t, exec (.autonReport p b) s = .next t ∧ Kept (reportBad (reportBox s p b) p 1) t :=
      next_received _ hcalm harrives (by decide) ((if_neg hpasses).trans (if_pos hstale)) (hdone.trans hevent.uncut)
    have hply := hkept.ply.trans hevent.ply
    refine ⟨t, ht, ?_⟩
    rw [acked_of_ply hply, head_of_ply hply]
    exact ⟨hack, hreports, hcounted⟩
  · obtain ⟨hnoted, hhead, hqueue⟩ := withReportSeq_spec (reportBox s p b) (head (receivedBox s p b) p).serial
      (fld (boxWhole s p b) 20 4) p b
    obtain ⟨hused, x, hply⟩ := useReport_spec
      (withReportSeq (reportBox s p b) (head (receivedBox s p b) p).serial (fld (boxWhole s p b) 20 4)) p (boxWhole s p b)
    obtain ⟨t, ht, hkept⟩ : ∃ t, exec (.autonReport p b) s = .next t ∧ Kept (useReport
        (withReportSeq (reportBox s p b) (head (receivedBox s p b) p).serial (fld (boxWhole s p b) 20 4)) p (boxWhole s p b)) t :=
      next_received _ hcalm harrives (by decide) ((if_neg hpasses).trans (if_neg hstale)) ((hdone.trans hnoted).trans hused)
    refine ⟨t, ht, ?_⟩
    rw [acked_of_ply (hkept.ply.trans hply), head_of_ply (hkept.ply.trans hply), acked_setHead, head_setHead, withSpan, hhead, hqueue]
    exact ⟨hack, hreports, hcounted⟩

end

/-- Settles O28, message by message: each finds its head as it was and is noted there, and what it brings beyond that works beside
the ring. -/
theorem headMessagesAreTaken : Obligations.HeadMessagesAreTaken := by
  intro s p b hcalm _ hdom1 _ h m
  refine ⟨exec_ack_ends hcalm, exec_surveyReply_notes hcalm, fun harrives => ?_, exec_event_takes hcalm,
    exec_syncDone_clears hcalm hdom1, fun harrives => ?_⟩
  · by_cases hok : versionOk m = true
    · simp only [if_pos hok]
      exact exec_version_notes hcalm harrives hok
    · simp only [if_neg hok]
      exact exec_version_refuses hcalm harrives hok
  · by_cases hsigned : reportSigned h m = true
    · obtain ⟨t, ht, hack, hreports, hcounted⟩ := exec_autonReport_uses hcalm harrives hsigned
      exact ⟨t, ht, hack, hreports, hcounted.trans (if_pos hsigned).symm⟩
    · obtain ⟨t, ht, hack, hreports, hcounted⟩ := exec_autonReport_counts hcalm harrives hsigned
      exact ⟨t, ht, hack, hreports, hcounted.trans (if_neg hsigned).symm⟩

end Sys2Proof.Proofs
end

section
/-!
Synchronising resets (R170, R171, R174): a sync is scheduled as a cue of tenant 0, the cue's start writes only the ring and the
waits of the channels in its scope, and a wait that lasts too long ends at the computed label.
-/
namespace Sys2Proof.Proofs

open Sys2Proof.Machine Sys2Proof.Laws

/-! ### Scheduling a sync (R49, R50, R170, R174) -/

theorem createCue_of_pick {s : State} {owner q : Nat} (kind : Nat) (st : Stamp) (arg : Nat) (h : pickCue s owner = some q) :
    createCue s kind st owner arg = (setCue s q ⟨st, kind, owner, .pending, arg⟩, q) := by
  rw [createCue, h]

theorem ownCue_of_room {s : State} {owner q : Nat} (kind : Nat) (st : Stamp) (arg : Nat) (hroom : cueRoom s owner = none)
    (hpick : pickCue s owner = some q) : ownCue s kind st owner arg = setCue s q ⟨st, kind, owner, .pending, arg⟩ := by
  rw [ownCue, hroom, createCue_of_pick kind st arg hpick]
  rfl

theorem sendSync_of_not_master {s : State} (h : s.ril.master = false) (st : Stamp) : sendSync s st = s := by
  simp [sendSync, h]

/-- The free ID reads the cues alone. -/
theorem pickCue_of_clk {s t : State} (h : t.clk = s.clk) (owner : Nat) : pickCue t owner = pickCue s owner := by
  simp only [pickCue, freeCue, cue_of_clk h]

/-- The hub with a DECIM_SYNC cue of tenant 0 at a stamp. -/
def withSyncCue (s : State) (q : Nat) (st : Stamp) (arg : Nat) : State := setCue s q ⟨st, cueSync, 0, .pending, arg⟩

/-- What a stamped SYNC_RESET is checked for, in the order of R506. -/
def syncChecks (s : State) (d : Desc) (st : Stamp) (arg : Nat) : List (Bool × Nat) :=
  [by0 d, (!(s.ril.member && s.ril.joined), stCascadeRole), (decide (arg ≠ 0), stBadArg),
    ((cueCheck s cueSync st).isNone, (cueCheck s cueSync st).getD stOk), (!syncConflict s st arg, stCueConflict),
    ((cueRoom s 0).isNone, (cueRoom s 0).getD stOk)]

/-- The checks read the clock, the backup domain, the objects in force and the cascade. -/
theorem syncChecks_of_kept {s t : State} (h : Kept s t) (d : Desc) (st : Stamp) (arg : Nat) :
    syncChecks t d st arg = syncChecks s d st arg := by
  have ht : t = { t with clk := s.clk, bkd := s.bkd, slu := s.slu, ril := s.ril } := by rw [← h.clk, ← h.bkd, ← h.slu, ← h.ril]
  rw [ht]
  rfl

theorem firstFail_syncChecks {s : State} {d : Desc} {st : Stamp} {arg : Nat} (hten : d.tenant = 0) (hmember : s.ril.member = false)
    (harg : arg ≠ 0) (hstamp : cueCheck s cueSync st = none) (hfree : syncConflict s st arg = false) (hroom : cueRoom s 0 = none) :
    firstFail (syncChecks s d st arg) = none := by
  simp [syncChecks, by0, firstFail, hten, hmember, harg, hstamp, hfree, hroom]

theorem exec_syncReset_schedules {s : State} {d : Desc} {heads loc st q : Nat} (h : canTake s d 0x0302 false = true)
    (hmaster : s.ril.master = false) (hst : st ≠ 0) (hpass : firstFail (syncChecks s d st (syncArg heads (bit loc 0))) = none)
    (hpick : pickCue s 0 = some q) :
    ∃ t, exec (.syncReset d heads loc st) s = .next t ∧ Told (withSyncCue s q st (syncArg heads (bit loc 0))) t ∧
      answered s t d stOk 0 (le 7 st ++ le 2 q) := by
  have htake := take_kept s d
  have hpass' : firstFail (syncChecks (take s d) d st (syncArg heads (bit loc 0))) = none := by rw [syncChecks_of_kept htake, hpass]
  have hpick' : pickCue (take s d) 0 = some q := by rw [pickCue_of_clk htake.clk, hpick]
  have hmaster' : (take s d).ril.master = false := by rw [htake.ril, hmaster]
  obtain ⟨t, ht, htold, hanswer⟩ : ∃ t, exec (.syncReset d heads loc st) s = .next t ∧
      Told (withSyncCue (take s d) q st (syncArg heads (bit loc 0))) t ∧ answered s t d stOk 0 (le 7 st ++ le 2 q) := by
    refine next_hostCmd_reply _ h ?_ rfl rfl rfl rfl
    simp only [if_neg hst]
    refine (checked_of_pass _ hpass').trans ?_
    rw [sendSync_of_not_master hmaster', createCue_of_pick _ _ _ hpick', withSyncCue]
  have hcue : withSyncCue (take s d) q st (syncArg heads (bit loc 0)) =
      { take s d with clk := (withSyncCue s q st (syncArg heads (bit loc 0))).clk } := by
    rw [withSyncCue, setCue, htake.clk]
    rfl
  exact ⟨t, ht, (hcue ▸ told_clk (take_told s d) (withSyncCue s q st _).clk).trans htold, hanswer⟩

/-- The hub that has taken an edge on SYNC_IN. -/
def withSyncEdge (s : State) : State := { s with flt := { s.flt with lastEdge := some (nowStamp s) } }

/-- The stamp an edge on SYNC_IN schedules in a cycle (R170). -/
def edgeStamp (s : State) (c : Nat) : Stamp := mkStamp (c + syncField s 1 1 + 1) (syncField s 2 2)

theorem exec_syncInEdge_schedules {s : State} {q c : Nat} (hcalm : calm s = true) (henabled : bit (syncField s 0 1) 0 = true)
    (hfirst : s.flt.lastEdge = none) (hmember : s.ril.member = false) (hmaster : s.ril.master = false)
    (hcycle : s.clk.cycle = some c) (hroom : cueRoom s 0 = none) (hpick : pickCue s 0 = some q)
    (hfree : syncConflict s (edgeStamp s c) (syncArg (2 ^ 64 - 1) true) = false) :
    exec (.syncInEdge true) s = .next (withSyncCue (withSyncEdge s) q (edgeStamp s c) (syncArg (2 ^ 64 - 1) true)) := by
  have hnow : nowCycle s = c := by rw [nowCycle, hcycle]; rfl
  have hcreates : ownCue (sendSync (withSyncEdge s) (edgeStamp s c)) cueSync (edgeStamp s c) 0 (syncArg (2 ^ 64 - 1) true) =
      withSyncCue (withSyncEdge s) q (edgeStamp s c) (syncArg (2 ^ 64 - 1) true) := by
    rw [sendSync_of_not_master (s := withSyncEdge s) hmaster]
    exact ownCue_of_room (s := withSyncEdge s) _ _ _ hroom hpick
  refine next_whenRunning_quiet _ hcalm ?_ rfl rfl rfl
  have hnear : ¬ ((false || (s.ril.member && s.ril.joined) || s.clk.cycle.isNone) = true) := by simp [hmember, hcycle]
  have hroomy : ¬ (syncConflict s (edgeStamp s c) (syncArg (2 ^ 64 - 1) true) = true ∨ (cueRoom s 0).isSome = true) := by
    rw [hfree, hroom]
    simp
  simp only [henabled, hfirst, hnow, Bool.not_true, Bool.or_self]
  exact (if_neg Bool.false_ne_true).trans ((if_neg hnear).trans ((if_neg hroomy).trans hcreates))

/-! ### Starting a sync (R114, R171) -/

/-- `t` differs from `s` only in the ring and the sample path. -/
def InFrames (s t : State) : Prop := t = { s with ply := t.ply, flt := t.flt }

theorem InFrames.refl (s : State) : InFrames s s := rfl

theorem InFrames.trans {s t u : State} (h : InFrames s t) (g : InFrames t u) : InFrames s u := by
  unfold InFrames at h g ⊢
  rw [g, h]

theorem InFrames.foldl {α : Type} {f : State → α → State} (hf : ∀ s a, InFrames s (f s a)) (l : List α) (s : State) :
    InFrames s (l.foldl f s) := by
  induction l generalizing s with
  | nil => exact .refl s
  | cons a l ih => exact (hf s a).trans (ih (f s a))

theorem sendShort_inFrames (s : State) (p typ : Nat) (payload : Bytes) : InFrames s (sendShort s p typ payload) := rfl

/-- A channel waits for its reset label behind an action frame and offset. -/
def awaitSync (fo : Nat × Nat) (s : State) (c : Nat) : State := setChan s c { chan s c with syncWait := some fo }

theorem foldl_awaitSync_frame (fo : Nat × Nat) (l : List Nat) (s : State) :
    l.foldl (awaitSync fo) s = { s with flt := (l.foldl (awaitSync fo) s).flt } := by
  induction l generalizing s with
  | nil => rfl
  | cons c l ih =>
    rw [List.foldl_cons, ih]
    rfl

theorem syncWait_awaitSync (fo : Nat × Nat) (s : State) (c j : Nat) :
    (chan (awaitSync fo s c) j).syncWait = if j = c then some fo else (chan s j).syncWait := by
  rw [awaitSync, chan_setChan]
  split <;> rfl

/-- A channel in a list waits; any other waits as it did. -/
theorem syncWait_foldl_awaitSync (fo : Nat × Nat) (l : List Nat) (s : State) (j : Nat) :
    (chan (l.foldl (awaitSync fo) s) j).syncWait = if j ∈ l then some fo else (chan s j).syncWait := by
  induction l generalizing s with
  | nil => rfl
  | cons c l ih =>
    rw [List.foldl_cons, ih, syncWait_awaitSync]
    by_cases hj : j = c
    · simp [hj]
    · simp [hj]

/-- The start of a sync: its action frame is noted for the K28.1 start, and every local channel in its scope waits. -/
theorem startSync_spec (s : State) (arg : Nat) (fo : Nat × Nat) :
    InFrames s (startSync s arg fo.1 fo.2) ∧ fo ∈ (startSync s arg fo.1 fo.2).ply.syncFrames ∧
      (bit arg 64 = true → ∀ c ∈ localChans, (chan (startSync s arg fo.1 fo.2) c).syncWait = some fo) := by
  unfold startSync
  extract_lets s1 ply1 s2 scope s3 flt3
  have hsent : InFrames s s1 := InFrames.foldl (fun a p => sendShort_inFrames a p 3 _) _ s
  have hwaits : s3 = { s2 with flt := s3.flt } := foldl_awaitSync_frame fo scope s2
  have hnoted : fo ∈ s3.ply.syncFrames := by
    rw [hwaits]
    exact List.mem_append_right _ (List.mem_singleton.mpr rfl)
  have hs3 : InFrames s s3 := (hsent.trans (u := s2) rfl).trans (by rw [hwaits]; rfl)
  refine ⟨hs3.trans rfl, hnoted, fun hlocal c hc => ?_⟩
  have hscope : c ∈ scope := List.mem_append_right _ (by rw [if_pos hlocal]; exact hc)
  exact (syncWait_foldl_awaitSync fo scope s2 c).trans (if_pos hscope)

/-- The hub with a cue ARMED. -/
def withArmed (s : State) (q : Nat) (c : Cue) : State := setCue s q { c with state := .armed }

theorem exec_decimSync_arms {s : State} {q : Nat} {fo : Nat × Nat} (hcalm : calm s = true) (hpending : (cue s q).state = .pending)
    (hkind : (cue s q).kind = cueSync) (hcycle : s.clk.cycle.isSome = true) (hup : s.pwr.serviceDown = false)
    (hplace : framePlace (stampFrames s (cue s q).stamp) = fo) (hlead : s.ply.frame + 16 ≤ fo.1) (hnear : fo.1 ≤ s.ply.frame + 64) :
    exec (.decimSync q) s = .next (withArmed (startSync s (cue s q).arg fo.1 fo.2) q (cue s q)) := by
  obtain ⟨hframes, -, -⟩ := startSync_spec s (cue s q).arg fo
  have hdue : ¬ ((!cuePending (cue s q) || (cue s q).kind != cueSync || s.clk.cycle.isNone) = true) := by
    obtain ⟨c, hc⟩ := Option.isSome_iff_exists.mp hcycle
    simp [cuePending, hpending, hkind, hc]
  have hunarmed : ¬ (cue s q).state = .armed := by simp [hpending]
  have hnotfar : ¬ s.ply.frame + 64 < fo.1 := by omega
  refine next_whenRunning_quiet _ hcalm ?_ ?_ ?_ ?_
  · simp only [if_neg hdue, hplace, if_neg hunarmed, hup, if_neg hnotfar, if_pos hlead]
    rfl
  all_goals
    unfold InFrames at hframes
    rw [withArmed, hframes]
    rfl

/-! ### A wait that lasts too long (R171) -/

theorem exec_syncSettleTimeout_ends {s : State} {c f off : Nat} (hcalm : calm s = true) (hwait : (chan s c).syncWait = some (f, off))
    (hlate : f + 64 ≤ s.ply.frame) : exec (.syncSettleTimeout c) s =
      .next (setChan s c { chan s c with syncWait := none, reset := some (resetLabel s c f off, true) }) := by
  refine next_whenRunning_quiet _ hcalm ?_ rfl rfl rfl
  simp only [hwait, if_pos hlate]

/-! ### The obligation -/

/-- Settles O31: the command and the edge pass their checks and create one cue; the cue's start stays within the ring and the sample
path, so its step only arms it; the timeout is one channel's change. -/
theorem syncResetsRun : Obligations.SyncResetsRun := by
  intro s
  refine ⟨?command, ?edge, ?starts, ?timeout⟩
  case command =>
    intro d heads loc st q h hten hmaster hmember harg hst hstamp hfree hroom hpick
    exact exec_syncReset_schedules h hmaster hst (firstFail_syncChecks hten hmember harg hstamp hfree hroom) hpick
  case edge =>
    intro q c hcalm henabled hfirst hmember hmaster hcycle hroom hpick st hfree
    exact ⟨_, exec_syncInEdge_schedules hcalm henabled hfirst hmember hmaster hcycle hroom hpick hfree, Told.refl _⟩
  case starts =>
    intro q hcalm hpending hkind hcycle hup fo hlead hnear
    obtain ⟨-, hnoted, hwaits⟩ := startSync_spec s (cue s q).arg fo
    refine ⟨_, exec_decimSync_arms hcalm hpending hkind hcycle hup rfl hlead hnear, ?_, hnoted, hwaits⟩
    rw [withArmed, cue_setCue]
  case timeout =>
    intro c f off hcalm hwait hlate
    exact exec_syncSettleTimeout_ends hcalm hwait hlate

end Sys2Proof.Proofs
end

section
/-!
CHECK of a set with a bad bus section (R206, R514, R532): a rule fails, so the set loses its stamp and the completion names the
first rule that failed.
-/
namespace Sys2Proof.Proofs

open Sys2Proof.Machine Sys2Proof.Laws

/-! ### Commands that report one INFO event and complete -/

theorem raise_info_io {s : State} {e : EvReq} (h : severity e.id e.star = 0) : Io s (raise s e) := raise_of_info h ▸ inform_io s e

/-- A command of a calm hub whose meaning changes neither the rings, nor the host interface, nor the archive's domain, nor the reset
controller, then records an INFO event and completes. -/
theorem next_hostCmd_inform_reply {s u : State} {d : Desc} {opc st : Nat} {data : Bool} {res : Bytes} {e : EvReq}
    (act : State → State) (h : canTake s d opc data = true) (hact : act (take s d) = reply (raise u e) d st res)
    (hinfo : severity e.id e.star = 0) (hrng : u.rng = (take s d).rng) (hhif : u.hif = (take s d).hif)
    (hpwr : u.pwr = (take s d).pwr) (hdoms : u.ev.doms = (take s d).ev.doms) :
    ∃ t, (.next (hostCmd s d opc data act) : Out) = .next t ∧ Told u t ∧ answered s t d st 0 res := by
  have htold := raise_info_told (s := u) hinfo
  have hio := raise_info_io (s := u) hinfo
  obtain ⟨t, ht, hrest, hanswer⟩ := next_hostCmd_reply act h hact (hio.rng.trans hrng) (hio.hif.trans hhif)
    (htold.kept.pwr.trans hpwr) ((raise_info_doms hinfo).trans hdoms)
  exact ⟨t, ht, htold.trans hrest, hanswer⟩

/-! ### CHECK of a set that fails (R514, R532) -/

theorem stage_of_slu {s t : State} (h : t.slu = s.slu) (k : Nat) : stage t k = stage s k := by
  rw [stage, h, stage]

/-- The hub with the staging set of a tenant unstamped. -/
def withUnstamped (s : State) (t : Nat) : State := setStage s t { stage s t with stamped := none, digest := [] }

theorem stamped_withUnstamped (s : State) (t : Nat) : (stage (withUnstamped s t) t).stamped = none :=
  congrArg Stage.stamped (tget_tput_self _ _ _ _)

/-- EV_SLU_CHECK of a set that failed, as the machine records it. -/
def failedEvent (s : State) (t rule obj : Nat) : EvReq :=
  { id := 0x7C0, data := le 1 t ++ le 1 0 ++ le 4 (stage s t).sgen ++ le 2 obj ++ le 2 rule ++ zeros 8 }

theorem exec_check_fails {s : State} {d : Desc} {rule obj : Nat} (h : canTake s d 0x0104 false = true)
    (hfail : checkFails (take s d) d.tenant = some (rule, obj)) :
    ∃ t, exec (.check d) s = .next t ∧ (stage t d.tenant).stamped = none ∧
      answered s t d (if rule = 3 then stSealed else stCheckFail) 0
        (le 4 (stage s d.tenant).sgen ++ zeros 8 ++ le 2 obj ++ le 2 rule) := by
  obtain ⟨t, ht, htold, hanswer⟩ : ∃ t, exec (.check d) s = .next t ∧ Told (withUnstamped (take s d) d.tenant) t ∧
      answered s t d (if rule = 3 then stSealed else stCheckFail) 0
        (le 4 (stage (take s d) d.tenant).sgen ++ zeros 8 ++ le 2 obj ++ le 2 rule) := by
    refine next_hostCmd_inform_reply (e := failedEvent (take s d) d.tenant rule obj) _ h ?_ ?_ rfl rfl rfl rfl
    · simp only [hfail]
      rfl
    · show severity 0x7C0 false = 0
      decide
  refine ⟨t, ht, ?_, ?_⟩
  · rw [stage_of_slu htold.kept.slu, stamped_withUnstamped]
  · rw [← stage_of_slu (take_kept s d).slu]
    exact hanswer

/-! ### The rule on bus sections (R206) -/

/-- A section whose incomer is an OUTLET or one of its own members breaks the rule. -/
theorem sectionsOk_false {c : State} {k : Nat} (hk : k < 8) (hmp : sectionField c k 0 2 < 256)
    (hbad : mpRole c (sectionField c k 0 2) = 0 ∨ mpSection c (sectionField c k 0 2) = k) : sectionsOk c = false := by
  unfold sectionsOk
  rw [List.all_eq_false]
  refine ⟨k, by rw [span_eq_range']; simp [hk], ?_⟩
  have hfar : ¬ 256 < sectionField c k 0 2 := by omega
  have hlocal : sectionField c k 0 2 ≠ 256 := by omega
  rcases hbad with hrole | hmember
  · simp [hfar, hlocal, hrole]
  · simp [hfar, hmember]

/-- CHECK fails when one of its rules does: the first of those. -/
theorem checkFails_of_rule {s : State} {t : Nat} {r : Nat × Nat × Bool} (hrule : r ∈ checkRules s t) (hbroken : r.2.2 = false) :
    ∃ rule obj, checkFails s t = some (rule, obj) := by
  have hfound : ((checkRules s t).find? fun r => !r.2.2).isSome = true := by
    rw [List.find?_isSome]
    exact ⟨r, hrule, by simp [hbroken]⟩
  obtain ⟨first, hfirst⟩ := Option.isSome_iff_exists.mp hfound
  exact ⟨first.1, first.2.1, by rw [checkFails, hfirst]; rfl⟩

theorem sectionRule_mem (s : State) (t : Nat) : (0x0012, objCode objSection 0, sectionsOk (candidate s t)) ∈ checkRules s t := by
  simp [checkRules]

theorem candidate_slu_of_slu {s t : State} (h : t.slu = s.slu) (k : Nat) : (candidate t k).slu = (candidate s k).slu := by
  unfold candidate
  rw [h, stage_of_slu h]
  cases tfind s.slu.images k with
  | none => simp only [withObjects, setSlu, h]
  | some i => simp only [withObjects, setSlu, h]

theorem sectionsOk_of_slu {c e : State} (h : c.slu = e.slu) : sectionsOk c = sectionsOk e := by
  have hc : c = { c with slu := e.slu } := by rw [← h]
  rw [hc]
  rfl

/-- Settles O21: the section breaks its rule in the candidate that the taken command sees, so CHECK fails, by this rule or by an
earlier one. -/
theorem checkRejectsABadSectionIncomer : Obligations.CheckRejectsABadSectionIncomer := by
  intro s d k h hk hmp hbad
  have hcandidate : (candidate (take s d) d.tenant).slu = (candidate s d.tenant).slu := candidate_slu_of_slu (take_kept s d).slu _
  have hbroken : sectionsOk (candidate (take s d) d.tenant) = false := by
    rw [sectionsOk_of_slu hcandidate, sectionsOk_false hk hmp hbad]
  obtain ⟨rule, obj, hfail⟩ := checkFails_of_rule (sectionRule_mem (take s d) d.tenant) hbroken
  obtain ⟨t, ht, hstamp, hanswer⟩ := exec_check_fails h hfail
  exact ⟨t, ht, hstamp, rule, obj, hanswer⟩

end Sys2Proof.Proofs
end

section
/-!
Test pulses and the junction's range (R195, R201, R202): a pulse is a change of its pin alone, and a change of the range is one
entry of the legal log's rolling section.
-/
namespace Sys2Proof.Proofs

open Sys2Proof.Machine Sys2Proof.Laws

/-! ### Pins (R201, R202) -/

theorem nth_setNth {α : Type} (d : α) {l : List α} {p : Nat} (x : α) (h : p < l.length) : nth d (setNth l p x) p = x := by
  induction l generalizing p with
  | nil => exact absurd h (Nat.not_lt_zero p)
  | cons y l ih =>
    cases p with
    | zero => rfl
    | succ p => exact ih (Nat.lt_of_succ_lt_succ h)

theorem pinOf_setPin {s : State} {p : Nat} (x : CfPin) (h : p < s.met.pins.length) : pinOf (setPin s p x) p = x := nth_setNth _ x h

/-- A pin whose pulse has begun at a frame. -/
def pulsed (x : CfPin) (f : Nat) : CfPin :=
  { x with
    pending := x.pending - 1, high := true, rise := some f
    width := match x.rise with
      | some r => min (fld x.cfg 3 1 * 1024) ((f - r) * 50)
      | none => fld x.cfg 3 1 * 1024
    count := x.count + 1, overrun := x.overrun && decide (65535 < x.pending - 1 + 1) }

theorem pinEmit_due {s : State} {p f : Nat} (hpending : 0 < (pinOf s p).pending) (hlow : (pinOf s p).high = false)
    (hspaced : ∀ r, (pinOf s p).rise = some r → r + 4 ≤ f) : pinEmit s p f = setPin s p (pulsed (pinOf s p) f) := by
  cases hrise : (pinOf s p).rise with
  | none =>
    simp only [pinEmit, pulsed, hrise, hlow]
    exact if_pos (by simp [hpending])
  | some r =>
    have hfree : r + 4 ≤ f := hspaced r hrise
    simp only [pinEmit, pulsed, hrise, hlow]
    exact if_pos (by simp [hpending, hfree])

theorem pinEmit_of_none_pending {s : State} {p : Nat} (f : Nat) (h : (pinOf s p).pending = 0) : pinEmit s p f = s := by
  unfold pinEmit
  extract_lets x free w width left
  exact if_neg (by simp [x, h])

theorem exec_cfSpacingExpire_pulses {s : State} {p : Nat} (hcalm : calm s = true) (hpending : 0 < (pinOf s p).pending)
    (hlow : (pinOf s p).high = false) (hspaced : ∀ r, (pinOf s p).rise = some r → r + 4 ≤ s.ply.frame) :
    exec (.cfSpacingExpire p) s = .next (setPin s p (pulsed (pinOf s p) s.ply.frame)) :=
  next_whenRunning_quiet _ hcalm (pinEmit_due hpending hlow hspaced) rfl rfl rfl

theorem exec_cfWidthEnd_lowers {s : State} {p r : Nat} (hcalm : calm s = true) (hp : p < s.met.pins.length)
    (hnone : (pinOf s p).pending = 0) (hhigh : (pinOf s p).high = true) (hrise : (pinOf s p).rise = some r)
    (hpassed : (pinOf s p).width ≤ (s.ply.frame - r) * 100) :
    exec (.cfWidthEnd p) s = .next (setPin s p { pinOf s p with high := false }) := by
  refine next_whenRunning_quiet _ hcalm ?_ rfl rfl rfl
  have hquiet : (pinOf (setPin s p { pinOf s p with high := false }) p).pending = 0 := by rw [pinOf_setPin _ hp, hnone]
  have hlowers : pinEmit (setPin s p { pinOf s p with high := false }) p s.ply.frame = setPin s p { pinOf s p with high := false } :=
    pinEmit_of_none_pending _ hquiet
  extract_lets x
  split
  case h_1 r' hrise' =>
    obtain rfl : r = r' := Option.some.inj (hrise.symm.trans hrise')
    exact (if_pos ⟨hhigh, hpassed⟩).trans hlowers
  case h_2 hrise' => exact absurd (hrise.symm.trans hrise') (Option.some_ne_none r)

/-! ### The junction's range (R195) -/

/-- An entry of the rolling section with room for it: one more entry, one SEQ on, and the permanent section stands (R248, R249). -/
theorem legalLog_rolling {s : State} {typ : Nat} (flags mp : Nat) (data : Bytes) (hwritable : legalReadOnly s = false)
    (hroll : permType typ = false) (hroom : s.lgl.roll.length + 1 < rollCapacity) :
    (legalLog s typ flags mp data).lgl.seq = s.lgl.seq + 1 ∧
      (legalLog s typ flags mp data).lgl.roll.length = s.lgl.roll.length + 1 ∧ (legalLog s typ flags mp data).lgl.perm = s.lgl.perm := by
  have hadd : legalLog s typ flags mp data = logEntryAdd s typ flags mp (nowTick s) data := by
    simp [legalLog, legalLogAt, logWrap, hwritable, hroll, hroom]
  rw [hadd, logEntryAdd]
  simp [hroll]

/-- The hub that has noted whether its junction is outside the metrology range. -/
def withTempExt (s : State) (outside : Bool) : State := { s with met := { s.met with tempExt := outside } }

/-- The work of JUNCTION_TEMP_RANGE at a change: the range is noted and logged. -/
def rangeLogged (s : State) (outside : Bool) (temp : Int) : State :=
  legalLog (withTempExt s outside) 0x0C (flag (!outside) 0) 0xFFFF (leInt 2 temp)

theorem rangeLogged_frame (s : State) (outside : Bool) (temp : Int) :
    ∃ l : Seal, rangeLogged s outside temp = { withTempExt s outside with lgl := l } := legalLog_eq _ _ _ _ _

/-- The report of a change, as the machine records it. -/
def rangeEvent (outside : Bool) (temp : Int) : EvReq :=
  { id := 0x305, data := Config.eventData 0x305 [if outside then 0 else 1, temp] }

theorem rangeEvent_info (outside : Bool) (temp : Int) : severity (rangeEvent outside temp).id (rangeEvent outside temp).star = 0 := by
  show severity 0x305 false = 0
  decide

theorem exec_junctionTempRange_logs {s : State} {outside : Bool} (temp : Int) (hcalm : calm s = true) (hmoved : s.met.tempExt ≠ outside) :
    ∃ t, exec (.junctionTempRange outside temp) s = .next t ∧ Kept (rangeLogged s outside temp) t := by
  have hlogged : Uncut s (rangeLogged s outside temp) := by
    obtain ⟨l, hl⟩ := rangeLogged_frame s outside temp
    rw [hl]
    exact ⟨rfl, rfl⟩
  have hraised := raise_info_beside (s := rangeLogged s outside temp) (rangeEvent_info outside temp)
  have hreported := (raise_info_told (s := rangeLogged s outside temp) (rangeEvent_info outside temp)).kept
  obtain ⟨t, ht, hkept⟩ : ∃ t, exec (.junctionTempRange outside temp) s = .next t ∧
      Kept (raise (rangeLogged s outside temp) (rangeEvent outside temp)) t :=
    next_whenRunning_kept _ hcalm (if_neg hmoved) (hlogged.trans hraised.uncut)
  exact ⟨t, ht, hreported.trans hkept⟩

/-- Settles O32: a pulse due and a pulse past its width are changes of the pin alone; the junction's step notes the range and adds
the entry. -/
theorem testPulsesAndTemperature : Obligations.TestPulsesAndTemperature := by
  intro s hcalm
  refine ⟨?spacing, ?width, ?junction⟩
  case spacing =>
    intro p hp hpending hlow hspaced
    have hpin := pinOf_setPin (s := s) (pulsed (pinOf s p) s.ply.frame) hp
    refine ⟨_, exec_cfSpacingExpire_pulses hcalm hpending hlow hspaced, rfl, ?_⟩
    rw [hpin]
    exact ⟨rfl, rfl, Nat.sub_add_cancel hpending, rfl⟩
  case width =>
    intro p r hp hnone hhigh hrise hpassed
    exact exec_cfWidthEnd_lowers hcalm hp hnone hhigh hrise hpassed
  case junction =>
    intro outside temp hmoved hwritable hroom
    obtain ⟨t, ht, hkept⟩ := exec_junctionTempRange_logs temp hcalm hmoved
    obtain ⟨l, hl⟩ := rangeLogged_frame s outside temp
    refine ⟨t, ht, by rw [hkept.met, hl]; rfl, ?_⟩
    rw [hkept.lgl]
    exact legalLog_rolling (s := withTempExt s outside) _ _ _ hwritable (by decide) hroom

end Sys2Proof.Proofs
end

section
/-!
The power-fail commit (R192, R372, R572–R575, Table PWR.6): with no increment, frame or play under way its steps touch the archive,
the reset controller and the tamper marks alone, so what step 4 and the CHIP reset read is what the hub held at the trip.
-/
namespace Sys2Proof.Proofs

open Sys2Proof.Machine Sys2Proof.Laws

/-! ### What the steps leave alone -/

/-- The commit has come from `s` to `u`: beside the reset controller and the tamper marks it has worked in the archive, whose ladders,
increments and erases stand. -/
structure CommitWork (s u : State) : Prop where
  frame : u = { s with cis := u.cis, ev := u.ev, pwr := u.pwr }
  ladders : u.cis.ladders = s.cis.ladders
  incs : u.cis.incs = s.cis.incs
  erases : u.cis.erases = s.cis.erases
  batch : u.ev.batch = s.ev.batch
  doms : u.ev.doms = s.ev.doms
  inReset : u.pwr.inReset = s.pwr.inReset
  resumed : u.pwr.resumed = s.pwr.resumed

theorem CommitWork.refl (s : State) : CommitWork s s := ⟨rfl, rfl, rfl, rfl, rfl, rfl, rfl, rfl⟩

theorem CommitWork.trans {s t u : State} (h : CommitWork s t) (g : CommitWork t u) : CommitWork s u :=
  ⟨by rw [g.frame, h.frame], g.ladders.trans h.ladders, g.incs.trans h.incs, g.erases.trans h.erases, g.batch.trans h.batch,
    g.doms.trans h.doms, g.inReset.trans h.inReset, g.resumed.trans h.resumed⟩

theorem CommitWork.ite {s t u : State} {c : Prop} [Decidable c] (ht : CommitWork s t) (hu : CommitWork s u) :
    CommitWork s (if c then t else u) := by
  split
  · exact ht
  · exact hu

theorem endPlays_of_silent {s : State} {c : Nat} (what : Nat) (gone : Nat → PlayOwner → Bool) (h : (annChan s c).stack = []) :
    endPlays s c what gone = s := by
  simp [endPlays, h]

/-- Step 1 of a hub off the air and without plays. -/
theorem commitFreeze_of_silent {s : State} (hair : s.cmp.air = none) (hsilent : ∀ c, (annChan s c).stack = []) :
    commitFreeze s = { s with pwr := { s.pwr with committing := true } } := by
  unfold commitFreeze bothChans
  extract_lets pwr0 s0 s1
  have hoff : s1 = s0 := by simp only [s1, show s0.cmp.air = none from hair]
  have hends : ∀ c, endPlays s0 c 6 (fun _ _ => true) = s0 := fun c => endPlays_of_silent 6 _ (hsilent c)
  rw [hoff]
  simp only [hends]
  rfl

/-- The page program under way concerns neither the ladders, nor the erases, nor the residual image (R383). -/
theorem finishUnit_keeps (s : State) : CommitWork s (finishUnit s) ∧ (finishUnit s).cis.image = s.cis.image := by
  unfold finishUnit
  split
  · split_ifs
    · exact ⟨⟨rfl, rfl, rfl, rfl, rfl, rfl, rfl, rfl⟩, rfl⟩
    · exact ⟨.refl s, rfl⟩
  · exact ⟨.refl s, rfl⟩

theorem finishPairs_of_none {s : State} (h : s.cis.incs = []) : finishPairs s.cis.incs.length s = s := by
  rw [h]
  rfl

theorem closeCustodyPage_keeps (s : State) : CommitWork s (closeCustodyPage s) ∧ (closeCustodyPage s).cis.image = s.cis.image :=
  ⟨⟨rfl, rfl, rfl, rfl, rfl, rfl, rfl, rfl⟩, rfl⟩

/-! ### The residual journal image (R192, R372) -/

/-- An image of the run of `s`, with a page for each present MP that holds its residuals. -/
def ImageOf (s : State) (i : ResImage) : Prop :=
  i.run = runNumber s ∧ i.pages.map (·.1) = presentMps s ∧ ∀ p ∈ i.pages, p.2.res = residuals s p.1

theorem writeImage_keeps (s : State) : CommitWork s (writeImage s) := ⟨rfl, rfl, rfl, rfl, rfl, rfl, rfl, rfl⟩

theorem writeImage_image (s : State) : ∃ i, (writeImage s).cis.image = some i ∧ ImageOf s i := by
  refine ⟨_, rfl, rfl, ?_, fun p hp => ?_⟩
  · rw [List.map_map]
    exact List.map_id _
  · obtain ⟨m, -, rfl⟩ := List.mem_map.mp hp
    rfl

theorem imageDue_of_work {s u : State} (h : CommitWork s u) : imageDue u = imageDue s := by
  simp only [imageDue, journalErased, h.resumed, h.erases]

theorem runNumber_of_ladders {s t : State} (h : t.cis.ladders = s.cis.ladders) : runNumber t = runNumber s :=
  congrArg (fun l => valueOf (tget {} l (ladderKey 0 runLid))) h

/-- The steps before it have left what the image holds. -/
theorem ImageOf.of_work {s u : State} {i : ResImage} (h : CommitWork s u) (hi : ImageOf u i) : ImageOf s i := by
  obtain ⟨hrun, hpages, hres⟩ := hi
  have hslu : u.slu = s.slu := by rw [h.frame]
  have hbkd : u.bkd = s.bkd := by rw [h.frame]
  refine ⟨hrun.trans (runNumber_of_ladders h.ladders), hpages.trans (presentMps_of_slu hslu), fun p hp => (hres p hp).trans ?_⟩
  rw [residuals, hbkd, residuals]

/-! ### The steps of Table PWR.6 (R573, R575) -/

/-- The CHIP reset that ends the commit of a power failure, held until the supply is good again (R575). -/
def heldReset (s : State) : State :=
  { enterChipReset s 1 5 0xFF with pwr := { (enterChipReset s 1 5 0xFF).pwr with pfHold := true } }

/-- The steps done are those of the hub at the trip, and note themselves; step 4 writes the image of that hub. -/
theorem powerCommit_steps {s : State} (done us : Nat) (hair : s.cmp.air = none) (hsilent : ∀ c, (annChan s c).stack = [])
    (hincs : s.cis.incs = []) :
    ∃ u, powerCommit s 5 done us = (if 6 ≤ done then heldReset u else u) ∧ CommitWork s u ∧ u.pwr.committing = true ∧
      u.pwr.last.commit = some (2 ^ done - 1, us, s.bkd.tick) ∧ u.pwr.last.step4Due = imageDue s ∧
      (4 ≤ done → imageDue s = true → ∃ i, u.cis.image = some i ∧ ImageOf s i) := by
  unfold powerCommit
  extract_lets s1 s2 t ev s3 pwr last s4 s5 s6 r pwrHeld bkdLow
  have hfreeze : CommitWork s s1 := by
    refine CommitWork.ite ?_ (.refl s)
    rw [commitFreeze_of_silent hair hsilent]
    exact ⟨rfl, rfl, rfl, rfl, rfl, rfl, rfl, rfl⟩
  have hunit : CommitWork s s2 := hfreeze.trans (.ite (finishUnit_keeps s1).1 (.refl s1))
  have hpairs : t = s2 := finishPairs_of_none (hunit.incs.trans hincs)
  have hmarks : CommitWork s s3 := by
    refine hunit.trans (.ite ?_ (.refl s2))
    simp only [ev, hpairs]
    exact ⟨rfl, rfl, rfl, rfl, rfl, rfl, rfl, rfl⟩
  have hnoted : CommitWork s s4 := hmarks.trans ⟨rfl, rfl, rfl, rfl, rfl, rfl, rfl, rfl⟩
  have hdue : imageDue s4 = imageDue s := imageDue_of_work hnoted
  have himage : CommitWork s4 s5 ∧ s5.pwr = s4.pwr := by
    refine ⟨.ite (writeImage_keeps s4) (.refl s4), ?_⟩
    simp only [s5]
    split <;> rfl
  have hpage : CommitWork s5 s6 ∧ s6.pwr = s5.pwr ∧ s6.cis.image = s5.cis.image := by
    simp only [s6]
    split
    · exact ⟨(closeCustodyPage_keeps s5).1, rfl, rfl⟩
    · exact ⟨.refl s5, rfl, rfl⟩
  obtain ⟨hwork, hpwr, hkept⟩ := hpage
  have hsteps : s6.pwr = s4.pwr := hpwr.trans himage.2
  refine ⟨s6, by rw [if_pos rfl]; rfl, hnoted.trans (himage.1.trans hwork), by rw [hsteps], by rw [hsteps]; rfl, ?_, fun hdone h4 => ?_⟩
  · rw [hsteps]
    exact imageDue_of_work hmarks
  · obtain ⟨i, hi, hof⟩ := writeImage_image s4
    have hwritten : s5 = writeImage s4 := if_pos ⟨hdone, hdue.trans h4⟩
    exact ⟨i, by rw [hkept, hwritten, hi], hof.of_work hnoted⟩

/-! ### The CHIP reset that follows (R564, R575) -/

theorem enterChipReset_image {s : State} (scope cause domain : Nat) (hrun : running s = true) (hbatch : s.ev.batch = []) :
    (enterChipReset s scope cause domain).cis.image = s.cis.image := by
  have hfree : ¬ s.pwr.inReset = true := by simpa [running] using hrun
  unfold enterChipReset
  rw [if_neg hfree, issueBatch_of_empty hbatch]
  split_ifs with hbor
  · rfl
  · exact (finishUnit_keeps s).2

/-- The end of the step in a held CHIP reset: what the reset clears is clear, and the commit and its image stand. -/
theorem settle_heldReset {s : State} (hrun : running s = true) (hbatch : s.ev.batch = []) :
    clearVolatile (settle (heldReset s)) = settle (heldReset s) ∧ (settle (heldReset s)).cis.image = s.cis.image ∧
      (settle (heldReset s)).pwr = { resetPwr s 1 5 0xFF with pfHold := true } := by
  obtain ⟨c, -, hreset⟩ := enterChipReset_running 1 5 0xFF hrun hbatch
  have hpwr : (heldReset s).pwr = { resetPwr s 1 5 0xFF with pfHold := true } := by rw [heldReset, hreset]
  have himage : (heldReset s).cis.image = s.cis.image := enterChipReset_image 1 5 0xFF hrun hbatch
  have hsettled : settle (heldReset s) = clearVolatile (heldReset s) := by
    unfold settle
    exact if_pos (by rw [hpwr]; rfl)
  rw [hsettled]
  exact ⟨clearVolatile_clearVolatile _, himage, hpwr⟩

theorem exec_pfail_trips {s : State} (done us : Nat) (hrun : running s = true) (hfree : s.pwr.committing = false) :
    exec (.pfail done us) s = .next (settle (powerCommit s 5 (min 6 done) us)) :=
  congrArg Host.Outcome.next (if_pos ⟨hrun, by rw [hfree]; rfl⟩)

theorem exec_pfail_ignored {s : State} (done us : Nat) (h : s.pwr.committing = true) : exec (.pfail done us) s = .next s :=
  congrArg Host.Outcome.next (if_neg (by simp [h]))

/-- Settles O58: a hub with nothing under way reaches its reset with the reset controller and the archive of the trip; cut short, the
end of the step reports what the steps did. -/
theorem thePowerFailCommit : Obligations.ThePowerFailCommit := by
  intro s done us hcalm hincs hair hsilent
  obtain ⟨hrun, hfree, hbatch, -, harchive⟩ := calm_parts hcalm
  refine ⟨exec_pfail_ignored done us, ?whole, ?cut⟩
  case whole =>
    intro hcommit hdone
    obtain ⟨u, hu, hwork, -, hnoted, hdue, himage⟩ := powerCommit_steps (min 6 done) us hair hsilent hincs
    have hall : min 6 done = 6 := Nat.min_eq_left hdone
    rw [hall] at hu hnoted himage
    have hrunu : running u = true := by rw [running, hwork.inReset, hfree]; rfl
    obtain ⟨hclear, hkept, hpwr⟩ := settle_heldReset hrunu (hwork.batch.trans hbatch)
    refine ⟨settle (heldReset u), by rw [exec_pfail_trips done us hrun hcommit, hall, hu]; rfl, ?_⟩
    rw [hpwr]
    refine ⟨rfl, rfl, rfl, hnoted, hclear, fun hresumed herased => ?_⟩
    have h4 : imageDue s = true := by rw [imageDue, hresumed, herased]; rfl
    obtain ⟨i, hi, hof⟩ := himage (by decide) h4
    exact ⟨hdue.trans h4, i, hkept.trans hi, hof⟩
  case cut =>
    intro hcommit hdone
    obtain ⟨u, hu, hwork, hcommitting, hnoted, -, -⟩ := powerCommit_steps (min 6 done) us hair hsilent hincs
    have hsome : min 6 done = done := Nat.min_eq_right (Nat.le_of_lt hdone)
    rw [hsome] at hu hnoted
    rw [if_neg (Nat.not_le.mpr hdone)] at hu
    have hreset : u.pwr.inReset = false := hwork.inReset.trans hfree
    have htold := settle_told u hreset ((roomy_congr hwork.doms).trans harchive)
    refine ⟨settle u, by rw [exec_pfail_trips done us hrun hcommit, hsome, hu], ?_⟩
    rw [htold.kept.pwr]
    exact ⟨hreset, hcommitting, hnoted⟩

end Sys2Proof.Proofs
end

section
/-!
Reads of registers, sessions and bills, and signed readings (R187, R191, R324, R325, R338, R342, R516–R518): an output that fits its
buffer is written at DPTR before the completion, and a signed reading whose items stand opens its signing operation at once.
-/
namespace Sys2Proof.Proofs

open Sys2Proof.Machine Sys2Proof.Laws

/-! ### Commands that write an output (R507) -/

theorem sent_frame {s t : State} (h : Sent s t) : t = { s with hif := t.hif, rng := t.rng } := by
  simp only [← h.kept.pending, ← h.kept.free, ← h.kept.clk, ← h.kept.bkd, ← h.kept.ply, ← h.kept.flt, ← h.kept.met, ← h.kept.pqe,
    ← h.kept.lgl, ← h.kept.tar, ← h.kept.crd, ← h.kept.cus, ← h.kept.key, ← h.kept.cmp, ← h.kept.ann, ← h.kept.slu, ← h.kept.ril,
    ← h.kept.pwr, ← h.kept.reg, ← h.ev, ← h.cis, ← h.cmd]

theorem mem_dma_out {s : State} {t a : Nat} (b : Bytes) (h : live s t = true) : .write t a b ∈ (dma s t a b).hif.out := by
  rw [dma, if_pos h]
  exact List.mem_append_right _ (List.mem_singleton.mpr rfl)

theorem mem_out_of_grew {s t : State} (h : Grew s t) {x : HostOut} (hx : x ∈ s.hif.out) : x ∈ t.hif.out := by
  obtain ⟨l, hl⟩ := h.out
  rw [hl]
  exact List.mem_append_left _ hx

/-- What a taken command has done once it has written its output and completed. -/
structure Output (s : State) (d : Desc) (out res : Bytes) (t : State) : Prop where
  told : Told s t
  doms : t.ev.doms = s.ev.doms
  written : .write d.tenant d.dptr out ∈ t.hif.out
  answer : answered s t d stOk out.length res

theorem replyOut_fits {s : State} {d : Desc} {opc : Nat} {data : Bool} {out : Bytes} (res : Bytes) (h : canTake s d opc data = true)
    (hfits : out.length ≤ d.dlen) : Output s d out res (replyOut (take s d) d out res) := by
  obtain ⟨htaken, hlive, -, -⟩ := canTake_parts h
  have hready := taken_ready htaken
  obtain ⟨-, hactive, -, -, -, hsub, -⟩ := ready_rings hready
  obtain ⟨-, hring, -⟩ := take_rings hready
  let u := dma (take s d) d.tenant d.dptr out
  have hrng : u.rng = (take s d).rng := dma_rng _ _ _ _
  have hsame : ring u d.tenant d.ring = ring (take s d) d.tenant d.ring := by unfold ring; rw [hrng]
  have hstands : (ring u d.tenant d.ring).state ≠ .deleting := by
    rw [hsame, hring]
    simp [hactive]
  have hreply : replyOut (take s d) d out res = complete u d (ring u d.tenant d.ring).head stOk out.length res := by
    rw [hsame]
    exact if_neg (Nat.not_lt.mpr hfits)
  have hsent : Sent u (complete u d (ring u d.tenant d.ring).head stOk out.length res) := complete_sent _ _ _ _ hstands
  have hdma := dma_sent (take s d) d.tenant d.dptr out
  have htake := take_sent s d
  rw [hreply]
  refine ⟨?_, ?_, ?_, ?_⟩
  · exact (take_told s d).trans ((dma_told _ _ _ _).trans (complete_told _ _ _ _ _ _ hstands))
  · rw [hsent.ev, hdma.ev, htake.ev]
  · exact mem_out_of_grew hsent.grew (mem_dma_out out ((take_live s d hsub d.tenant).trans hlive))
  · exact complete_answered hready hlive hrng (hdma.ctxs.trans htake.ctxs) (dma_live _ _ _ _ _) hdma.grew

/-- The step of a command that writes its output and then works on without the host. -/
theorem next_hostCmd_output {s w : State} {d : Desc} {opc : Nat} {data : Bool} {out res : Bytes} (act : State → State)
    (h : canTake s d opc data = true) (hfits : out.length ≤ d.dlen) (hact : act (take s d) = w)
    (hhif : w.hif = (replyOut (take s d) d out res).hif) (hpwr : w.pwr = (replyOut (take s d) d out res).pwr)
    (hdoms : w.ev.doms = (replyOut (take s d) d out res).ev.doms) :
    ∃ t, (.next (hostCmd s d opc data act) : Out) = .next t ∧ Told w t ∧ .write d.tenant d.dptr out ∈ t.hif.out ∧
      answered s t d stOk out.length res := by
  obtain ⟨htaken, -, hfree, hroom⟩ := canTake_parts h
  have hout := replyOut_fits res h hfits
  have hend : Told w (settle w) := settle_told w (by rw [hpwr, hout.told.kept.pwr, hfree]) ((roomy_congr (hdoms.trans hout.doms)).trans hroom)
  have hgrew : Grew (replyOut (take s d) d out res) (settle w) := (Grew.of_hif hhif).trans hend.out
  exact ⟨settle w, by rw [hostCmd_taken act htaken, hact], hend, mem_out_of_grew hgrew hout.written, answered_grew hout.answer hgrew⟩

/-- The step of a command that writes its output and does no more. -/
theorem next_hostCmd_replyOut {s : State} {d : Desc} {opc : Nat} {data : Bool} {out res : Bytes} (act : State → State)
    (h : canTake s d opc data = true) (hfits : out.length ≤ d.dlen) (hact : act (take s d) = replyOut (take s d) d out res) :
    ∃ t, (.next (hostCmd s d opc data act) : Out) = .next t ∧ Told s t ∧ .write d.tenant d.dptr out ∈ t.hif.out ∧
      answered s t d stOk out.length res := by
  obtain ⟨t, ht, htold, hwritten, hanswer⟩ := next_hostCmd_output act h hfits hact rfl rfl rfl
  exact ⟨t, ht, (replyOut_fits res h hfits).told.trans htold, hwritten, hanswer⟩

/-! ### READ_REGISTERS (R187, R191, R516) -/

/-- A read MP loses its FILLED mark (R187). -/
def withRead (s : State) (m : Nat) : State := setMp s m { mpOf s m with filled := false }

theorem mpOf_withRead (s : State) (m k : Nat) : mpOf (withRead s m) k = if k = m then { mpOf s m with filled := false } else mpOf s k :=
  tget_tput _ _ _ _ _

theorem foldl_withRead_frame (l : List Nat) (s : State) : l.foldl withRead s = { s with met := (l.foldl withRead s).met } := by
  induction l generalizing s with
  | nil => rfl
  | cons m l ih =>
    rw [List.foldl_cons, ih]
    rfl

/-- The MPs of a list are read, and no other is. -/
theorem mpOf_foldl_withRead (l : List Nat) (s : State) (k : Nat) :
    mpOf (l.foldl withRead s) k = if k ∈ l then { mpOf s k with filled := false } else mpOf s k := by
  induction l generalizing s with
  | nil => rfl
  | cons m l ih =>
    rw [List.foldl_cons, ih, mpOf_withRead]
    by_cases hk : k = m
    · simp [hk]
    · simp [hk]

theorem mpOf_of_met {s t : State} (h : t.met = s.met) (m : Nat) : mpOf t m = mpOf s m := by
  rw [mpOf, h, mpOf]

/-- A taken command sees what the hub had: a record reads no ring and nothing of the host interface. -/
theorem metRecord_take (s : State) (d : Desc) (m : Nat) (est : Bool) : metRecord (take s d) m est = metRecord s m est := by
  rw [sent_frame (take_sent s d)]
  rfl

theorem exec_readRegisters_reads {s : State} {d : Desc} {m n w : Nat} {out : Bytes} (h : canTake s d 0x0301 true = true)
    (hten : d.tenant = 0) (hn : 1 ≤ n) (hrange : m + n ≤ 257) (hw : w < 2)
    (hout : out = (span m n).flatMap fun k => metRecord s k (w == 1)) (hfits : out.length ≤ d.dlen) :
    ∃ t, exec (.readRegisters d m n w) s = .next t ∧ .write d.tenant d.dptr out ∈ t.hif.out ∧ answered s t d stOk out.length [] ∧
      ∀ k, mpOf t k = if k ∈ span m n then { mpOf s k with filled := false } else mpOf s k := by
  have hall : min n 257 = n := Nat.min_eq_left (by omega)
  have hpass : ∀ ok, firstFail [(d.tenant == 0 || ok, stNotPermitted), (decide (1 ≤ n ∧ m + n ≤ 257 ∧ w < 2), stBadArg)] = none := by
    intro ok
    simp [firstFail, hten, hn, hrange, hw]
  have hframe := foldl_withRead_frame (span m n) (replyOut (take s d) d out [])
  obtain ⟨t, ht, htold, hwritten, hanswer⟩ : ∃ t, exec (.readRegisters d m n w) s = .next t ∧
      Told ((span m n).foldl withRead (replyOut (take s d) d out [])) t ∧ .write d.tenant d.dptr out ∈ t.hif.out ∧
      answered s t d stOk out.length [] := by
    refine next_hostCmd_output _ h hfits ?_ (by rw [hframe]) (by rw [hframe]) (by rw [hframe])
    simp only [hall]
    refine (checked_of_pass _ (hpass _)).trans ?_
    simp only [metRecord_take, ← hout]
    exact if_neg (Nat.not_lt.mpr hfits)
  refine ⟨t, ht, hwritten, hanswer, fun k => ?_⟩
  have hbefore := mpOf_of_met (replyOut_fits (out := out) [] h hfits).told.kept.met k
  rw [mpOf_of_met htold.kept.met, mpOf_foldl_withRead, hbefore]

/-! ### SESSION_LIST and BILL_READ (R517, R518) -/

/-- What SESSION_LIST finds: the open sessions of a tenant, or of all, from an ID on. -/
def listed (s : State) (n a : Nat) : List (Nat × Session) :=
  (sessions s).filter fun p => p.2.isOpen && decide (a ≤ p.1) && (n == 0xFF || p.2.tenant == n)

/-- The records of listed sessions. -/
def listBytes (s : State) (l : List (Nat × Session)) : Bytes := (l.map fun p => sessionBytes s p.1 p.2).flatten

theorem listBytes_take (s : State) (d : Desc) (l : List (Nat × Session)) : listBytes (take s d) l = listBytes s l := by
  rw [sent_frame (take_sent s d)]
  rfl

theorem exec_sessionList_reads {s : State} {d : Desc} {n a k : Nat} (h : canTake s d 0x0503 true = true) (hten : d.tenant = 0)
    (hk : 1 ≤ k) (hmax : k ≤ 256) (htenant : n = 0xFF ∨ tenantDefined s n = true)
    (hfits : (listBytes s ((listed s n a).take k)).length ≤ d.dlen) :
    ∃ t, exec (.sessionList d n a k) s = .next t ∧ Told s t ∧
      .write d.tenant d.dptr (listBytes s ((listed s n a).take k)) ∈ t.hif.out ∧
      answered s t d stOk (listBytes s ((listed s n a).take k)).length (le 4 ((((listed s n a).drop k).head?).elim 0 (·.1))) := by
  have hdefined : tenantDefined (take s d) n = tenantDefined s n := by
    rw [sent_frame (take_sent s d)]
    rfl
  have hlisted : ((sessions (take s d)).filter fun p =>
      p.2.isOpen && decide (a ≤ p.1) && (n == 0xFF && d.tenant == 0 || p.2.tenant == n)) = listed s n a := by
    simp only [sessions, (take_kept s d).tar, listed, hten, beq_self_eq_true, Bool.and_true]
  have hpass : firstFail [(d.tenant == 0 || n == d.tenant, stNotPermitted), (within 1 k 256, stBadArg),
      (n == 0xFF || tenantDefined (take s d) n, stTenantUnknown)] = none := by
    rw [hdefined]
    rcases htenant with hn | hn <;> simp [firstFail, hten, within, hk, hmax, hn]
  refine next_hostCmd_replyOut _ h hfits ((checked_of_pass _ hpass).trans ?_)
  simp only [hlisted]
  rw [← listBytes_take s d]
  rfl

/-- The calendar of a tenant is a matter of the objects in force, now and at past cycles. -/
theorem calOf_take (s : State) (d : Desc) (t n : Nat) : calOf (take s d) t n = calOf s t n := by
  rw [sent_frame (take_sent s d)]
  unfold calOf atCycle
  dsimp only
  split
  · rfl
  · cases s.slu.past.find? (fun p => decide (n < p.1)) with
    | none => rfl
    | some p => rfl

theorem billOut_take (s : State) (d : Desc) (w n i k : Nat) : billOut (take s d) w n i k = billOut s w n i k := by
  unfold billOut
  simp only [calOf_take]
  rw [sent_frame (take_sent s d)]
  match w with
  | 0 => rfl
  | 1 => rfl
  | 2 => rfl
  | _ + 3 => rfl

/-- What BILL_READ names is there: a snapshot with the number, an open session, or a set that always is. -/
def billFound (s : State) (w n i : Nat) : Bool :=
  match w with
  | 0 => (bill s n).snaps.any fun p => p.period == i
  | 2 => (sessionById s i).elim false Session.isOpen
  | _ => true

theorem billFound_take (s : State) (d : Desc) (w n i : Nat) : billFound (take s d) w n i = billFound s w n i := by
  rw [sent_frame (take_sent s d)]
  rfl

theorem billFound_of {s : State} {w n i : Nat} (hsnap : w = 0 → ((bill s n).snaps.any fun p => p.period == i) = true)
    (hopen : w = 2 → (sessionById s i).any Session.isOpen = true) : billFound s w n i = true := by
  match w with
  | 0 => exact hsnap rfl
  | 1 => rfl
  | 2 =>
    obtain ⟨x, hx, hxopen⟩ := Option.any_eq_true _ _ |>.mp (hopen rfl)
    simp [billFound, hx, hxopen]
  | _ + 3 => rfl

theorem exec_billRead_reads {s : State} {d : Desc} {w n i k : Nat} (h : canTake s d 0x0505 true = true) (hten : d.tenant = 0)
    (hw : w ≤ 3) (hk : 1 ≤ k) (hmax : k ≤ 24) (hmp : w = 3 → i < 256) (htenant : tenantDefined s n = true)
    (hfound : billFound s w n i = true) (hfits : (billOut s w n i k).length ≤ d.dlen) :
    ∃ t, exec (.billRead d w n i k) s = .next t ∧ Told s t ∧ .write d.tenant d.dptr (billOut s w n i k) ∈ t.hif.out ∧
      answered s t d stOk (billOut s w n i k).length [] := by
  have hdefined : tenantDefined (take s d) n = true := by
    rw [← htenant, sent_frame (take_sent s d)]
    rfl
  have hrange : (w != 3 || decide (i < 256)) = true := by
    by_cases hw3 : w = 3
    · simp [hmp hw3]
    · simp [hw3]
  have hpass : ∀ own, firstFail [(d.tenant == 0 || own, stNotPermitted),
      (within 0 w 3 && within 1 k 24 && (w != 3 || decide (i < 256)), stBadArg), (tenantDefined (take s d) n, stTenantUnknown),
      (billFound (take s d) w n i, stNotFound)] = none := by
    intro own
    rw [billFound_take, hfound, hdefined, hrange]
    simp [firstFail, within, hten, hw, hk, hmax]
  refine next_hostCmd_replyOut _ h hfits ((checked_of_pass _ (hpass _)).trans ?_)
  rw [billOut_take]

/-! ### Signing operations (R338, R342) -/

/-- A value of a counter has been taken: beside the counter and what it reports, the signing operations, the reset controller and
the fault domains stand. -/
structure ValueTaken (k : Nat) (s t : State) : Prop where
  next : (keyCtr t k).next = (keyCtr s k).next + 1
  cus : t.cus = s.cus
  pwr : t.pwr = s.pwr
  doms : t.ev.doms = s.ev.doms

theorem ValueTaken.raise {k : Nat} {s t : State} {e : EvReq} (h : ValueTaken k s t) (hinfo : severity e.id e.star = 0) :
    ValueTaken k s (raise t e) := by
  have htold := raise_info_told (s := t) hinfo
  exact ⟨by rw [keyCtr, htold.kept.key, ← keyCtr, h.next], htold.kept.cus.trans h.cus, htold.kept.pwr.trans h.pwr,
    (raise_info_doms hinfo).trans h.doms⟩

theorem ctrReserve_eq (s : State) (k : Nat) : ∃ c : Cis, ctrReserve s k = { s with cis := c } := by
  unfold ctrReserve
  split
  · exact ⟨_, rfl⟩
  · exact ⟨s.cis, rfl⟩

/-- A counter with a value left below its reservation gives it and moves on (R342). -/
theorem ctrTake_value {s : State} {k : Nat} (hlast : (keyCtr s k).next < 0xFFFFFFFF) (htop : (keyCtr s k).next < ctrTop s k) :
    ∃ u, ctrTake s k = (.value (keyCtr s k).next, u) ∧ ValueTaken k s u := by
  unfold ctrTake
  extract_lets c slot low s1
  have hmoved : ValueTaken k s s1 := by
    obtain ⟨x, hx⟩ := ctrReserve_eq (setKeyCtr s k { c with next := c.next + 1, low := c.low || low }) k
    have hnext := tget_tput_self ({} : KeyCtr) s.key.ctrs k { c with next := c.next + 1, low := c.low || low }
    simp only [s1, hx]
    exact ⟨congrArg KeyCtr.next hnext, rfl, rfl, rfl⟩
  clear_value s1
  rw [if_neg (Nat.not_le.mpr hlast), if_neg (Nat.not_le.mpr htop)]
  split
  · exact ⟨_, rfl, hmoved.raise (by show severity 0x601 false = 0; decide)⟩
  · exact ⟨s1, rfl, hmoved⟩

/-- The operation that an opening leaves: it has its slot's next counter value (R338). -/
theorem openSign_opens {s : State} {op : SignOp} (hlast : (keyCtr s op.slot).next < 0xFFFFFFFF)
    (htop : (keyCtr s op.slot).next < ctrTop s op.slot) :
    ∃ op' u, openSign s op = (op', u) ∧ op'.opened = true ∧ op'.slot = op.slot ∧ op'.ctr = (keyCtr s op.slot).next ∧
      ValueTaken op.slot s u := by
  obtain ⟨u, hu, htaken⟩ := ctrTake_value hlast htop
  exact ⟨{ op with opened := true, kgen := (keySlot u op.slot).kgen, ctr := (keyCtr s op.slot).next, mat := material u op.slot }, u,
    by simp only [openSign, hu], rfl, rfl, rfl, htaken⟩

/-! ### Signed readings (R324, R325, R517) -/

/-- The operation of a signed reading is open: it is the last one, over the header and the items, with its slot's counter value. -/
structure BlobOpen (s : State) (slot flags tenant : Nat) (items : List Bytes) (t : State) (o : SignOp) : Prop where
  ops : t.cus.ops = s.cus.ops ++ [o]
  opened : o.opened = true
  inSlot : o.slot = slot
  ctr : o.ctr = (keyCtr s slot).next
  next : (keyCtr t slot).next = (keyCtr s slot).next + 1
  body : o.body = blobHeader flags (96 + items.flatten.length) o.slot o.ctr o.kgen tenant items.length ++ items.flatten

theorem keyCtr_of_key {s t : State} (h : t.key = s.key) (k : Nat) : keyCtr t k = keyCtr s k := by
  rw [keyCtr, h, keyCtr]

/-- An opening is a matter of the signing operations and the key store. -/
theorem BlobOpen.congr {s s' t t' : State} {slot flags tenant : Nat} {items : List Bytes} {o : SignOp}
    (h : BlobOpen s slot flags tenant items t o) (hops : s.cus.ops = s'.cus.ops) (hkey : s.key = s'.key) (hcus' : t'.cus = t.cus)
    (hkey' : t'.key = t.key) : BlobOpen s' slot flags tenant items t' o := by
  have hctr : keyCtr s slot = keyCtr s' slot := keyCtr_of_key hkey slot
  exact ⟨by rw [hcus', h.ops, hops], h.opened, h.inSlot, by rw [h.ctr, hctr], by rw [keyCtr_of_key hkey', h.next, hctr], h.body⟩

theorem startBlob_opens {s : State} {o : OpenCmd} {slot flags : Nat} {items : List Bytes} (hsize : 96 + items.flatten.length ≤ 1024)
    (hready : slotReady s slot = true) (hlast : (keyCtr s slot).next < 0xFFFFFFFF) (htop : (keyCtr s slot).next < ctrTop s slot) :
    ∃ op, BlobOpen s slot flags o.desc.tenant items (startBlob s o slot flags items) op ∧
      (startBlob s o slot flags items).pwr = s.pwr ∧ (startBlob s o slot flags items).ev.doms = s.ev.doms := by
  have hallowed : openRefusal s slot = none := by simp [openRefusal, hready, Nat.not_le.mpr hlast]
  unfold startBlob
  extract_lets out o1 cmd1 s1
  obtain ⟨op, u, hopen, hopened, hslot, hctr, htaken⟩ := openSign_opens (s := s1) (op := { purpose := 1, slot := slot, token := o.token })
    hlast htop
  rw [if_neg (Nat.not_lt.mpr hsize), hallowed]
  simp only [hopen, hopened, if_true]
  have hops : u.cus.ops = s.cus.ops := congrArg Cus.ops htaken.cus
  exact ⟨_, ⟨congrArg (· ++ _) hops, hopened, hslot, hctr, htaken.next, rfl⟩, htaken.pwr, htaken.doms⟩

/-- No request asks for an aggregate, so what answers an aggregate request does not matter. -/
theorem blobItems_of_plain {reqs : List Bytes} (s : State) (b f c : Nat) (agg agg' : Nat → Bytes)
    (hplain : ∀ r ∈ reqs, reqT r ≠ 8) : blobItems s b f c reqs agg = blobItems s b f c reqs agg' := by
  have hsame : (reqs.zipIdx.map fun q => if reqT q.1 = 8 then agg q.2 else itemFor s b q.1) =
      reqs.zipIdx.map fun q => if reqT q.1 = 8 then agg' q.2 else itemFor s b q.1 := by
    refine List.map_congr_left fun q hq => ?_
    have hne : reqT q.1 ≠ 8 := hplain q.1 (List.fst_mem_of_mem_zipIdx hq)
    rw [if_neg hne, if_neg hne]
  rw [blobItems, hsame, blobItems]

/-- The open command of a signed reading. -/
def readingCmd (s : State) (d : Desc) (ks n f c : Nat) (b : Bytes) : OpenCmd :=
  ⟨d, 0x0401, (ring s d.tenant d.ring).head, false, [], b, s.cus.nextToken, [ks, n, f, c, settledBoundary s]⟩

/-- The hub with a signed reading in processing, before its items are asked for. -/
def withReading (s : State) (d : Desc) (ks n f c : Nat) (b : Bytes) : State :=
  { s with cus := { s.cus with nextToken := s.cus.nextToken + 1 }, cmd := { s.cmd with opens := s.cmd.opens ++ [readingCmd s d ks n f c b] } }

theorem waitingCmds_withReading {s : State} (d : Desc) (ks n f c : Nat) (b : Bytes)
    (hfresh : (s.cmd.opens.all fun o => o.opc != 0x0401 || o.token != s.cus.nextToken) = true) :
    waitingCmds (withReading s d ks n f c b) 0x0401 s.cus.nextToken = [readingCmd s d ks n f c b] := by
  have hold : (s.cmd.opens.filter fun o => o.opc == 0x0401 && o.token == s.cus.nextToken) = [] := by
    rw [List.filter_eq_nil_iff]
    intro o ho
    have hother := List.all_eq_true.mp hfresh o ho
    simp only [Bool.or_eq_true, bne_iff_ne] at hother
    simp only [Bool.and_eq_true, beq_iff_eq, not_and]
    exact fun hopc => hother.resolve_left (not_not.mpr hopc)
  unfold waitingCmds withReading
  rw [List.filter_append, hold]
  simp [readingCmd]

theorem setRil_aggs_of_none {s : State} (h : s.ril.aggs = []) (keep : AggReq → Bool) :
    setRil s (fun r => { r with aggs := r.aggs.filter keep }) = s := by
  have hril : { s.ril with aggs := s.ril.aggs.filter keep } = s.ril := by rw [h, List.filter_nil, ← h]
  rw [setRil, hril]

/-- With no aggregate asked for, the blob starts at once (R325). -/
theorem aggsDone_starts {s : State} {token : Nat} {o : OpenCmd} (haggs : s.ril.aggs = []) (hwaits : waitingCmds s 0x0401 token = [o])
    (hplain : ∀ r ∈ requestsOf o.output (nth 0 o.arg 1), reqT r ≠ 8) :
    aggsDone s token = startBlob s o (blobSlot o.desc.tenant (nth 0 o.arg 0)) (flag (legalValid s) 0)
      (blobItems s (nth 0 o.arg 4) (nth 0 o.arg 2) (nth 0 o.arg 3) (requestsOf o.output (nth 0 o.arg 1)) fun _ => []) := by
  have hnone : ((requestsOf o.output (nth 0 o.arg 1)).any fun r => reqT r == 8) = false := by
    rw [List.any_eq_false]
    simpa using hplain
  have hready : aggsDone s token = itemsReady s o := by
    unfold aggsDone
    rw [haggs, hwaits]
    rfl
  rw [hready, itemsReady]
  simp only [setRil_aggs_of_none haggs, hnone]
  rw [blobItems_of_plain s _ _ _ _ (fun _ => []) hplain]
  rfl

/-- What READ_SIGNED is checked for, in the order of R517. -/
def readingChecks (s : State) (d : Desc) (ks n : Nat) (b : Bytes) : List (Bool × Nat) :=
  [((d.tenant == 0 || ks == 0) && (requestsOf b n).all (mayRequest s d.tenant), stNotPermitted),
    (decide (ks ≤ 2 ∧ 1 ≤ n ∧ n ≤ 16) && (requestsOf b n).all fun r => reqWell r && (reqT r != 8 || aggWell r), stBadArg),
    (decide (8 * n ≤ b.length ∧ 1024 ≤ d.dlen), stDataShort), ((requestsOf b n).all (reqFound s), stNotFound),
    (s.ril.master || (ks != 2 && ((requestsOf b n).filter fun r => reqT r == 8).isEmpty), stCascadeRole)]

/-- Requests of tenant 0 that are well formed, name what exists and ask for no aggregate. -/
def plainRequests (s : State) (reqs : List Bytes) : Bool := reqs.all fun r => reqWell r && reqFound s r && reqT r != 8

theorem plainRequests_iff {s : State} {reqs : List Bytes} :
    plainRequests s reqs = true ↔ ∀ r ∈ reqs, reqWell r = true ∧ reqFound s r = true ∧ reqT r ≠ 8 := by
  simp [plainRequests, and_assoc]

theorem plainRequests_take (s : State) (d : Desc) (reqs : List Bytes) : plainRequests (take s d) reqs = plainRequests s reqs := by
  rw [sent_frame (take_sent s d)]
  rfl

theorem mayRequest_tenantZero (s : State) (r : Bytes) : mayRequest s 0 r = true := by
  unfold mayRequest reqPermitted
  split <;> rfl

theorem firstFail_readingChecks {s : State} {d : Desc} {ks n : Nat} {b : Bytes} (hten : d.tenant = 0) (hks : ks ≤ 2)
    (hmaster : ks = 2 → s.ril.master = true) (hn : 1 ≤ n) (hmax : n ≤ 16) (hlen : 8 * n ≤ b.length) (hbuf : 1024 ≤ d.dlen)
    (hplain : plainRequests s (requestsOf b n) = true) : firstFail (readingChecks s d ks n b) = none := by
  have hreqs := plainRequests_iff.mp hplain
  have hmay : (requestsOf b n).all (mayRequest s d.tenant) = true := by
    rw [hten, List.all_eq_true]
    exact fun r _ => mayRequest_tenantZero s r
  have hwell : ((requestsOf b n).all fun r => reqWell r && (reqT r != 8 || aggWell r)) = true := by
    rw [List.all_eq_true]
    intro r hr
    obtain ⟨hform, -, hne⟩ := hreqs r hr
    simp [hform, hne]
  have hfound : (requestsOf b n).all (reqFound s) = true := List.all_eq_true.mpr fun r hr => by
    obtain ⟨-, hexists, -⟩ := hreqs r hr
    exact hexists
  have hnone : ((requestsOf b n).filter fun r => reqT r == 8) = [] := by
    rw [List.filter_eq_nil_iff]
    intro r hr
    obtain ⟨-, -, hne⟩ := hreqs r hr
    simpa using hne
  have hrole : (s.ril.master || (ks != 2 && ((requestsOf b n).filter fun r => reqT r == 8).isEmpty)) = true := by
    rw [hnone]
    by_cases hmember : ks = 2
    · simp [hmaster hmember]
    · simp [hmember]
  rw [readingChecks, hmay, hwell, hfound, hrole]
  simp [firstFail, hten, hks, hn, hmax, hlen, hbuf]

/-- A taken signed reading that passes its checks is in processing, and its blob starts. -/
theorem readSigned_starts {s : State} {d : Desc} {ks n f c : Nat} {b : Bytes} (h : canTake s d 0x0401 true = true)
    (hsign : signRoom s d.tenant = true) (hpass : firstFail (readingChecks (take s d) d ks n b) = none)
    (hplain : plainRequests s (requestsOf b n) = true) :
    exec (.readSigned d ks n f c b) s =
      .next (settle (aggsDone (withReading (take s d) d ks n f c b) (take s d).cus.nextToken)) := by
  obtain ⟨htaken, -, -, -⟩ := canTake_parts h
  have hnone : ((requestsOf b n).zipIdx.filter fun q => reqT q.1 == 8) = [] := by
    rw [List.filter_eq_nil_iff]
    intro q hq
    obtain ⟨-, -, hne⟩ := plainRequests_iff.mp hplain q.1 (List.fst_mem_of_mem_zipIdx hq)
    simpa using hne
  refine (congrArg Host.Outcome.next ((if_neg (by simp [hsign])).trans (hostCmd_taken _ htaken))).trans ?_
  refine congrArg (fun t => Host.Outcome.next (settle t)) ((checked_of_pass _ hpass).trans ?_)
  simp only [hnone]
  rfl

/-- The hub as its signed reading's blob reads it: a taken command has moved its ring, a token and the open commands alone. -/
theorem withReading_take (s : State) (d : Desc) (ks n f c : Nat) (b : Bytes) : ∃ hif rng cmd, withReading (take s d) d ks n f c b =
    { s with hif := hif, rng := rng, cmd := cmd, cus := { s.cus with nextToken := s.cus.nextToken + 1 } } := by
  rw [withReading, sent_frame (take_sent s d)]
  exact ⟨_, _, _, rfl⟩

theorem legalValid_withReading (s : State) (d : Desc) (ks n f c : Nat) (b : Bytes) :
    legalValid (withReading (take s d) d ks n f c b) = legalValid s := by
  obtain ⟨hif, rng, cmd, hw⟩ := withReading_take s d ks n f c b
  rw [hw]
  rfl

theorem blobItems_withReading (s : State) (d : Desc) (ks n f c : Nat) (b : Bytes) (reqs : List Bytes) (agg : Nat → Bytes) :
    blobItems (withReading (take s d) d ks n f c b) (settledBoundary (take s d)) f c reqs agg =
      blobItems s (settledBoundary s) f c reqs agg := by
  have hsettled : settledBoundary (take s d) = settledBoundary s := by
    rw [sent_frame (take_sent s d)]
    rfl
  obtain ⟨hif, rng, cmd, hw⟩ := withReading_take s d ks n f c b
  rw [hsettled, hw]
  rfl

theorem exec_readSigned_opens {s : State} {d : Desc} {ks n f c slot : Nat} {b : Bytes} {items : List Bytes}
    (h : canTake s d 0x0401 true = true) (hsign : signRoom s d.tenant = true)
    (hpass : firstFail (readingChecks (take s d) d ks n b) = none) (haggs : s.ril.aggs = [])
    (hfresh : (s.cmd.opens.all fun o => o.opc != 0x0401 || o.token != s.cus.nextToken) = true)
    (hplain : plainRequests s (requestsOf b n) = true)
    (hitems : items = blobItems s (settledBoundary s) f c (requestsOf b n) fun _ => []) (hsize : 96 + items.flatten.length ≤ 1024)
    (hslot : slot = blobSlot d.tenant ks) (hready : slotReady s slot = true) (hlast : (keyCtr s slot).next < 0xFFFFFFFF)
    (htop : (keyCtr s slot).next < ctrTop s slot) :
    ∃ t o, exec (.readSigned d ks n f c b) s = .next t ∧ BlobOpen s slot (flag (legalValid s) 0) d.tenant items t o := by
  obtain ⟨-, -, hfree, hroom⟩ := canTake_parts h
  have htake := take_sent s d
  let w := withReading (take s d) d ks n f c b
  obtain ⟨hif, rng, cmd, hw⟩ : ∃ hif rng cmd, w = _ := withReading_take s d ks n f c b
  have hkey : w.key = s.key := by rw [hw]
  have hctr := keyCtr_of_key hkey slot
  have hfresh' : ((take s d).cmd.opens.all fun o => o.opc != 0x0401 || o.token != (take s d).cus.nextToken) = true := by
    rw [htake.cmd, htake.kept.cus]
    exact hfresh
  have hreqs : ∀ r ∈ requestsOf b n, reqT r ≠ 8 := by
    intro r hr
    obtain ⟨-, -, hne⟩ := plainRequests_iff.mp hplain r hr
    exact hne
  have hstarts : aggsDone w (take s d).cus.nextToken =
      startBlob w (readingCmd (take s d) d ks n f c b) slot (flag (legalValid s) 0) items := by
    rw [aggsDone_starts (show w.ril.aggs = [] by rw [hw]; exact haggs) (waitingCmds_withReading d ks n f c b hfresh') hreqs, hitems,
      hslot, ← legalValid_withReading s d ks n f c b, ← blobItems_withReading s d ks n f c b]
    rfl
  obtain ⟨op, hblob, hpwr, hdoms⟩ := startBlob_opens (o := readingCmd (take s d) d ks n f c b) (flags := flag (legalValid s) 0) hsize
    (show slotReady w slot = true by rw [hw]; exact hready) (hctr.symm ▸ hlast) (by rw [hctr, hw]; exact htop)
  rw [← hstarts] at hblob hpwr hdoms
  have hend := settle_told _ (by rw [hpwr, hw]; exact hfree) ((roomy_congr (hdoms.trans (by rw [hw]))).trans hroom)
  exact ⟨_, op, readSigned_starts h hsign hpass hplain, hblob.congr (by rw [hw]) hkey hend.kept.cus hend.kept.key⟩

/-! ### The obligation -/

/-- Settles O38: the three reads write what the hub had before the command was taken; the items of a signed reading stand at once,
so its operation opens in the same step. -/
theorem tariffAndMeterReads : Obligations.TariffAndMeterReads := by
  intro s d hten
  refine ⟨?registers, ?sessions, ?bills, ?signed⟩
  case registers =>
    intro m n w h hn hrange hw hfits
    obtain ⟨t, ht, hwritten, hanswer, hmps⟩ := exec_readRegisters_reads h hten hn hrange hw rfl hfits
    rw [hten] at hwritten
    exact ⟨t, ht, hwritten, hanswer, fun k hk => (hmps k).trans (if_pos hk), fun k hk => (hmps k).trans (if_neg hk)⟩
  case sessions =>
    intro n a k l h hk hmax htenant hl hfits
    subst hl
    obtain ⟨t, ht, htold, hwritten, hanswer⟩ := exec_sessionList_reads h hten hk hmax htenant hfits
    rw [hten] at hwritten
    exact ⟨t, ht, htold, hwritten, hanswer⟩
  case bills =>
    intro w n i k h hw hk hmax htenant hsnap hopen hmp hfits
    obtain ⟨t, ht, htold, hwritten, hanswer⟩ := exec_billRead_reads h hten hw hk hmax hmp htenant (billFound_of hsnap hopen) hfits
    rw [hten] at hwritten
    exact ⟨t, ht, htold, hwritten, hanswer⟩
  case signed =>
    intro ks n f c b items h hsign hks hmaster hn hmax _ hlen hbuf _ haggs hfresh hplain hitems hsize hready hlast htop
    have hmaster' : ks = 2 → (take s d).ril.master = true := fun hk => (take_kept s d).ril ▸ hmaster hk
    have hplain' : plainRequests (take s d) (requestsOf b n) = true := (plainRequests_take s d _).trans hplain
    have hpass := firstFail_readingChecks hten hks hmaster' hn hmax hlen hbuf hplain'
    have hslot : blobSlot 0 ks = blobSlot d.tenant ks := by rw [hten]
    obtain ⟨t, o, ht, ho⟩ := exec_readSigned_opens h (hten.symm ▸ hsign) hpass haggs hfresh hplain hitems hsize hslot hready hlast htop
    exact ⟨t, o, ht, ho.ops, ho.opened, ho.inSlot, ho.ctr, ho.next, hten ▸ ho.body⟩

end Sys2Proof.Proofs
end

section
/-!
Captures (R218, R219, R516): a trigger takes the first free slot of a set that collects nothing, the last cycles make the capture
READY, and a read writes what follows the offset and, with RELEASE, frees the slot.
-/
namespace Sys2Proof.Proofs

open Sys2Proof.Machine Sys2Proof.Laws

/-! ### Capture sets and their slots -/

@[simp] theorem capSet_setCapSet (s : State) (k : Nat) (x : CapSet) : capSet (setCapSet s k x) k = x := tget_tput_self _ _ _ _

theorem capSet_of_pqe {s t : State} (h : t.pqe = s.pqe) (k : Nat) : capSet t k = capSet s k := by
  rw [capSet, h, capSet]

/-- A slot of a capture set. -/
def capSlot (s : State) (k i : Nat) : Capture := nth {} (capSet s k).slots i

theorem capSlot_of_pqe {s t : State} (h : t.pqe = s.pqe) (k i : Nat) : capSlot t k i = capSlot s k i := by
  rw [capSlot, capSet_of_pqe h, capSlot]

/-- A set whose slot `i` holds another capture. -/
def withSlot (x : CapSet) (i : Nat) (y : Capture) : CapSet := { x with slots := setNth x.slots i y }

theorem capSlot_withSlot {s : State} {x : CapSet} {k i : Nat} (y : Capture) (h : i < x.slots.length) :
    capSlot (setCapSet s k (withSlot x i y)) k i = y := by
  rw [capSlot, capSet_setCapSet]
  exact nth_setNth _ y h

/-! ### The trigger (R218) -/

/-- A set lists channels, takes triggers by command, collects nothing, and `i` is its first free slot. -/
structure CanCapture (s : State) (k i : Nat) : Prop where
  lists : capCh s k ≠ []
  commanded : bit (capTrig s k) 5 = true
  quiet : (span 0 4).find? (fun j => (nth {} (capSet s k).slots j).state == .collecting) = none
  first : (span 0 (capSlots s k)).find? (fun j => (nth {} (capSet s k).slots j).state == .free) = some i
  stands : i < (capSet s k).slots.length

/-- A taken command has changed neither the objects in force nor the capture sets. -/
theorem CanCapture.take {s : State} {k i : Nat} (h : CanCapture s k i) (d : Desc) : CanCapture (take s d) k i := by
  rw [sent_frame (take_sent s d)]
  exact ⟨h.lists, h.commanded, h.quiet, h.first, h.stands⟩

/-- The capture that a command's trigger starts at a stamp. -/
def startedCapture (s : State) (k : Nat) (st : Stamp) : Capture :=
  let y : Capture := {
    state := .collecting, trigger := 5, stamp := st, ticks := nowTick s
    first := max (st.cycle - capPre s k) (capSet s k).preFrom, stop := st.cycle + capPost s k
    chs := capCh s k, seq := (capSet s k).seq }
  { y with data := (capCh s k).flatMap (capSamples s y) }

/-- The set whose slot `i` has taken that capture. -/
def startedSet (s : State) (k i : Nat) (st : Stamp) : CapSet :=
  { withSlot (capSet s k) i (startedCapture s k st) with seq := (capSet s k).seq + 1 }

theorem capTrigger_starts {s : State} {k i : Nat} (h : CanCapture s k i) (st : Stamp) :
    capTrigger s k 5 st 0 0 = setCapSet s k (startedSet s k i st) := by
  have hopen : ¬ ((capCh s k).isEmpty || !bit (capTrig s k) 5) = true := by simp [h.lists, h.commanded]
  refine (if_neg hopen).trans ?_
  simp only [h.quiet, h.first]
  rfl

/-- In the started set, and in whatever has the same capture sets, slot `i` collects from its stamp on. -/
theorem capSlot_started {s t : State} {k i : Nat} {st : Stamp} (h : CanCapture s k i)
    (hpqe : t.pqe = (setCapSet s k (startedSet s k i st)).pqe) :
    (capSlot t k i).state = .collecting ∧ (capSlot t k i).stamp = st := by
  have hslot : capSlot t k i = startedCapture s k st := by
    rw [capSlot_of_pqe hpqe, capSlot, capSet_setCapSet]
    exact nth_setNth _ _ h.stands
  rw [hslot]
  exact ⟨rfl, rfl⟩

theorem exec_captureNow_starts {s : State} {d : Desc} {k i : Nat} (h : canTake s d 0x0305 false = true) (hten : d.tenant = 0)
    (hk : k < 16) (hset : CanCapture s k i) :
    ∃ t, exec (.captureNow d k) s = .next t ∧ (capSlot t k i).state = .collecting ∧ (capSlot t k i).stamp = nowStamp s ∧
      answered s t d stOk 0 [] := by
  have htrigger := capTrigger_starts (hset.take d) (nowStamp (take s d))
  have hpass : firstFail [by0 d, (decide (k < 16), stBadArg)] = none := firstFail_by0_and _ hten (decide_eq_true hk)
  obtain ⟨t, ht, htold, hanswer⟩ : ∃ t, exec (.captureNow d k) s = .next t ∧
      Told (setCapSet (take s d) k (startedSet (take s d) k i (nowStamp (take s d)))) t ∧ answered s t d stOk 0 [] :=
    next_hostCmd_reply _ h ((checked_of_pass _ hpass).trans (by rw [htrigger])) rfl rfl rfl rfl
  have hnow : nowStamp (take s d) = nowStamp s := by
    rw [sent_frame (take_sent s d)]
    rfl
  obtain ⟨hstate, hstamp⟩ := capSlot_started (hset.take d) htold.kept.pqe
  exact ⟨t, ht, hstate, hstamp.trans hnow, hanswer⟩

theorem exec_capture_starts {s : State} {q k i : Nat} (hcalm : calm s = true) (hdue : cueDue s q cueCapture = true)
    (harg : (cue s q).arg = k) (hontime : mkStamp (nowCycle s) 0 ≤ cueInstant (cue s q).stamp) (hset : CanCapture s k i) :
    ∃ t, exec (.capture q) s = .next t ∧ (cue t q).state = .done ∧ (capSlot t k i).state = .collecting ∧
      (capSlot t k i).stamp = cueInstant (cue s q).stamp := by
  let u := setCapSet s k (startedSet s k i (cueInstant (cue s q).stamp))
  have hlate : decide (cueInstant (cue s q).stamp < mkStamp (nowCycle s) 0) = false := decide_eq_false (Nat.not_lt.mpr hontime)
  have hexec : exec (.capture q) s = .next (setCue u q { cue u q with state := .done }) := by
    refine next_whenRunning_quiet _ hcalm ((if_pos hdue).trans ?_) rfl rfl rfl
    simp only [hlate, harg]
    exact congrArg (fun a => finishCue a q false) (capTrigger_starts hset _)
  obtain ⟨hstate, hstamp⟩ := capSlot_started (t := setCue u q { cue u q with state := .done }) hset rfl
  exact ⟨_, hexec, congrArg Cue.state (cue_setCue _ _ _), hstate, hstamp⟩

/-! ### A capture is complete (R219) -/

/-- EV_PQE_CAPTURE is INFO. -/
theorem capEvent_noted (s : State) (k i what : Nat) : Noted s (capEvent s k i what) := raise_info_noted rfl

theorem capOverwrite_of_slu {s t : State} (h : t.slu = s.slu) (k : Nat) : capOverwrite t k = capOverwrite s k := by
  unfold capOverwrite captureField cfg cfgBytes
  rw [h]

theorem capRelease_of_kept {s : State} {k : Nat} (h : capOverwrite s k = false) : capRelease s k = s :=
  if_pos (.inr (by rw [h]; rfl))

/-- A set that overwrites nothing keeps its captures when one of them is complete. -/
theorem capReady_ends {s : State} {k i : Nat} (trunc : Bool) (hkeeps : capOverwrite s k = false)
    (hi : i < (capSet s k).slots.length) :
    ∃ u, Uncut s u ∧ Noted u (capReady s k i trunc) ∧ (capSlot u k i).state = .ready := by
  unfold capReady
  extract_lets x y gone s1
  have hnoted := capEvent_noted s1 k i 0
  have hslu : (capEvent s1 k i 0).slu = s.slu := hnoted.told.kept.slu
  rw [capRelease_of_kept ((capOverwrite_of_slu hslu k).trans hkeeps)]
  exact ⟨s1, ⟨rfl, rfl⟩, hnoted, congrArg Capture.state (capSlot_withSlot _ hi)⟩

/-- Every channel of a capture has delivered its last cycle. -/
def allDelivered (y : Capture) : Bool :=
  y.chs.all fun c => y.data.any fun x => x.ch == c && x.cycle + 1 == y.stop && x.k == 127

theorem exec_captureComplete_ends {s : State} {k i : Nat} (hcalm : calm s = true) (hkeeps : capOverwrite s k = false)
    (hi : i < (capSet s k).slots.length) (hstate : (capSlot s k i).state = .collecting) (hruns : (capSlot s k i).stopped = false)
    (hall : allDelivered (capSlot s k i) = true) :
    ∃ t, exec (.captureComplete k i) s = .next t ∧ (capSlot t k i).state = .ready := by
  obtain ⟨u, huncut, hnoted, hready⟩ := capReady_ends false hkeeps hi
  have hdone : (capSlot s k i).state = .collecting ∧ (!(capSlot s k i).stopped) = true ∧ allDelivered (capSlot s k i) = true :=
    ⟨hstate, by rw [hruns]; rfl, hall⟩
  obtain ⟨t, ht, hkept⟩ : ∃ t, exec (.captureComplete k i) s = .next t ∧ Kept (capReady s k i false) t :=
    next_whenRunning_kept _ hcalm (if_pos hdone) (huncut.trans hnoted.beside.uncut)
  exact ⟨t, ht, by rw [capSlot_of_pqe (hkept.pqe.trans hnoted.told.kept.pqe), hready]⟩

/-! ### Commands that work beside the host, then write an output (R507) -/

/-- An output that fits its buffer is written, whatever the meaning has done to other blocks before. -/
theorem replyOut_writes {s : State} {d : Desc} {out : Bytes} (res : Bytes) (hlive : live s d.tenant = true)
    (hstands : (ring s d.tenant d.ring).state ≠ .deleting) (hfits : out.length ≤ d.dlen) :
    Sent s (replyOut s d out res) ∧ .write d.tenant d.dptr out ∈ (replyOut s d out res).hif.out := by
  have hsame : ring (dma s d.tenant d.dptr out) d.tenant d.ring = ring s d.tenant d.ring := by rw [ring, dma_rng, ring]
  have hreply : replyOut s d out res =
      complete (dma s d.tenant d.dptr out) d (ring s d.tenant d.ring).head stOk out.length res := if_neg (Nat.not_lt.mpr hfits)
  have hsent : Sent (dma s d.tenant d.dptr out) (replyOut s d out res) := hreply ▸ complete_sent _ _ _ _ (hsame.symm ▸ hstands)
  exact ⟨(dma_sent _ _ _ _).trans hsent, mem_out_of_grew hsent.grew (mem_dma_out out hlive)⟩

/-- The step of a command that changes neither the rings nor the host interface before it writes its output. -/
theorem next_hostCmd_replyOut_after {s u : State} {d : Desc} {opc : Nat} {data : Bool} {out res : Bytes} (act : State → State)
    (h : canTake s d opc data = true) (hfits : out.length ≤ d.dlen) (hact : act (take s d) = replyOut u d out res)
    (hrng : u.rng = (take s d).rng) (hhif : u.hif = (take s d).hif) (hpwr : u.pwr = (take s d).pwr)
    (hdoms : u.ev.doms = (take s d).ev.doms) :
    ∃ t, (.next (hostCmd s d opc data act) : Out) = .next t ∧ Kept u t ∧ .write d.tenant d.dptr out ∈ t.hif.out := by
  obtain ⟨htaken, hlive, hfree, hroom⟩ := canTake_parts h
  have hready := taken_ready htaken
  obtain ⟨-, hactive, -, -, -, hsub, -⟩ := ready_rings hready
  obtain ⟨-, hring, -⟩ := take_rings hready
  have hliveU : live u d.tenant = true := by
    have hsame : live u d.tenant = live (take s d) d.tenant := by unfold live funcExists func; rw [hhif]
    rw [hsame, take_live s d hsub, hlive]
  have hstands : (ring u d.tenant d.ring).state ≠ .deleting := by
    have hsame : ring u d.tenant d.ring = ring (take s d) d.tenant d.ring := by rw [ring, hrng, ring]
    rw [hsame, hring]
    simp [hactive]
  obtain ⟨hsent, hwritten⟩ := replyOut_writes res hliveU hstands hfits
  have hend : Told (replyOut u d out res) (settle (replyOut u d out res)) := by
    refine settle_told _ ?_ ?_
    · rw [hsent.kept.pwr, hpwr, (take_kept s d).pwr, hfree]
    · rw [roomy_congr ((congrArg (·.doms) hsent.ev).trans hdoms), roomy_take, hroom]
  exact ⟨settle (replyOut u d out res), by rw [hostCmd_taken act htaken, hact], hsent.kept.trans hend.kept,
    mem_out_of_grew hend.out hwritten⟩

/-! ### CAPTURE_READ (R516) -/

theorem capBytes_take (s : State) (d : Desc) (k i : Nat) : capBytes (take s d) k i = capBytes s k i := by
  rw [capBytes, capSet_of_pqe (take_kept s d).pqe, capBytes]

/-- What a read writes: what follows the offset, as far as the buffer goes. -/
def readOut (s : State) (d : Desc) (k i off : Nat) : Bytes := ((capBytes s k i).drop off).take d.dlen

/-- The set once slot `i` has been read: with RELEASE the slot is free, else it is being read (R516). -/
def readSet (s : State) (k i f : Nat) : CapSet :=
  if bit f 0 then
    { withSlot (capSet s k) i {} with
      preFrom := if (span 0 (capSlots s k)).all fun j => (capSlot s k j).state != .free then nowCycle s + 1 else (capSet s k).preFrom }
  else withSlot (capSet s k) i { capSlot s k i with reading := true }

theorem state_readSet {s : State} {k i : Nat} (f : Nat) (hi : i < (capSet s k).slots.length) (hready : (capSlot s k i).state = .ready) :
    (nth {} (readSet s k i f).slots i).state = if bit f 0 then .free else .ready := by
  unfold readSet
  split
  · exact congrArg Capture.state (nth_setNth _ _ hi)
  · exact (congrArg Capture.state (nth_setNth _ _ hi)).trans hready

theorem exec_captureRead_reads {s : State} {d : Desc} {k i off f : Nat} (h : canTake s d 0x0306 true = true) (hten : d.tenant = 0)
    (hk : k < 16) (hslot : i < 4) (hi : i < (capSet s k).slots.length) (hready : (capSlot s k i).state = .ready)
    (hoff : off ≤ (capBytes s k i).length) :
    ∃ t, exec (.captureRead d k i off f) s = .next t ∧ .write d.tenant d.dptr (readOut s d k i off) ∈ t.hif.out ∧
      (capSlot t k i).state = if bit f 0 then .free else .ready := by
  have htake := capSet_of_pqe (take_kept s d).pqe k
  have hready' : (capSlot (take s d) k i).state = .ready := (congrArg Capture.state (capSlot_of_pqe (take_kept s d).pqe k i)).trans hready
  have hpass : firstFail [by0 d, (decide (k < 16 ∧ i < 4), stBadArg), ((capSlot (take s d) k i).state == .ready, stNotFound),
      (decide (off ≤ (capBytes (take s d) k i).length), stBadArg)] = none := by
    rw [capBytes_take]
    simp [firstFail, by0, hten, hk, hslot, hready', hoff]
  have hfits : (readOut (take s d) d k i off).length ≤ d.dlen := List.length_take_le _ _
  obtain ⟨t, ht, hkept, hwritten⟩ : ∃ t, exec (.captureRead d k i off f) s = .next t ∧
      Kept (setCapSet (take s d) k (readSet (take s d) k i f)) t ∧
      HostOut.write d.tenant d.dptr (readOut (take s d) d k i off) ∈ t.hif.out :=
    next_hostCmd_replyOut_after (u := setCapSet (take s d) k (readSet (take s d) k i f)) _ h hfits (checked_of_pass _ hpass) rfl rfl rfl rfl
  refine ⟨t, ht, ?_, ?_⟩
  · rw [readOut, ← capBytes_take s d]
    exact hwritten
  · rw [capSlot_of_pqe hkept.pqe, capSlot, capSet_setCapSet]
    exact state_readSet f (htake.symm ▸ hi) hready'

/-! ### The obligation -/

/-- Settles O34: a trigger by command or by a cue on time takes the slot that `CanCapture` names; a completion changes its slot and
reports; a read writes what stood before the command and then frees or marks the slot. -/
theorem capturesRun : Obligations.CapturesRun := by
  intro s
  refine ⟨?command, ?cue, ?complete, ?read⟩
  case command =>
    intro d k i h hten hk hlists hcommanded hquiet hfirst hi
    exact exec_captureNow_starts h hten hk ⟨hlists, hcommanded, hquiet, hfirst, hi⟩
  case cue =>
    intro q k i hcalm hdue harg hontime hlists hcommanded hquiet hfirst hi
    exact exec_capture_starts hcalm hdue harg hontime ⟨hlists, hcommanded, hquiet, hfirst, hi⟩
  case complete =>
    intro k i hcalm hkeeps hi hstate hruns hall
    exact exec_captureComplete_ends hcalm hkeeps hi hstate hruns hall
  case read =>
    intro d k i off f h hten hk hslot _ hi hready hoff
    obtain ⟨t, ht, hwritten, hstate⟩ := exec_captureRead_reads (f := f) h hten hk hslot hi hready hoff
    rw [hten] at hwritten
    exact ⟨t, ht, hwritten, hstate⟩

end Sys2Proof.Proofs
end

section
/-!
A stream leaves the hub's own fault domains alone (R385, R494–R499): its faults are those of the host interface, domain 9, and of
tenants, domains 16 and up, and neither escalates to a CHIP reset (Table EVT.3).
-/
namespace Sys2Proof.Proofs

open Sys2Proof.Machine Sys2Proof.Laws

/-- The fault domains of the hub below the host interface's are as they were. -/
def SameCoreDoms (s t : State) : Prop := ∀ k < 9, dom t k = dom s k

theorem SameCoreDoms.refl (s : State) : SameCoreDoms s s := fun _ _ => rfl

theorem SameCoreDoms.trans {s t u : State} (h : SameCoreDoms s t) (g : SameCoreDoms t u) : SameCoreDoms s u :=
  fun k hk => (g k hk).trans (h k hk)

theorem SameCoreDoms.ite {s t u : State} {c : Prop} [Decidable c] (ht : SameCoreDoms s t) (hu : SameCoreDoms s u) :
    SameCoreDoms s (if c then t else u) := by
  split
  · exact ht
  · exact hu

theorem SameCoreDoms.foldl {α : Type} (f : State → α → State) (hf : ∀ s a, SameCoreDoms s (f s a)) (l : List α) (s : State) :
    SameCoreDoms s (l.foldl f s) := by
  induction l generalizing s with
  | nil => exact SameCoreDoms.refl s
  | cons a l ih => exact (hf s a).trans (ih (f s a))

theorem SameCoreDoms.of_doms {s t : State} (h : t.ev.doms = s.ev.doms) : SameCoreDoms s t := fun k _ => dom_congr h k

theorem SameCoreDoms.of_sent {s t : State} (h : Sent s t) : SameCoreDoms s t := .of_doms (by rw [h.ev])

/-! ### Events and escalations -/

theorem setDom_sameCoreDoms (s : State) {k : Nat} (d : Dom) (hk : 9 ≤ k) : SameCoreDoms s (setDom s k d) :=
  fun j hj => dom_setDom_ne s d (by omega)

theorem record_sameCoreDoms (s : State) (e : EvReq) (sev k depth rflags : Nat) : SameCoreDoms s (record s e sev k depth rflags) :=
  .of_doms (record_doms s e sev k depth rflags)

theorem beginTeardown_sameCoreDoms (s : State) (t kind cause : Nat) (undefine : Bool) :
    SameCoreDoms s (beginTeardown s t kind cause undefine) := by
  unfold beginTeardown setCtxState
  extract_lets c mine td cmd1 s1 ctx1 s2 old ctx2 s3 s4
  have hinform : SameCoreDoms s3 s4 := record_sameCoreDoms _ _ _ _ _ _
  have hstate : SameCoreDoms s (sendMsi s4 t 0) := hinform.trans (.of_sent (sendMsi_sent _ _ _))
  exact .ite (.ite (.refl _) hstate) (.ite (.refl _) (.refl s))

theorem hifReset_sameCoreDoms (s : State) : SameCoreDoms s (hifReset s) := by
  unfold hifReset beginTeardownAll
  extract_lets s1 hif1 reg1 s2
  have hnote : SameCoreDoms s (noteChains s 2) := .of_doms rfl
  have hdown : SameCoreDoms (noteChains s 2) s1 := .foldl _ (fun a t => beginTeardown_sameCoreDoms a t 2 7 false) _ _
  clear_value s1
  have hclear : SameCoreDoms s1 s2 := .of_doms rfl
  have hall : SameCoreDoms s s2 := (hnote.trans hdown).trans hclear
  exact .ite (hall.trans (record_sameCoreDoms _ _ _ _ _ _)) hall

/-- Only the host interface and tenants escalate to a teardown (Table EVT.3). -/
theorem beginEscalation_sameCoreDoms (s : State) {k : Nat} (hk : k = 9 ∨ 16 ≤ k) : SameCoreDoms s (beginEscalation s k) := by
  rcases hk with rfl | hk
  · have hhost : beginEscalation s 9 = hifReset s := by simp [beginEscalation]
    rw [hhost]
    exact hifReset_sameCoreDoms s
  · unfold beginEscalation
    rw [if_pos hk]
    exact beginTeardown_sameCoreDoms _ _ _ _ _

theorem escalate_sameCoreDoms (s : State) {k : Nat} (cause id : Nat) (hk : k = 9 ∨ 16 ≤ k) :
    SameCoreDoms s (escalate s k cause id) := by
  unfold escalate
  extract_lets d s0 reg1 s1 s2
  have hdom : SameCoreDoms s s0 := setDom_sameCoreDoms s _ (by omega)
  have hrecord : SameCoreDoms s1 s2 := record_sameCoreDoms _ _ _ _ _ _
  exact (hdom.trans hrecord).trans (beginEscalation_sameCoreDoms s2 hk)

theorem raise_sameCoreDoms (s : State) (e : EvReq) (h : severity e.id e.star = 0 ∨ faultDomain e = 9 ∨ 16 ≤ faultDomain e) :
    SameCoreDoms s (raise s e) := by
  rcases h with hinfo | hk
  · exact .of_doms (raise_info_doms hinfo)
  · have hfar : 9 ≤ faultDomain e := by omega
    unfold raise
    extract_lets sev k p e1 s1 s2 v3 s3
    have hrecord : SameCoreDoms s s1 := record_sameCoreDoms _ _ _ _ _ _
    have hcounted : SameCoreDoms s s3 := hrecord.trans (setDom_sameCoreDoms s1 _ hfar)
    refine .ite (record_sameCoreDoms _ _ _ _ _ _) ?_
    clear_value s3 p
    cases p
    case escalate c => exact hcounted.trans (escalate_sameCoreDoms s3 c _ hk)
    all_goals exact hcounted.trans (setDom_sameCoreDoms s3 _ hfar)

/-! ### Page rings -/

theorem ringError_sameCoreDoms (s : State) (t i cause : Nat) : SameCoreDoms s (ringError s t i cause) := by
  unfold ringError
  have hstate : SameCoreDoms s (setRingState s t i .error cause) := .of_doms (setRingState_doms _ _ _ _ _)
  exact .ite (.ite hstate (hstate.trans (escalate_sameCoreDoms _ _ _ (.inr (by omega))))) hstate

theorem closePage_sameCoreDoms (s : State) (t i pfl : Nat) : SameCoreDoms s (closePage s t i pfl) := by
  unfold closePage
  split
  · exact .refl s
  · exact .ite (.of_sent (((dma_sent _ _ _ _).trans (setRing_sent _ _ _ _)).trans (produce_sent _ _ _ _)))
      (.of_sent (setRing_sent _ _ _ _))

theorem openPage_sameCoreDoms (s : State) (t i : Nat) : SameCoreDoms s (openPage s t i) := by
  unfold openPage
  extract_lets r b
  refine .ite (.refl s) (.ite (.ite (.refl s) ((SameCoreDoms.of_sent (setRing_sent _ _ _ _)).trans (raise_sameCoreDoms _ _ (.inl rfl)))) ?_)
  split
  · exact .refl s
  · exact .ite (ringError_sameCoreDoms _ _ _ _) (.of_sent ((consumeEntry_sent _ _ _).trans (setRing_sent _ _ _ _)))

theorem placeRec_sameCoreDoms (s : State) (t i : Nat) (p : OpenPage) (rec : StreamRec) (rest : List StreamRec) :
    SameCoreDoms s (placeRec s t i p rec rest) := .ite (.of_sent (setRing_sent _ _ _ _)) (closePage_sameCoreDoms _ _ _ _)

theorem drainRing_sameCoreDoms (n : Nat) (s : State) (t i : Nat) : SameCoreDoms s (drainRing n s t i) := by
  induction n generalizing s with
  | zero => exact .refl s
  | succ n ih =>
    unfold drainRing
    split
    · exact .refl s
    · split
      · exact .ite ((openPage_sameCoreDoms s t i).trans (ih _)) (openPage_sameCoreDoms s t i)
      · exact .ite (.refl s) ((placeRec_sameCoreDoms _ _ _ _ _ _).trans (ih _))

theorem stageRec_sameCoreDoms (s : State) (t i : Nat) (rec : StreamRec) : SameCoreDoms s (stageRec s t i rec) := by
  unfold stageRec drain
  extract_lets r s1
  have hset : ∀ x, SameCoreDoms s (setRing s t i x) := fun x => .of_sent (setRing_sent _ _ _ _)
  exact .ite (hset _) (.ite ((hset _).trans (drainRing_sameCoreDoms _ _ _ _))
    ((hset _).trans (raise_sameCoreDoms _ _ (.inr (.inl (by simp [faultDomain, defaultDomain]))))))

theorem streamOut_sameCoreDoms (s : State) (rec : StreamRec) (only0 : Bool) : SameCoreDoms s (streamOut s rec only0) :=
  SameCoreDoms.foldl _ (fun a k => stageRec_sameCoreDoms a (k / 64) (k % 64) rec) _ _

end Sys2Proof.Proofs
end

section
/-!
The rotation of spares (R213, R224, R226, R228, R230, R516): a command or the scheduler changes one spare's queue or marks, and a
rotation that ends is reported to domain 1 and enters its last phase.
-/
namespace Sys2Proof.Proofs

open Sys2Proof.Machine Sys2Proof.Laws

/-! ### Commands that wait (R487, R490) -/

theorem completeWaiting_kept (s : State) (opc token st : Nat) (res : Bytes) :
    Kept s (completeWaiting s opc token st res) := by
  refine Kept.foldl _ (fun a o => Kept.trans ?_ (complete_kept _ _ _ _ _ _)) _ s
  constructor <;> rfl

theorem completeWaiting_doms (s : State) (opc token st : Nat) (res : Bytes) :
    (completeWaiting s opc token st res).ev.doms = s.ev.doms := by
  unfold completeWaiting
  induction waitingCmds s opc token generalizing s with
  | nil => rfl
  | cons o l ih => exact (ih _).trans (complete_doms _ _ _ _ _ _)

/-! ### Spares -/

@[simp] theorem spare_setSpare (s : State) (p : Nat) (x : Spare) : spare (setSpare s p x) p = x := tget_tput_self _ _ _ _

theorem spare_of_pqe {s t : State} (h : t.pqe = s.pqe) (p : Nat) : spare t p = spare s p := by
  rw [spare, h, spare]

theorem spare_take (s : State) (d : Desc) (p : Nat) : spare (take s d) p = spare s p := spare_of_pqe (take_kept s d).pqe p

/-- A hub that has taken a command and changed a spare differs by the taking from one that has changed the spare alone. -/
theorem setSpare_take_told (s : State) (d : Desc) (p : Nat) (x : Spare) : Told (setSpare s p x) (setSpare (take s d) p x) := by
  have hsame : setSpare (take s d) p x = { take s d with pqe := (setSpare s p x).pqe } := by
    rw [setSpare, (take_kept s d).pqe]
    rfl
  rw [hsame]
  exact told_pqe (take_told s d) _

/-! ### SPARE_TEST and SPARE_RELEASE (R228, R230, R516) -/

/-- A spare with one more entry in its queue, asked for by a command. -/
def queued (x : Spare) (ch : Nat) : Spare := { x with queue := x.queue ++ [⟨ch, 1, false⟩] }

theorem exec_spareTest_queues {s : State} {d : Desc} {hd ch : Nat} (h : canTake s d 0x0303 false = true) (hten : d.tenant = 0)
    (harg : (hd < 64 ∧ ch < 16) ∨ (hd = 0xFF ∧ ch < 7)) (hfree : (spare s (spareArg hd)).parked = none)
    (hgood : (spare s (spareArg hd)).faulty = false) (hidle : (spare s (spareArg hd)).phase = .idle)
    (hnew : ((spare s (spareArg hd)).queue.any fun r => r.ch == ch) = false) (hroom : (spare s (spareArg hd)).queue.length < 4) :
    ∃ t, exec (.spareTest d hd ch) s = .next t ∧ Told (setSpare s (spareArg hd) (queued (spare s (spareArg hd)) ch)) t ∧
      answered s t d stOk 0 (le 1 ((spare s (spareArg hd)).queue.length + 1)) := by
  have hpass : firstFail [by0 d, ((decide (hd < 64) && decide (ch < 16)) || (hd == 0xFF && decide (ch < 7)), stBadArg),
      ((spare s (spareArg hd)).parked.isNone && !(spare s (spareArg hd)).faulty, stSpareParked),
      (false || decide ((spare s (spareArg hd)).queue.length < 4), stQueueFull)] = none := by
    simp [firstFail, by0, hten, harg, hfree, hgood, hroom]
  obtain ⟨t, ht, htold, hanswer⟩ : ∃ t, exec (.spareTest d hd ch) s = .next t ∧
      Told (setSpare (take s d) (spareArg hd) (queued (spare s (spareArg hd)) ch)) t ∧
      answered s t d stOk 0 (le 1 ((spare s (spareArg hd)).queue.length + 1)) := by
    refine next_hostCmd_reply _ h ?_ rfl rfl rfl rfl
    have hbusy : ((spare s (spareArg hd)).phase != .idle && (spare s (spareArg hd)).ch == ch) = false := by rw [hidle]; rfl
    simp only [spare_take, hbusy, hnew]
    exact checked_of_pass _ hpass
  exact ⟨t, ht, (setSpare_take_told s d _ _).trans htold, hanswer⟩

/-- A spare that is used again after three failed handovers (R228). -/
def released (x : Spare) : Spare := { x with faulty := false, spareFails := 0 }

theorem exec_spareRelease_clears {s : State} {d : Desc} {hd : Nat} (h : canTake s d 0x0304 false = true) (hten : d.tenant = 0)
    (harg : hd < 64 ∨ hd = 0xFF) (hfaulty : (spare s (spareArg hd)).faulty = true) :
    ∃ t, exec (.spareRelease d hd 0xFF) s = .next t ∧ Told (setSpare s (spareArg hd) (released (spare s (spareArg hd)))) t ∧
      answered s t d stOk 0 [] := by
  have hpass : firstFail [by0 d, ((decide (hd < 64) && (decide (0xFF < 16) || 0xFF == 0xFF)) ||
      (hd == 0xFF && (decide (0xFF < 7) || 0xFF == 0xFF)), stBadArg), ((spare s (spareArg hd)).faulty, stNotFound)] = none := by
    simp [firstFail, by0, hten, harg, hfaulty]
  obtain ⟨t, ht, htold, hanswer⟩ : ∃ t, exec (.spareRelease d hd 0xFF) s = .next t ∧
      Told (setSpare (take s d) (spareArg hd) (released (spare s (spareArg hd)))) t ∧ answered s t d stOk 0 [] := by
    refine next_hostCmd_reply _ h ?_ rfl rfl rfl rfl
    simp only [spare_take]
    exact checked_of_pass _ hpass
  exact ⟨t, ht, (setSpare_take_told s d _ _).trans htold, hanswer⟩

/-! ### Phases and the end of a rotation (R224, R226, R231) -/

/-- From `s` to `t` the spare at `p` has entered a phase with nothing measured; no fault domain has moved and no reset begun. -/
structure Entered (p : Nat) (ph : RotPhase) (s t : State) : Prop where
  doms : t.ev.doms = s.ev.doms
  pwr : t.pwr = s.pwr
  phase : (spare t p).phase = ph
  measure : (spare t p).measure = none
  mismatch : (spare t p).mismatch = 0

theorem Entered.uncut {p : Nat} {ph : RotPhase} {s t : State} (h : Entered p ph s t) : Uncut s t :=
  ⟨by rw [h.pwr], dom_congr h.doms 6⟩

theorem Entered.of_sends {p q : Nat} {ph : RotPhase} {s u t : State} (h : Entered p ph s u) (hsends : Sends q u t) : Entered p ph s t := by
  rw [hsends.rest]
  exact ⟨h.doms, h.pwr, h.phase, h.measure, h.mismatch⟩

theorem rotEnter_entered (s : State) (p : Nat) (ph : RotPhase) (lead : Nat) : Entered p ph s (rotEnter s p ph lead) := by
  unfold rotEnter
  obtain ⟨b, f⟩ := boundaryFrom s (s.ply.frame + lead)
  obtain ⟨mc, sc, ss⟩ := rotState ph
  dsimp -zeta only
  extract_lets x s1 pqe2 s2
  have hset : Entered p ph s s1 := by
    constructor
    · rfl
    · rfl
    all_goals rw [spare_setSpare]
  have hnumbered : Entered p ph s s2 := by
    simp only [s2]
    split
    · exact ⟨hset.doms, hset.pwr, hset.phase, hset.measure, hset.mismatch⟩
    · exact hset
  split
  · exact hnumbered.of_sends (sendLong_sends _ _ _ _ _)
  · exact hnumbered

/-- A rotation's report reaches the host, the commands that wait for it and domain 1, which can take it (R231). -/
theorem rotReport_kept {s : State} (p result cause : Nat) (hidle : (dom s 1).state = .idle) :
    (rotReport s p result cause).pqe = s.pqe ∧ Uncut s (rotReport s p result cause) := by
  unfold rotReport
  extract_lets x ch s1 s2
  have hstream : Beside s s1 := streamOut_beside _ _ _
  have hsame : dom s1 1 = dom s 1 := streamOut_sameCoreDoms _ _ _ 1 (by decide)
  have hroom : roomy s1 (defaultDomain 0x385) = true := roomy_of_idle (hsame.symm ▸ hidle)
  have hother : 6 ≠ defaultDomain 0x385 := by decide
  have hraise : Kept s1 s2 := raise_kept s1 _ hroom
  have hfault : Uncut s1 s2 := ⟨by rw [hraise.pwr], raise_dom_ne hroom hother⟩
  have hwait := completeWaiting_kept s2 0x0303 (128 * p + x.ch) stOk (le 1 0)
  have hanswers : Uncut s2 (completeWaiting s2 0x0303 (128 * p + x.ch) stOk (le 1 0)) :=
    ⟨by rw [hwait.pwr], dom_congr (completeWaiting_doms _ _ _ _ _) 6⟩
  exact ⟨hwait.pqe.trans (hraise.pqe.trans hstream.pqe), (hstream.uncut.trans hfault).trans hanswers⟩

/-- From `s` to `t` the rotation at `p` has ended, and its spare stands in a last phase. -/
structure Ended (p : Nat) (ph : RotPhase) (s t : State) : Prop where
  uncut : Uncut s t
  phase : (spare t p).phase = ph
  measure : (spare t p).measure = none
  mismatch : (spare t p).mismatch = 0

/-- A channel that is parked is parked again, then the rotation is reported. -/
theorem rotReport_park_ended {s : State} (p result cause : Nat) (hidle : (dom s 1).state = .idle) :
    Ended p .park s (rotReport (rotEnter s p .park 64) p result cause) := by
  have henter := rotEnter_entered s p .park 64
  obtain ⟨hpqe, huncut⟩ := rotReport_kept (s := rotEnter s p .park 64) p result cause ((dom_congr henter.doms 1).symm ▸ hidle)
  have hspare := spare_of_pqe hpqe p
  exact ⟨henter.uncut.trans huncut, by rw [hspare, henter.phase], by rw [hspare, henter.measure], by rw [hspare, henter.mismatch]⟩

/-- Any other rotation is reported, then its spare goes to IDLE. -/
theorem rotEnd_ended {s : State} (p result cause : Nat) (hidle : (dom s 1).state = .idle) :
    Ended p .idle s (rotEnd s p result cause true) := by
  obtain ⟨-, huncut⟩ := rotReport_kept p result cause hidle
  have henter := rotEnter_entered (rotReport s p result cause) p .idle 64
  unfold rotEnd
  rw [if_pos rfl]
  exact ⟨huncut.trans henter.uncut, henter.phase, henter.measure, henter.mismatch⟩

/-- Where a rotation ends: at PARK when its channel is parked, else at IDLE. -/
def lastPhase (x : Spare) : RotPhase := if x.parked.isSome then .park else .idle

/-- The step of a calm hub whose work ends a rotation without a result, in a hub `u` that has touched the spares at most. -/
theorem next_whenRunning_ended {s u : State} {p cause : Nat} (f : State → State) (hcalm : calm s = true)
    (hidle : (dom s 1).state = .idle) (hev : u.ev = s.ev) (hpwr : u.pwr = s.pwr)
    (hf : f s = if (spare s p).parked.isSome then rotReport (rotEnter u p .park 64) p 6 cause else rotEnd s p 6 cause true) :
    ∃ t, (.next (whenRunning s f) : Out) = .next t ∧ (spare t p).phase = lastPhase (spare s p) ∧ (spare t p).measure = none ∧
      (spare t p).mismatch = 0 := by
  have hsame : ∀ k, dom u k = dom s k := dom_congr (by rw [hev])
  have hended : Ended p (lastPhase (spare s p)) s (f s) := by
    rw [hf, lastPhase]
    split
    · have hpark := rotReport_park_ended p 6 cause ((hsame 1).symm ▸ hidle)
      exact ⟨Uncut.trans ⟨by rw [hpwr], hsame 6⟩ hpark.uncut, hpark.phase, hpark.measure, hpark.mismatch⟩
    · exact rotEnd_ended p 6 cause hidle
  obtain ⟨t, ht, hkept⟩ := next_whenRunning_kept f hcalm rfl hended.uncut
  have hspare := spare_of_pqe hkept.pqe p
  exact ⟨t, ht, by rw [hspare, hended.phase], by rw [hspare, hended.measure], by rw [hspare, hended.mismatch]⟩

theorem exec_spareFlagsMismatch_ends {s : State} {p : Nat} (hcalm : calm s = true) (hidle : (dom s 1).state = .idle)
    (hdisagree : 8 ≤ (spare s p).mismatch) (hruns : rotNeed s (spare s p).phase ≠ 0) :
    ∃ t, exec (.spareFlagsMismatch p) s = .next t ∧ (spare t p).phase = lastPhase (spare s p) ∧ (spare t p).measure = none ∧
      (spare t p).mismatch = 0 :=
  next_whenRunning_ended (u := setSpare s p { spare s p with mismatch := 0 }) _ hcalm hidle rfl rfl (if_pos ⟨hdisagree, hruns⟩)

theorem exec_spareMeasurementTimeout_ends {s : State} {p m : Nat} (hcalm : calm s = true) (hidle : (dom s 1).state = .idle)
    (hmeasure : (spare s p).measure = some m) (hpassed : m + 16 ≤ nowCycle s) (hruns : rotNeed s (spare s p).phase ≠ 0) :
    ∃ t, exec (.spareMeasurementTimeout p) s = .next t ∧ (spare t p).phase = lastPhase (spare s p) ∧ (spare t p).measure = none ∧
      (spare t p).mismatch = 0 := by
  refine next_whenRunning_ended (cause := 2) _ hcalm hidle rfl rfl ?_
  simp only [hmeasure]
  exact if_pos ⟨hpassed, hruns⟩

/-! ### The schedules (R213, R230) -/

/-- A channel that the automatic scheduler may take. -/
def mayRotate (s : State) (c : Nat) : Bool :=
  autoChannel s c && (spare s (spareSet c)).queue.isEmpty && (spare s (spareSet c)).parked.isNone && !(spare s (spareSet c)).faulty

/-- The channels in the order in which the scheduler looks at them. -/
def autoOrder (s : State) : List Nat := (span 0 1096).map fun i => (s.pqe.autoNext + i) % 1096

theorem exec_rotationScheduleTick_queues {s : State} {c : Nat} (hcalm : calm s = true) (hinterval : qualityField s 358 2 ≠ 0)
    (hpassed : s.pqe.lastAuto + secs (qualityField s 358 2) ≤ s.bkd.tick) (hnext : (autoOrder s).find? (mayRotate s) = some c) :
    exec .rotationScheduleTick s = .next { s with pqe := { s.pqe with
      lastAuto := s.bkd.tick
      spares := tput s.pqe.spares (spareSet c) { spare s (spareSet c) with queue := [⟨c - setBase (spareSet c), 0, false⟩] }
      autoNext := (c + 1) % 1096 } } := by
  have hdue : ¬ (qualityField s 358 2 = 0 ∨ nowTick s < s.pqe.lastAuto + secs (qualityField s 358 2)) := by
    rintro (hnone | hearly)
    · exact hinterval hnone
    · exact absurd hpassed (Nat.not_le.mpr hearly)
  unfold autoOrder mayRotate at hnext
  refine next_whenRunning_quiet _ hcalm ((if_neg hdue).trans ?_) rfl rfl rfl
  simp only [hnext]
  rfl

theorem exec_frequencyIntervalEnd_begins {s : State} (hcalm : calm s = true) (hnone : s.pqe.freqStart = none) :
    exec .frequencyIntervalEnd s = .next { s with pqe := { s.pqe with freqStart := some (nextInterval s) } } := by
  refine next_whenRunning_quiet _ hcalm ?_ rfl rfl rfl
  simp only [hnone]

/-- What the work of a calm hub's step leaves in the quality block stands at its end. -/
theorem next_whenRunning_pqe {s : State} {f : State → State} (P : Pqe → Prop) (hcalm : calm s = true)
    (hwork : Uncut s (f s) ∧ P (f s).pqe) : ∃ t, (.next (whenRunning s f) : Out) = .next t ∧ P t.pqe := by
  obtain ⟨t, ht, hkept⟩ := next_whenRunning_kept f hcalm rfl hwork.1
  exact ⟨t, ht, hkept.pqe ▸ hwork.2⟩

/-- An interval that has ended is streamed, and the next one begins where it ended. -/
theorem exec_frequencyIntervalEnd_advances {s : State} {st : Nat} (hcalm : calm s = true) (hstart : s.pqe.freqStart = some st)
    (hpassed : st + 327680 ≤ s.bkd.tick) :
    ∃ t, exec .frequencyIntervalEnd s = .next t ∧ t.pqe.freqStart = some (st + 327680) := by
  refine next_whenRunning_pqe (fun x => x.freqStart = some (st + 327680)) hcalm ?_
  have hdue : ¬ nowTick s < st + 327680 := Nat.not_lt.mpr hpassed
  simp -zeta only [hstart, if_neg hdue, takeFree]
  extract_lets es pos a b s0 f any fl s1
  have hfree : Uncut s s0 := by
    simp only [s0]
    split <;> exact ⟨rfl, rfl⟩
  have hstream : Beside s0 s1 := streamOut_beside _ _ _
  have huncut := hfree.trans hstream.uncut
  exact ⟨⟨huncut.inReset, huncut.archiveDom⟩, rfl⟩

/-! ### The obligation -/

/-- Settles O35: both commands change one spare; a rotation that is stopped is reported to domain 1 and enters its last phase; the
scheduler (log entry 43) and the frequency interval (log entry 29) move on by their own rules. -/
theorem sparesRotate : Obligations.SparesRotate := by
  intro s
  refine ⟨?test, ?release, ?mismatch, ?timeout, ?schedule, ?first, ?next⟩
  case test =>
    intro d hd ch h hten harg x hfree hgood hidle hnew hroom
    exact exec_spareTest_queues h hten harg hfree hgood hidle hnew hroom
  case release =>
    intro d hd h hten harg hfaulty
    exact exec_spareRelease_clears h hten harg hfaulty
  case mismatch =>
    intro p hcalm hidle hdisagree hruns
    obtain ⟨t, ht, hphase, -, hmismatch⟩ := exec_spareFlagsMismatch_ends hcalm hidle hdisagree hruns
    exact ⟨t, ht, hmismatch, hphase⟩
  case timeout =>
    intro p m hcalm hidle hmeasure hpassed hruns
    obtain ⟨t, ht, hphase, hnone, -⟩ := exec_spareMeasurementTimeout_ends hcalm hidle hmeasure hpassed hruns
    exact ⟨t, ht, hnone, hphase⟩
  case schedule =>
    intro c hcalm hinterval hpassed hnext
    exact exec_rotationScheduleTick_queues hcalm hinterval hpassed hnext
  case first =>
    intro hcalm hnone
    exact exec_frequencyIntervalEnd_begins hcalm hnone
  case next =>
    intro st hcalm hstart hpassed
    exact exec_frequencyIntervalEnd_advances hcalm hstart hpassed

end Sys2Proof.Proofs
end

section
/-!
The seal and its display (R239, R242, R243, R252–R254): a SEAL that passes its checks waits in processing for the boundary, the seal
pins set their levels and marks, and the display's timers and button are changes of the legal partition alone.
-/
namespace Sys2Proof.Proofs

open Sys2Proof.Machine Sys2Proof.Laws

/-! ### Commands that stay in processing (R487, R490) -/

/-- A command of a calm hub whose meaning completes nothing yet: the step reports what the meaning did and changes no more. -/
theorem next_hostCmd_waits {s u : State} {d : Desc} {opc : Nat} {data : Bool} (act : State → State)
    (h : canTake s d opc data = true) (hact : act (take s d) = u) (hpwr : u.pwr = (take s d).pwr)
    (hdoms : u.ev.doms = (take s d).ev.doms) :
    ∃ t, (.next (hostCmd s d opc data act) : Out) = .next t ∧ Told u t := by
  obtain ⟨htaken, -, hfree, hroom⟩ := canTake_parts h
  have hreset : u.pwr.inReset = false := by rw [hpwr, (take_kept s d).pwr, hfree]
  have hroomy : roomy u 6 = true := by rw [roomy_congr hdoms, roomy_take, hroom]
  exact ⟨settle u, by rw [hostCmd_taken act htaken, hact], settle_told u hreset hroomy⟩

theorem told_cmd {s t : State} (h : Told s t) (x : CmdBlk) : Told { s with cmd := x } { t with cmd := x } :=
  ⟨⟨h.kept.pending, h.kept.free, h.kept.clk, h.kept.bkd, h.kept.ply, h.kept.flt, h.kept.met, h.kept.pqe, h.kept.lgl, h.kept.tar,
      h.kept.crd, h.kept.cus, h.kept.key, h.kept.cmp, h.kept.ann, h.kept.slu, h.kept.ril, h.kept.pwr, h.kept.reg⟩,
    h.hif, h.fn, h.ids, rfl, ⟨h.out.out⟩⟩

/-! ### SEAL (R239) -/

/-- The checks of R239 read the legal partition, the backup domain and the objects. -/
theorem sealChecks_take (s : State) (d : Desc) (digest : Nat) : sealChecks (take s d) digest = sealChecks s digest := by
  rw [sent_frame (take_sent s d)]
  rfl

theorem firstFail_sealChecks {s : State} {digest : Nat} (hlock : s.lgl.lockStrapped = true) (hclosed : s.lgl.brkOpen = false)
    (hlatch : s.bkd.breakLatch = none) (hopen : s.lgl.state ≠ .sealed) (hcal : calPending s = false)
    (hdigest : be 32 digest = calDigest s) (hroom : 65 ≤ permFree s) : firstFail (sealChecks s digest) = none := by
  simp [sealChecks, firstFail, hlock, hclosed, hlatch, hopen, hcal, hdigest, hroom]

/-- The command that a SEAL leaves in processing: it is committed. -/
def sealCmd (s : State) (d : Desc) : OpenCmd := ⟨d, 0x0107, (ring s d.tenant d.ring).head, true, [], [], 0, []⟩

/-- The hub that keeps a SEAL for the next boundary. -/
def withSealAsked (s : State) (digest : Nat) (o : OpenCmd) : State :=
  { s with lgl := { s.lgl with pending := some digest }, cmd := { s.cmd with opens := s.cmd.opens ++ [o] } }

theorem withSealAsked_take_told (s : State) (d : Desc) (digest : Nat) (o : OpenCmd) :
    Told (withSealAsked s digest o) (withSealAsked (take s d) digest o) := by
  have htake := take_sent s d
  have hsame : withSealAsked (take s d) digest o =
      { take s d with lgl := (withSealAsked s digest o).lgl, cmd := (withSealAsked s digest o).cmd } := by
    rw [withSealAsked, htake.kept.lgl, htake.cmd]
    rfl
  rw [hsame]
  exact told_cmd (told_lgl (take_told s d) (withSealAsked s digest o).lgl) (withSealAsked s digest o).cmd

theorem exec_seal_waits {s : State} {d : Desc} {digest : Nat} (h : canTake s d 0x0107 true = true) (hten : d.tenant = 0)
    (hpass : firstFail (sealChecks s digest) = none) :
    ∃ t, exec (.seal d digest) s = .next t ∧ Told (withSealAsked s digest (sealCmd (take s d) d)) t := by
  have hchecks : firstFail (by0 d :: sealChecks (take s d) digest) = none := by
    rw [sealChecks_take]
    simpa [firstFail, by0, hten] using hpass
  obtain ⟨t, ht, htold⟩ : ∃ t, exec (.seal d digest) s = .next t ∧ Told (withSealAsked (take s d) digest (sealCmd (take s d) d)) t :=
    next_hostCmd_waits _ h (checked_of_pass _ hchecks) rfl rfl
  exact ⟨t, ht, (withSealAsked_take_told s d digest _).trans htold⟩

/-! ### The seal pins (R238, R242, R243) -/

theorem exec_sealBrkOpen_opens (first : Nat) (s : State) :
    exec (.sealBrkOpen first true) s = .next { s with
      lgl := { s.lgl with brkOpen := true }, bkd := { s.bkd with breakLatch := s.bkd.breakLatch.or (some first) } } := by
  show execSealBrkOpen first true s = _
  unfold execSealBrkOpen
  cases s.bkd.breakLatch <;> simp

theorem exec_sealBrkOpen_closes (first : Nat) (s : State) :
    exec (.sealBrkOpen first false) s = .next { s with lgl := { s.lgl with brkOpen := false } } := rfl

/-- The hub that has read its lock strap. -/
def withLock (s : State) (b : Bool) : State := { s with lgl := { s.lgl with lockStrapped := b } }

theorem calm_withLock {s : State} (b : Bool) (h : calm s = true) : calm (withLock s b) = true := h

theorem exec_sealLockChange_unsealed {s : State} (b : Bool) (hcalm : calm s = true) (hopen : s.lgl.state ≠ .sealed) :
    exec (.sealLockChange b) s = .next (withLock s b) :=
  next_whenRunning_quiet _ (calm_withLock b hcalm) (if_neg fun hlocked => hopen hlocked.1) rfl rfl rfl

/-! ### Tamper records outlast the reports of a step (R402, R403) -/

theorem record_tampers (s : State) (e : EvReq) (sev k depth rflags : Nat) :
    (record s e sev k depth rflags).ev.tampers = s.ev.tampers := by
  have hspan : (spanNow s).ev.tampers = s.ev.tampers := by
    unfold spanNow
    split <;> rfl
  unfold record
  extract_lets s0 n s1 r
  split
  · exact hspan
  · split <;> exact hspan

theorem raise_tampers {s : State} {e : EvReq} (hroom : roomy s (faultDomain e) = true) :
    (raise s e).ev.tampers = s.ev.tampers := by
  unfold raise
  extract_lets sev k p e1 s1 s2 v3 s3
  have hcounted : s3.ev.tampers = s.ev.tampers := record_tampers s e1 sev k _ 0
  have hp : ∀ c, p ≠ .escalate c := fun c => placeFault_roomy s k sev c e.nested hroom
  clear_value s3 p
  split
  · exact record_tampers _ _ _ _ _ _
  · cases p
    case escalate c => exact absurd rfl (hp c)
    all_goals exact hcounted

theorem admitRecord_tampers (s : State) (r : EventRec) : (admitRecord s r).ev.tampers = s.ev.tampers := by
  have hdeliver : ∀ u, (deliver u r).ev.tampers = u.ev.tampers := fun u => by rw [(deliver_sent u r).ev]
  unfold admitRecord
  split
  · exact hdeliver s
  · split
    · exact hdeliver (tailPush s (eventItem r))
    · generalize (if exemptEvent r.id r.sev = true then 8192 else 7168) = n
      split <;> rfl

theorem issueRaised_tampers (s : State) (x : Raised) : (issueRaised s x).ev.tampers = s.ev.tampers := by
  unfold issueRaised issueRecord
  refine (admitRecord_tampers _ _).trans ?_
  split <;> rfl

theorem issueBatch_tampers (s : State) : (issueBatch s).ev.tampers = s.ev.tampers := by
  have hall : ∀ (l : List Raised) (u : State), (l.foldl issueRaised u).ev.tampers = u.ev.tampers := by
    intro l
    induction l with
    | nil => exact fun _ => rfl
    | cons x l ih => exact fun u => (ih _).trans (issueRaised_tampers u x)
  exact hall _ _

theorem settle_tampers {s : State} (hreset : s.pwr.inReset = false) (hroom : roomy s 6 = true) :
    (settle s).ev.tampers = s.ev.tampers := by
  have hroom' : roomy (issueBatch s) 6 = true := (roomy_congr (issueBatch_doms s)).trans hroom
  have hnote : (noteTail (issueBatch s)).ev.tampers = (issueBatch s).ev.tampers := by
    unfold noteTail
    split
    · exact raise_tampers hroom'
    · rfl
  unfold settle
  rw [if_neg (by simp [hreset]), issueBatch_tampers, hnote, issueBatch_tampers]

/-- One occurrence now adds one to the count of its record, which stops at 2^32 − 1 (R402). -/
theorem tamper_count (s : State) (m typ : Nat) :
    (tget {} (tamper s m typ).ev.tampers (tamperKey m typ)).count = satAdd 32 (tget {} s.ev.tampers (tamperKey m typ)).count 1 := by
  unfold tamper tamperAt
  extract_lets key r f0 f1 f2 f3 f4 r1 fresh ev1 s1
  have hwritten : s1.ev.tampers = tput s.ev.tampers key r1 := by
    simp only [s1]
    split <;> rfl
  clear_value s1
  rw [raise_of_info rfl, inform, record_tampers, hwritten, tget_tput_self]

/-! ### A lock strap moved while sealed (R242) -/

/-- The work of SEAL_LOCK_CHANGE on a sealed hub: the level, its entry in the legal log, and the tamper of the device. -/
def lockMoved (s : State) (b : Bool) : State :=
  tamper (legalLog (withLock s b) 0x12 0 0xFFFF (le 1 (flag b 0))) tamperDevice 2

theorem legalLog_lockStrapped (s : State) (typ flags mp : Nat) (data : Bytes) :
    (legalLog s typ flags mp data).lgl.lockStrapped = s.lgl.lockStrapped := by
  unfold legalLog legalLogAt logWrap
  repeat' split
  all_goals rfl

theorem exec_sealLockChange_sealed {s : State} {b : Bool} (hcalm : calm s = true) (hsealed : s.lgl.state = .sealed)
    (hmoved : s.lgl.lockStrapped ≠ b) :
    ∃ t, exec (.sealLockChange b) s = .next t ∧ t.lgl.lockStrapped = b ∧
      (tget {} t.ev.tampers (tamperKey tamperDevice 2)).count =
        satAdd 32 (tget {} s.ev.tampers (tamperKey tamperDevice 2)).count 1 := by
  obtain ⟨hrun, hfree, -, -, hroom⟩ := calm_parts (calm_withLock b hcalm)
  obtain ⟨l, hl⟩ := legalLog_eq (withLock s b) 0x12 0 0xFFFF (le 1 (flag b 0))
  have hlogged : (lockMoved s b).lgl.lockStrapped = b := by
    rw [lockMoved, (tamper_beside _ _ _).lgl, legalLog_lockStrapped]
    rfl
  have hcount := tamper_count (legalLog (withLock s b) 0x12 0 0xFFFF (le 1 (flag b 0))) tamperDevice 2
  have huncut : Uncut (withLock s b) (lockMoved s b) := (legalLog_metered _ _ _ _ _).uncut.trans (tamper_beside _ _ _).uncut
  have hreset : (lockMoved s b).pwr.inReset = false := huncut.inReset.trans hfree
  have hroomy : roomy (lockMoved s b) 6 = true := by
    unfold roomy
    rw [huncut.archiveDom]
    exact hroom
  have hexec : exec (.sealLockChange b) s = .next (settle (lockMoved s b)) :=
    congrArg Host.Outcome.next ((if_pos hrun).trans (congrArg settle (if_pos ⟨hsealed, hmoved⟩)))
  refine ⟨_, hexec, ?_, ?_⟩
  · rw [(settle_told _ hreset hroomy).kept.lgl, hlogged]
  · rw [settle_tampers hreset hroomy, lockMoved, hcount, hl]
    rfl

/-! ### The display (R252–R254) -/

section
variable {s : State} (hcalm : calm s = true)
include hcalm

/-- A step of the display that is a change of the legal partition alone. -/
theorem next_whenRunning_display (f : State → State) {x : Seal} (hf : f s = { s with lgl := x }) :
    (.next (whenRunning s f) : Out) = .next { s with lgl := x } :=
  next_whenRunning_quiet f hcalm hf rfl rfl rfl

theorem exec_ldspFrameTimer_sends (hdue : s.lgl.frameAt + 16384 ≤ s.bkd.tick) :
    exec .ldspFrameTimer s = .next { s with lgl := { s.lgl with
      frame := ldspFrame s, ldspSeq := (s.lgl.ldspSeq + 1) % 256, frameAt := s.bkd.tick } } :=
  next_whenRunning_display hcalm _ (if_pos (.inr (.inl (Nat.le_add_right_of_le hdue))))

theorem exec_ldspScreenTimer_moves (hfree : s.lgl.holdUntil = none) (hdue : s.lgl.screenAt + secs 5 ≤ s.bkd.tick) :
    exec .ldspScreenTimer s = .next { s with lgl := { s.lgl with screen := nextScreen s, screenAt := s.bkd.tick } } :=
  next_whenRunning_display hcalm _ (if_pos ⟨Option.isNone_iff_eq_none.mpr hfree, hdue⟩)

/-- A short press. -/
theorem exec_ldspButton_moves {ms : Nat} (hlow : 50 ≤ ms) (hhigh : ms ≤ 1000) :
    exec (.ldspButton ms) s = .next { s with lgl := { s.lgl with
      screen := nextScreen s, screenAt := s.bkd.tick, holdUntil := some (s.bkd.tick + secs 60) } } :=
  next_whenRunning_display hcalm _ (if_pos ⟨hlow, hhigh⟩)

/-- A long press on a register screen. -/
theorem exec_ldspButton_turns {ms : Nat} (hlong : 2000 ≤ ms) (hscreen : 0x100 ≤ s.lgl.screen) :
    exec (.ldspButton ms) s = .next { s with lgl := { s.lgl with
      screen := s.lgl.screen / 8 * 8 + (s.lgl.screen % 8 + 1) % 7, screenAt := s.bkd.tick,
      holdUntil := some (s.bkd.tick + secs 60) } } :=
  next_whenRunning_display hcalm _ ((if_neg (by omega)).trans (if_pos ⟨hlong, hscreen⟩))

theorem exec_ldspHoldExpire_resumes {u : Nat} (hheld : s.lgl.holdUntil = some u) (hdue : u ≤ s.bkd.tick) :
    exec .ldspHoldExpire s = .next { s with lgl := { s.lgl with
      holdUntil := none, screenAt := s.bkd.tick, screen := if s.lgl.screen < 0x100 then s.lgl.screen else s.lgl.screen / 8 * 8 } } := by
  refine next_whenRunning_display hcalm _ ?_
  simp only [hheld]
  exact if_pos hdue

end

/-! ### The obligation -/

/-- Settles O33: the command that SEAL leaves in processing is `sealCmd`; a pin and the display change their own fields; the strap
of a sealed hub adds one tamper, which the reports of the step keep. -/
theorem theSealAndItsDisplay : Obligations.TheSealAndItsDisplay := by
  intro s
  refine ⟨?command, ?opens, ?closes, ?strap, ?display⟩
  case command =>
    intro d digest h hten hlock hclosed hlatch hopen hcal hdigest hroom
    obtain ⟨t, ht, htold⟩ := exec_seal_waits h hten (firstFail_sealChecks hlock hclosed hlatch hopen hcal hdigest hroom)
    exact ⟨t, _, ht, rfl, rfl, rfl, htold⟩
  case opens => exact fun first => exec_sealBrkOpen_opens first s
  case closes => exact fun first => exec_sealBrkOpen_closes first s
  case strap =>
    intro b hcalm
    exact ⟨exec_sealLockChange_unsealed b hcalm, exec_sealLockChange_sealed hcalm⟩
  case display =>
    intro hcalm
    refine ⟨exec_ldspFrameTimer_sends hcalm, exec_ldspScreenTimer_moves hcalm, ?short, ?long, ?held⟩
    case short => exact fun ms hlow hhigh => exec_ldspButton_moves hcalm hlow hhigh
    case long => exact fun ms hlong hscreen => exec_ldspButton_turns hcalm hlong hscreen
    case held => exact fun u hheld hdue => exec_ldspHoldExpire_resumes hcalm hheld hdue

end Sys2Proof.Proofs
end

section
/-!
Work on one ring of a tenant (R476, R490, R492, R497): a page that is completed, an entry that is produced and a completion leave the
tenant's other rings, its context and the archive alone, so a command that has filled a page still completes in its own slot.
-/
namespace Sys2Proof.Proofs

open Sys2Proof.Machine Sys2Proof.Laws

/-! ### Work on one ring -/

/-- The work from `s` to `t` has reached ring `i` of tenant `k`, the commands in processing and what is sent, and nothing else that a
completion of the tenant or the end of a step reads. -/
structure OnRing (k i : Nat) (s t : State) : Prop where
  pwr : t.pwr = s.pwr
  ev : t.ev = s.ev
  cis : t.cis = s.cis
  ctxs : t.hif.ctxs = s.hif.ctxs
  live : live t k = live s k
  others : ∀ j, j ≠ i → ring t k j = ring s k j
  grew : Grew s t

theorem OnRing.refl (k i : Nat) (s : State) : OnRing k i s s := ⟨rfl, rfl, rfl, rfl, rfl, fun _ _ => rfl, Grew.refl s⟩

theorem OnRing.trans {k i : Nat} {s t u : State} (h : OnRing k i s t) (g : OnRing k i t u) : OnRing k i s u :=
  ⟨g.pwr.trans h.pwr, g.ev.trans h.ev, g.cis.trans h.cis, g.ctxs.trans h.ctxs, g.live.trans h.live,
    fun j hj => (g.others j hj).trans (h.others j hj), h.grew.trans g.grew⟩

theorem OnRing.ite {k i : Nat} {s t u : State} {c : Prop} [Decidable c] (ht : OnRing k i s t) (hu : OnRing k i s u) :
    OnRing k i s (if c then t else u) := by
  split
  · exact ht
  · exact hu

theorem withCmd_onRing (k i : Nat) (s : State) (x : CmdBlk) : OnRing k i s { s with cmd := x } :=
  ⟨rfl, rfl, rfl, rfl, rfl, fun _ _ => rfl, Grew.of_hif rfl⟩

theorem ring_of_rng {s t : State} (h : t.rng = s.rng) (k i : Nat) : ring t k i = ring s k i := by
  rw [ring, h, ring]

/-- Sending to a live function leaves it live. -/
theorem live_of_told {s t : State} (h : Told s t) (k : Nat) : live t k = live s k := by
  have hvf : t.hif.vfEnable = s.hif.vfEnable := (congrArg Hif.vfEnable h.hif :)
  have hnum : t.hif.numVfs = s.hif.numVfs := (congrArg Hif.numVfs h.hif :)
  have hlink : t.hif.linkUp = s.hif.linkUp := (congrArg Hif.linkUp h.hif :)
  have hd3 : (func t k).d3 = (func s k).d3 := (congrArg Func.d3 (h.fn k) :)
  have hmse : (func t k).mse = (func s k).mse := (congrArg Func.mse (h.fn k) :)
  have hbme : (func t k).bme = (func s k).bme := (congrArg Func.bme (h.fn k) :)
  simp only [live, funcExists, hvf, hnum, hlink, hd3, hmse, hbme]

theorem OnRing.of_told {k i : Nat} {s t : State} (h : Told s t) (g : Sent s t) (hothers : ∀ j, j ≠ i → ring t k j = ring s k j) :
    OnRing k i s t :=
  ⟨h.kept.pwr, g.ev, g.cis, g.ctxs, live_of_told h k, hothers, h.out⟩

theorem setRing_onRing (s : State) (k i : Nat) (r : Ring) : OnRing k i s (setRing s k i r) :=
  ⟨rfl, rfl, rfl, rfl, rfl, fun j hj => ring_setRing_ne s k i j r hj, Grew.of_hif rfl⟩

theorem dma_onRing (s : State) (k i a : Nat) (b : Bytes) : OnRing k i s (dma s k a b) :=
  .of_told (dma_told s k a b) (dma_sent s k a b) fun j _ => ring_of_rng (dma_rng s k a b) k j

theorem sendMsi_rng (s : State) (k v : Nat) : (sendMsi s k v).rng = s.rng := by
  unfold sendMsi
  extract_lets f
  split
  · split <;> rfl
  · rfl

theorem sendMsi_onRing (s : State) (k i v : Nat) : OnRing k i s (sendMsi s k v) :=
  .of_told (sendMsi_told s k v) (sendMsi_sent s k v) fun j _ => ring_of_rng (sendMsi_rng s k v) k j

theorem signalRing_onRing (s : State) (k i : Nat) : OnRing k i s (signalRing s k i) := by
  unfold signalRing
  have hshadow : OnRing k i s (writeShadow (setRing s k i { ring s k i with unsig := 0 }) k i) :=
    (setRing_onRing s k i _).trans (dma_onRing _ k i _ _)
  exact .ite (hshadow.trans (sendMsi_onRing _ k i _)) hshadow

theorem produce_onRing (s : State) (k i : Nat) (b : Bytes) : OnRing k i s (produce s k i b) := by
  unfold produce
  extract_lets r s1 tail r1 s2
  have hentry : OnRing k i s s2 := (dma_onRing s k i _ b).trans (setRing_onRing s1 k i r1)
  exact .ite (hentry.trans (signalRing_onRing s2 k i)) hentry

theorem consumeEntry_onRing (s : State) (k i : Nat) : OnRing k i s (consumeEntry s k i) := by
  unfold consumeEntry
  extract_lets r before r1 s1
  have hmoved : OnRing k i s s1 := setRing_onRing s k i r1
  split
  · exact hmoved.trans (dma_onRing s1 k i _ _)
  · exact hmoved.trans (dma_onRing s1 k i _ _)
  · exact .ite (hmoved.trans (signalRing_onRing s1 k i)) hmoved

/-! ### Pages (R497) -/

theorem signalRing_page (s : State) (k i : Nat) : (ring (signalRing s k i) k i).page = (ring s k i).page := by
  have hshadow : ∀ u : State, (writeShadow u k i).rng = u.rng := fun u => dma_rng _ _ _ _
  have hpage := congrArg Ring.page (ring_setRing_self s k i { ring s k i with unsig := 0 })
  unfold signalRing
  split
  · rw [ring_of_rng (sendMsi_rng _ _ _), ring_of_rng (hshadow _), hpage]
  · rw [ring_of_rng (hshadow _), hpage]

theorem produce_page (s : State) (k i : Nat) (b : Bytes) : (ring (produce s k i b) k i).page = (ring s k i).page := by
  unfold produce
  extract_lets r s1 tail r1 s2
  have hpage : (ring s2 k i).page = r.page := (congrArg Ring.page (ring_setRing_self s1 k i r1) :)
  split
  · rw [signalRing_page, hpage]
  · exact hpage

/-- A page that finds a free entry is written to the host and is no longer open. -/
theorem closePage_writes {s : State} {k i : Nat} {p : OpenPage} (pfl : Nat) (hpage : (ring s k i).page = some p)
    (hfree : 0 < ringFree (ring s k i)) (hlive : live s k = true) :
    OnRing k i s (closePage s k i pfl) ∧ (ring (closePage s k i pfl) k i).page = none ∧
      .write k p.addr (p.recs.map recBytes).flatten ∈ (closePage s k i pfl).hif.out := by
  let bytes := (p.recs.map recBytes).flatten
  let s1 := dma s k p.addr bytes
  let s2 := setRing s1 k i { ring s1 k i with page := none }
  have hclose : closePage s k i pfl = produce s2 k i (pageEntry p pfl) := by
    simp only [closePage, hpage, if_pos hfree]
    rfl
  have hcleared : OnRing k i s1 s2 := setRing_onRing s1 k i _
  have hproduced : OnRing k i s2 (produce s2 k i (pageEntry p pfl)) := produce_onRing s2 k i _
  rw [hclose]
  refine ⟨(dma_onRing s k i _ _).trans (hcleared.trans hproduced), ?_, ?_⟩
  · rw [produce_page, ring_setRing_self]
  · exact mem_out_of_grew (hcleared.grew.trans hproduced.grew) (mem_dma_out bytes hlive)

/-! ### Completions (R490) -/

theorem completeOne_onRing (s : State) (d : Desc) (q st x : Nat) (r : Bytes) :
    OnRing d.tenant (cplOf s d) s (completeOne s d q st x r) := by
  unfold completeOne
  extract_lets c r0
  exact .ite ((setRing_onRing s d.tenant c _).trans (produce_onRing _ d.tenant c _)) (.refl _ _ s)

/-- A completion reaches the completion ring alone while the submission ring stands. -/
theorem complete_onRing {s : State} {d : Desc} (q st x : Nat) (r : Bytes) (hne : d.ring ≠ cplOf s d)
    (hstands : (ring s d.tenant d.ring).state ≠ .deleting) : OnRing d.tenant (cplOf s d) s (complete s d q st x r) := by
  have hone := completeOne_onRing s d q st x r
  unfold complete settleDelete
  rw [if_neg fun hdel => hstands (by rw [← hone.others d.ring hne]; exact hdel.1)]
  exact hone

/-- The completion is written in the next slot of an active completion ring. -/
theorem completeOne_out {s : State} {d : Desc} (q st x : Nat) (r : Bytes) (hctx : (ctx s d.tenant).state = .active)
    (hactive : (ring s d.tenant (cplOf s d)).state = .active) (htyp : (ring s d.tenant (cplOf s d)).typ = .cpl)
    (hlive : live s d.tenant = true) :
    ∃ after, (completeOne s d q st x r).hif.out = s.hif.out ++
      [.write d.tenant ((ring s d.tenant (cplOf s d)).base + (ring s d.tenant (cplOf s d)).tail * 32)
        (cplBytes d.cid st q d.ring (ring s d.tenant (cplOf s d)).phase x r)] ++ after := by
  unfold completeOne
  extract_lets c r0
  rw [if_pos ⟨hctx, hactive⟩]
  obtain ⟨after, hout⟩ := produce_out (s := setRing s d.tenant c { r0 with reserved := r0.reserved - 1 }) c
    (cplBytes d.cid st q d.ring r0.phase x r) hlive
  have hsize : entrySize r0.typ = 32 := congrArg entrySize htyp
  rw [ring_setRing_self] at hout
  simp only [hsize] at hout
  exact ⟨after, hout⟩

/-- A taken command has left every ring but its own two as it was. -/
theorem ring_take_ne {s : State} {d : Desc} {j : Nat} (hsub : j ≠ d.ring) (hcpl : j ≠ cplOf s d) :
    ring (take s d) d.tenant j = ring s d.tenant j := by
  have hids := (consumeEntry_told s d.tenant d.ring).ids d.tenant d.ring
  have hpair : cplOf (consumeEntry s d.tenant d.ring) d = cplOf s d := cplOf_congr (congrArg (fun p => p.2.2.2.2.2.2.1) hids)
  unfold take
  extract_lets s1 c
  have hc : c = cplOf s d := hpair
  rw [ring_setRing_ne s1 d.tenant c j _ (hc ▸ hcpl)]
  exact (consumeEntry_onRing s d.tenant d.ring).others j hsub

/-- A command that has worked on another ring of its tenant completes in its own slot, and the step does no more. -/
theorem next_hostCmd_onRing {s u : State} {d : Desc} {opc i st x : Nat} {data : Bool} {res : Bytes} (act : State → State)
    (h : canTake s d opc data = true) (hact : act (take s d) = complete u d (ring (take s d) d.tenant d.ring).head st x res)
    (hwork : OnRing d.tenant i (take s d) u) (hsub : i ≠ d.ring) (hcpl : i ≠ cplOf s d) :
    ∃ t, (.next (hostCmd s d opc data act) : Out) = .next t ∧ OnRing d.tenant (cplOf s d) u t ∧ answered s t d st x res := by
  obtain ⟨htaken, hlive, -, -⟩ := canTake_parts h
  have hcalm : calm s = true := by
    unfold canTake at h
    simp only [Bool.and_eq_true] at h
    exact h.2
  obtain ⟨-, hfree, hbatch, htail, -⟩ := calm_parts hcalm
  obtain ⟨hctx, hactive, hcplActive, hcplTyp, hne, htyp, -⟩ := ready_rings (taken_ready htaken)
  obtain ⟨hpair, hsubRing, hcplRing⟩ := take_rings (taken_ready htaken)
  have htake := take_sent s d
  have hsubU : ring u d.tenant d.ring = ring (take s d) d.tenant d.ring := hwork.others _ (Ne.symm hsub)
  have hcplU : ring u d.tenant (cplOf s d) = ring (take s d) d.tenant (cplOf s d) := hwork.others _ (Ne.symm hcpl)
  have hpairU : cplOf u d = cplOf s d := (cplOf_congr (congrArg Ring.pair hsubU)).trans hpair
  have hstands : (ring u d.tenant d.ring).state ≠ .deleting := by
    rw [hsubU, hsubRing]
    simp [hactive]
  have hdone := complete_onRing (ring (take s d) d.tenant d.ring).head st x res (hpairU.symm ▸ Ne.symm hne) hstands
  rw [hpairU] at hdone
  obtain ⟨before, hbefore⟩ := (htake.grew.trans hwork.grew).out
  obtain ⟨after, hafter⟩ := completeOne_out (s := u) (d := d) (ring (take s d) d.tenant d.ring).head st x res
    (by rw [ctx, hwork.ctxs, htake.ctxs]; exact hctx) (by rw [hpairU, hcplU, hcplRing]; exact hcplActive)
    (by rw [hpairU, hcplU, hcplRing]; exact hcplTyp) (by rw [hwork.live, take_live s d htyp]; exact hlive)
  obtain ⟨more, hmore⟩ := (settleDelete_grew (completeOne u d (ring (take s d) d.tenant d.ring).head st x res) d).out
  refine ⟨complete u d (ring (take s d) d.tenant d.ring).head st x res, ?_, hdone, before, after ++ more, ?_⟩
  · rw [hostCmd_taken act htaken, hact, settle_quiet]
    · rw [hdone.pwr, hwork.pwr, htake.kept.pwr, hfree]
    · rw [hdone.ev, hwork.ev, htake.ev, hbatch]
    · unfold TailTold
      rw [hdone.cis, hwork.cis, htake.cis]
      exact htail
  · rw [complete, hmore, hafter, hbefore, hpairU, hcplU, hcplRing, hsubRing]
    simp only [List.append_assoc]

end Sys2Proof.Proofs
end

section
/-!
Reads of the archive, the legal log and the tamper records (R250, R381, R403, R501, R523): an archive read goes on from item to item
until none answers, completes the page that holds its last item and then itself; the other two write what the hub holds.
-/
namespace Sys2Proof.Proofs

open Sys2Proof.Machine Sys2Proof.Laws

/-! ### One round of an archive read (R381, R501) -/

theorem nth_setNth_ne {α : Type} (d : α) (l : List α) {p q : Nat} (x : α) (h : q ≠ p) : nth d (setNth l p x) q = nth d l q := by
  induction l generalizing p q with
  | nil => rfl
  | cons y l ih =>
    cases p with
    | zero =>
      cases q with
      | zero => exact absurd rfl h
      | succ q => rfl
    | succ p =>
      cases q with
      | zero => rfl
      | succ q => exact ih fun hq => h (congrArg (· + 1) hq)

/-- Whether part of what a read asked for was gone, as its argument 7 notes it. -/
def goneNote (s : State) (o : OpenCmd) : Nat := if nth 0 o.arg 0 < lowestAseq s then 1 else nth 0 o.arg 7

/-- A read that has looked at the archive once more. -/
def looked (s : State) (o : OpenCmd) : OpenCmd := { o with arg := setNth o.arg 7 (goneNote s o) }

/-- Looking at the archive changes no other argument of a read. -/
theorem nth_looked (s : State) (o : OpenCmd) : nth 0 (looked s o).arg 3 = nth 0 o.arg 3 := nth_setNth_ne _ _ _ (by decide)

/-- The stream record of an archived item. -/
def itemRec (it : Item) : StreamRec :=
  ⟨it.kind, 1 + flag it.damaged 1, it.aseq, it.tenant, it.session, if it.damaged then [] else it.body⟩

/-- A record of an archived item is marked as the answer to a read. -/
theorem itemRec_marked (it : Item) : ((itemRec it).sfl % 2 == 1) = true := by
  cases hbad : it.damaged <;> simp [itemRec, flag, hbad]

/-- A page that has taken one more record. -/
def filledPage (s : State) (p : OpenPage) (r : StreamRec) : OpenPage :=
  { p with recs := p.recs ++ [r], fill := p.fill + recSize r, gap := p.gap || r.rkind == 0x40,
           since := if p.recs.isEmpty then nowTick s else p.since }

/-- The arguments of a read that has placed an item. -/
def placedArg (s : State) (o : OpenCmd) (it : Item) : List Nat :=
  [it.aseq + 1, nth 0 o.arg 1, nth 0 o.arg 2, nth 0 o.arg 3, nth 0 o.arg 4, nth 0 o.arg 5, nth 0 o.arg 6 + 1, goneNote s o, it.aseq]

/-- A read that has placed an item: it goes on behind it. -/
def placedCmd (s : State) (o : OpenCmd) (it : Item) : OpenCmd :=
  { o with arg := placedArg s o it, result := readResult s (placedArg s o it) }

/-- The hub without a command that ends. -/
def withoutCmd (s : State) (o : OpenCmd) : State :=
  { s with cmd := { s.cmd with opens := s.cmd.opens.filter fun x => x != o } }

/-- The last ASEQ examined, once no item is left. -/
def lastExamined (s : State) (o : OpenCmd) : Nat :=
  if nth 0 o.arg 6 = nth 0 o.arg 1 then nth 0 o.arg 8 else max (nth 0 o.arg 8) (highestAseq s)

/-- The status of a read that ends. -/
def readStatus (o : OpenCmd) : Nat := if nth 0 o.arg 7 = 1 then stArchiveGone else stOk

section
variable {s : State} {o : OpenCmd} {k i : Nat} (hk : o.desc.tenant = k) (hi : nth 0 o.arg 3 = i)
include hk hi

/-- No item answers: the read ends. -/
theorem pumpRead_ends (n : Nat) (hstill : (ring s k i).page.bind (·.closing) = none) (hnone : s.cis.log.find? (readMatch o) = none) :
    pumpRead (n + 1) s o = endRead (setOpen s o (looked s o)) (looked s o) := by
  subst hk hi
  simp only [pumpRead, hstill, hnone]
  rfl

/-- An item that fits the open page is placed there, and the read goes on. -/
theorem pumpRead_places {p : OpenPage} {it : Item} (n : Nat) (hpage : (ring s k i).page = some p) (hstill : p.closing = none)
    (hfound : s.cis.log.find? (readMatch o) = some it) (hmore : nth 0 o.arg 6 < nth 0 o.arg 1)
    (hfits : p.fill + recSize (itemRec it) ≤ 4096) :
    pumpRead (n + 1) s o = pumpRead n
      (placeRec (setOpen (setOpen s o (looked s o)) (looked s o) (placedCmd s o it)) k i p (itemRec it) (ring s k i).staged)
      (placedCmd s o it) := by
  subst hk hi
  have hfits' := hfits
  unfold itemRec at hfits'
  simp only [pumpRead, hpage, Option.bind_some, hstill, hfound, if_neg (Nat.not_le.mpr hmore), if_pos hfits']
  rfl

/-- A read that ends with no page open completes at once. -/
theorem endRead_of_no_page (hpage : (ring s k i).page = none) :
    endRead s o = complete (withoutCmd s o) o.desc o.sqhd (readStatus o) 0 (readResult s (setNth o.arg 8 (lastExamined s o))) := by
  subst hk hi
  simp only [endRead, hpage, Bool.false_eq_true, Bool.and_false, if_false]
  rfl

/-- A read that nothing more answers, with no page open, completes at once. -/
theorem pumpRead_completes (n : Nat) (hpage : (ring s k i).page = none) (hnone : s.cis.log.find? (readMatch o) = none) :
    pumpRead (n + 1) s o = complete (withoutCmd (setOpen s o (looked s o)) (looked s o)) o.desc o.sqhd (readStatus (looked s o)) 0
      (readResult s (setNth (looked s o).arg 8 (lastExamined s (looked s o)))) := by
  have hsame : nth 0 (looked s o).arg 3 = i := (nth_looked s o).trans hi
  rw [pumpRead_ends hk hi n (by rw [hpage]; rfl) hnone, endRead_of_no_page (s := setOpen s o (looked s o)) (o := looked s o) hk hsame hpage]
  rfl

/-- A read whose last items stand in the open page completes it first (CMD_END). -/
theorem endRead_of_own_page {p : OpenPage} (hpage : (ring s k i).page = some p) (hmine : (p.recs.any fun r => r.sfl % 2 == 1) = true)
    (hclosed : (ring (closePage s k i 2) k i).page = none) :
    endRead s o = complete (withoutCmd (closePage s k i 2) o) o.desc o.sqhd (readStatus o) 0
      (readResult s (setNth o.arg 8 (lastExamined s o))) := by
  subst hk hi
  simp only [endRead, hpage, hmine, if_true, hclosed]
  rfl

end

/-! ### ARCHIVE_READ (R381, R501, R523) -/

/-- A read of tenant 0 looks at every item of its kinds from an ASEQ on. -/
theorem readMatch_tenantZero {o : OpenCmd} (it : Item) (hten : o.desc.tenant = 0) (hall : nth 0 o.arg 4 = 0) :
    readMatch o it = (decide (nth 0 o.arg 0 ≤ it.aseq) && (nth 0 o.arg 2 == 0 || bit (nth 0 o.arg 2) it.kind)) := by
  simp [readMatch, hten, hall]

section
variable {s : State} {o : OpenCmd} {k i : Nat} {p : OpenPage} (hk : o.desc.tenant = k) (hi : nth 0 o.arg 3 = i)
  (hlive : live s k = true) (hpage : (ring s k i).page = some p) (hstill : p.closing = none) (hfree : 0 < ringFree (ring s k i))
include hk hi hlive hpage hstill hfree

/-- A read that nothing more answers, its last item being in the open page: the page is completed, and then the read. -/
theorem pumpRead_closes (n : Nat) (hnone : s.cis.log.find? (readMatch o) = none)
    (hmine : (p.recs.any fun r => r.sfl % 2 == 1) = true) :
    ∃ u, pumpRead (n + 1) s o = complete u o.desc o.sqhd (readStatus (looked s o)) 0
        (readResult s (setNth (looked s o).arg 8 (lastExamined s (looked s o)))) ∧
      OnRing k i s u ∧ (ring u k i).page = none ∧ .write k p.addr (p.recs.map recBytes).flatten ∈ u.hif.out := by
  let o1 := looked s o
  let s1 := setOpen s o o1
  obtain ⟨hwork, hclosed, hwritten⟩ := closePage_writes (s := s1) (k := k) (i := i) 2 hpage hfree hlive
  have hsame : nth 0 (looked s o).arg 3 = i := (nth_looked s o).trans hi
  refine ⟨withoutCmd (closePage s1 k i 2) o1, ?_, ?_, hclosed, hwritten⟩
  · rw [pumpRead_ends hk hi n (by rw [hpage]; exact hstill) hnone,
      endRead_of_own_page (s := s1) (o := o1) hk hsame hpage hmine hclosed]
    rfl
  · exact (withCmd_onRing k i s s1.cmd).trans (hwork.trans (withCmd_onRing k i _ _))

/-- A read of one item that finds it as the only one of the archive, with room for it in the open page: the page is completed with
the item behind what it held, and then the read. -/
theorem pumpRead_single {it : Item} (n : Nat) (hlog : s.cis.log = [it]) (hmatch : readMatch o it = true)
    (hfirst : nth 0 o.arg 0 = it.aseq) (hcount : nth 0 o.arg 1 = 1) (hitems : nth 0 o.arg 6 = 0) (hgone : nth 0 o.arg 7 = 0)
    (hfits : p.fill + recSize (itemRec it) ≤ 4096) :
    ∃ u, pumpRead (n + 2) s o = complete u o.desc o.sqhd stOk 0 (le 6 it.aseq ++ le 4 1 ++ le 6 it.aseq) ∧ OnRing k i s u ∧
      (ring u k i).page = none ∧ .write k p.addr ((p.recs ++ [itemRec it]).map recBytes).flatten ∈ u.hif.out := by
  let o2 := placedCmd s o it
  let s1 := setOpen (setOpen s o (looked s o)) (looked s o) o2
  let s2 := setRing s1 k i { ring s k i with page := some (filledPage s p (itemRec it)) }
  have hlow : lowestAseq s = it.aseq := by simp [lowestAseq, hlog]
  have hring : ring s2 k i = { ring s k i with page := some (filledPage s p (itemRec it)) } := ring_setRing_self s1 k i _
  have hbegun : OnRing k i s s2 := (withCmd_onRing k i s s1.cmd).trans (setRing_onRing s1 k i _)
  have hfound : s.cis.log.find? (readMatch o) = some it := by simp [hlog, hmatch]
  have hpast : s2.cis.log.find? (readMatch o2) = none := by
    show s.cis.log.find? (readMatch o2) = none
    simp [hlog, readMatch, o2, placedCmd, placedArg, nth]
  have hmine : ((p.recs ++ [itemRec it]).any fun x => x.sfl % 2 == 1) = true := by simp [itemRec_marked it]
  have hnote : goneNote s2 o2 = 0 := by
    show (if it.aseq + 1 < lowestAseq s then 1 else if nth 0 o.arg 0 < lowestAseq s then 1 else nth 0 o.arg 7) = 0
    simp [hlow, hfirst, hgone]
  have hstatus : readStatus (looked s2 o2) = stOk := by
    show (if goneNote s2 o2 = 1 then stArchiveGone else stOk) = stOk
    simp [hnote]
  have hlast : lastExamined s2 (looked s2 o2) = it.aseq := if_pos (show nth 0 o.arg 6 + 1 = nth 0 o.arg 1 by omega)
  have hresult : readResult s2 (setNth (looked s2 o2).arg 8 (lastExamined s2 (looked s2 o2))) =
      le 6 it.aseq ++ le 4 1 ++ le 6 it.aseq := by
    rw [hlast]
    show le 6 it.aseq ++ le 4 (nth 0 o.arg 6 + 1) ++ le 6 (lowestAseq s) = _
    rw [hitems, hlow]
  obtain ⟨u, hread, hwork, hclosed, hwritten⟩ := pumpRead_closes (s := s2) (o := o2) hk hi (hbegun.live.trans hlive)
    (congrArg Ring.page hring) hstill (by rw [hring]; exact hfree) n hpast hmine
  refine ⟨u, ?_, hbegun.trans hwork, hclosed, hwritten⟩
  rw [pumpRead_places hk hi (n + 1) hpage hstill hfound (by omega) hfits,
    show placeRec s1 k i p (itemRec it) (ring s k i).staged = s2 from if_pos hfits, hread, hstatus, hresult]
  rfl

end

/-- The command that an ARCHIVE_READ is while it reads. -/
def archiveCmd (s : State) (d : Desc) (first n kinds rg f ses : Nat) : OpenCmd :=
  ⟨d, 0x0A01, (ring s d.tenant d.ring).head, false, readResult s [], [], 0, [first, n, kinds, rg, f, ses, 0, 0, 0]⟩

/-- A hub that has begun an archive read, with no other command in processing. -/
def reading (s : State) (o : OpenCmd) : State := { s with cmd := { s.cmd with opens := [o] } }

section
variable {s : State} {d : Desc} {first n kinds rg f ses : Nat} (h : canTake s d 0x0A01 false = true) (hten : d.tenant = 0)
  (hrg : rg < 64) (htyp : (ring s d.tenant rg).typ = .str) (hopens : s.cmd.opens = [])
include h htyp

/-- A stream ring is neither the submission ring nor the completion ring of a command. -/
theorem strRing_apart : rg ≠ d.ring ∧ rg ≠ cplOf s d := by
  obtain ⟨htaken, -, -, -⟩ := canTake_parts h
  obtain ⟨-, -, -, hcpl, -, hsub, -⟩ := ready_rings (taken_ready htaken)
  refine ⟨?_, ?_⟩ <;> rintro rfl
  · rcases hsub with hsub | hsub <;> rw [htyp] at hsub <;> cases hsub
  · rw [htyp] at hcpl
    cases hcpl

theorem ring_take_str : ring (take s d) d.tenant rg = ring s d.tenant rg := by
  obtain ⟨hsub, hcpl⟩ := strRing_apart h htyp
  exact ring_take_ne hsub hcpl

include hten hrg hopens

/-- An ARCHIVE_READ that passes its checks and is completed in its own step. -/
theorem exec_archiveRead_completes {u : State} {st : Nat} {res : Bytes} (hactive : (ring s d.tenant rg).state = .active)
    (hlow : 1 ≤ n) (hhigh : n ≤ 4096)
    (hread : pumpRead (3 * n + 3) (reading (take s d) (archiveCmd (take s d) d first n kinds rg f ses))
      (archiveCmd (take s d) d first n kinds rg f ses) = complete u d (ring (take s d) d.tenant d.ring).head st 0 res)
    (hwork : OnRing d.tenant rg (reading (take s d) (archiveCmd (take s d) d first n kinds rg f ses)) u) :
    ∃ t, exec (.archiveRead d first n kinds rg f ses) s = .next t ∧ ring t d.tenant rg = ring u d.tenant rg ∧ Grew u t ∧
      answered s t d st 0 res := by
  let o := archiveCmd (take s d) d first n kinds rg f ses
  obtain ⟨hsub, hcpl⟩ := strRing_apart h htyp
  have hpass : firstFail [(d.tenant == 0 || !bit f 0 || ownSession (take s d) d.tenant ses, stNotPermitted),
      (decide (1 ≤ n ∧ n ≤ 4096), stBadArg),
      (decide (rg < 64) && (ring (take s d) d.tenant rg).typ == .str && (ring (take s d) d.tenant rg).state == .active, stRingParam)] =
        none := by
    rw [ring_take_str h htyp]
    simp [firstFail, hten ▸ htyp, hten ▸ hactive, hten, hlow, hhigh, hrg]
  have hopen : defer (take s d) d 0x0A01 0 [first, n, kinds, rg, f, ses, 0, 0, 0] false (readResult (take s d) []) [] =
      reading (take s d) o := by
    have hnone : (take s d).cmd.opens = [] := by rw [(take_sent s d).cmd, hopens]
    simp only [defer, hnone]
    rfl
  have hpump : pumpReads (reading (take s d) o) d.tenant rg = complete u d (ring (take s d) d.tenant d.ring).head st 0 res := by
    rw [← hread]
    simp [pumpReads, reading, o, archiveCmd, nth]
  obtain ⟨t, ht, hdone, hanswer⟩ : ∃ t, exec (.archiveRead d first n kinds rg f ses) s = .next t ∧ OnRing d.tenant (cplOf s d) u t ∧
      answered s t d st 0 res :=
    next_hostCmd_onRing _ h ((checked_of_pass _ hpass).trans (by rw [hopen, hpump])) ((withCmd_onRing _ _ _ _).trans hwork) hsub hcpl
  exact ⟨t, ht, hdone.others rg hcpl, hdone.grew, hanswer⟩

/-- An ARCHIVE_READ from behind the last item. -/
theorem exec_archiveRead_empty (hactive : (ring s d.tenant rg).state = .active) (hpage : (ring s d.tenant rg).page = none)
    (hlow : 1 ≤ n) (hhigh : n ≤ 4096) (hbehind : ∀ it ∈ s.cis.log, it.aseq < first) :
    ∃ t, exec (.archiveRead d first n kinds rg f ses) s = .next t ∧
      answered s t d (if first < lowestAseq s then stArchiveGone else stOk) 0
        (le 6 (highestAseq s) ++ le 4 0 ++ le 6 (lowestAseq s)) := by
  let o := archiveCmd (take s d) d first n kinds rg f ses
  let b := reading (take s d) o
  have hcis : b.cis = s.cis := (take_sent s d).cis
  have hpage' : (ring b d.tenant rg).page = none := (congrArg Ring.page (ring_take_str h htyp)).trans hpage
  have hnone : b.cis.log.find? (readMatch o) = none := by
    rw [hcis, List.find?_eq_none]
    intro it hit
    have hpast : ¬ nth 0 o.arg 0 ≤ it.aseq := Nat.not_le.mpr (hbehind it hit)
    simp [readMatch, hpast]
  have hlowest : lowestAseq b = lowestAseq s := by rw [lowestAseq, hcis, lowestAseq]
  have hhighest : highestAseq b = highestAseq s := by rw [highestAseq, hcis, highestAseq]
  have hstatus : readStatus (looked b o) = if first < lowestAseq s then stArchiveGone else stOk := by
    have hnote : nth 0 (looked b o).arg 7 = if first < lowestAseq s then 1 else 0 := by rw [← hlowest]; rfl
    rw [readStatus, hnote]
    split <;> simp
  have hlast : lastExamined b (looked b o) = highestAseq s := by
    have hmore : ¬ 0 = n := by omega
    rw [← hhighest]
    exact (if_neg hmore).trans (Nat.zero_max _)
  have hresult : readResult b (setNth (looked b o).arg 8 (lastExamined b (looked b o))) =
      le 6 (highestAseq s) ++ le 4 0 ++ le 6 (lowestAseq s) := by
    rw [hlast, ← hlowest]
    rfl
  have hread := pumpRead_completes (s := b) (o := o) rfl rfl (3 * n + 2) hpage' hnone
  rw [hstatus, hresult] at hread
  obtain ⟨t, ht, -, -, hanswer⟩ := exec_archiveRead_completes h hten hrg htyp hopens hactive hlow hhigh hread (withCmd_onRing _ _ _ _)
  exact ⟨t, ht, hanswer⟩

/-- An ARCHIVE_READ of the archive's only item. -/
theorem exec_archiveRead_single {p : OpenPage} {it : Item} (hactive : (ring s d.tenant rg).state = .active)
    (hpage : (ring s d.tenant rg).page = some p) (hstill : p.closing = none) (hfree : 0 < ringFree (ring s d.tenant rg))
    (hlog : s.cis.log = [it]) (hkind : kinds = 0 ∨ bit kinds it.kind = true) (hfits : p.fill + recSize (itemRec it) ≤ 4096) :
    ∃ t, exec (.archiveRead d it.aseq 1 kinds rg 0 0) s = .next t ∧ (ring t d.tenant rg).page = none ∧
      .write d.tenant p.addr ((p.recs ++ [itemRec it]).map recBytes).flatten ∈ t.hif.out ∧
      answered s t d stOk 0 (le 6 it.aseq ++ le 4 1 ++ le 6 it.aseq) := by
  let o := archiveCmd (take s d) d it.aseq 1 kinds rg 0 0
  obtain ⟨htaken, hlive, -, -⟩ := canTake_parts h
  obtain ⟨-, -, -, -, -, hsub, -⟩ := ready_rings (taken_ready htaken)
  have hsame : ring (reading (take s d) o) d.tenant rg = ring s d.tenant rg := ring_take_str h htyp
  have hmatch : readMatch o it = true := by
    rw [readMatch_tenantZero it hten rfl]
    simpa [o, archiveCmd, nth] using hkind
  obtain ⟨u, hread, hwork, hclosed, hwritten⟩ := pumpRead_single (s := reading (take s d) o) (o := o) (k := d.tenant) (i := rg) rfl rfl
    ((take_live s d hsub d.tenant).trans hlive) (by rw [hsame]; exact hpage) hstill (by rw [hsame]; exact hfree) 4
    ((congrArg Cis.log (take_sent s d).cis).trans hlog) hmatch rfl rfl rfl rfl hfits
  obtain ⟨t, ht, hring, hgrew, hanswer⟩ := exec_archiveRead_completes h hten hrg htyp hopens hactive (le_refl 1) (by decide) hread hwork
  exact ⟨t, ht, by rw [hring, hclosed], mem_out_of_grew hgrew hwritten, hanswer⟩

end

/-! ### LEGAL_LOG_READ (R250, R523) -/

/-- The entries a read asks for. -/
def logPart (s : State) (first n : Nat) : List Bytes := ((logAll s).filter fun e => decide (first ≤ fld e 0 4)).take n

/-- RESULT of LEGAL_LOG_READ: the first SEQ read, the entries read and the lowest SEQ held. -/
def logResult (s : State) (first n : Nat) : Bytes :=
  le 4 (((logPart s first n).head?).elim first fun e => fld e 0 4) ++ le 2 (logPart s first n).length ++
    le 4 (((logAll s).head?).elim s.lgl.seq fun e => fld e 0 4)

theorem logAll_take (s : State) (d : Desc) : logAll (take s d) = logAll s := by
  rw [logAll, (take_kept s d).lgl, logAll]

theorem logPart_take (s : State) (d : Desc) (first n : Nat) : logPart (take s d) first n = logPart s first n := by
  rw [logPart, logAll_take, logPart]

theorem logResult_take (s : State) (d : Desc) (first n : Nat) : logResult (take s d) first n = logResult s first n := by
  rw [logResult, logPart_take, logAll_take, (take_kept s d).lgl, logResult]

/-- The operation that signs entries with the seal key. -/
def logSign (s : State) (first n : Nat) : SignOp :=
  { purpose := 2, slot := 1, opened := true, mat := Config.sealKey, token := s.cus.nextToken, body := (logPart s first n).flatten }

/-- What LEGAL_LOG_READ does once it is taken. -/
def logRead (d : Desc) (first n flags : Nat) (s : State) : State :=
  checked s d [by0 d, (decide (1 ≤ n ∧ n ≤ 4096), stBadArg)] fun s =>
    if bit flags 0 then
      if d.dlen < (logPart s first n).flatten.length + 64 then
        complete s d (ring s d.tenant d.ring).head stDataShort ((logPart s first n).flatten.length + 64) []
      else addSign (defer (freshToken s).2 d 0x0A02 s.cus.nextToken [] false (logResult s first n) []) (logSign s first n)
    else replyOut s d (logPart s first n).flatten (logResult s first n)

theorem exec_legalLogRead_eq {s : State} {d : Desc} {first n flags : Nat} (h : bit flags 0 = true → signRoom s d.tenant = true) :
    exec (.legalLogRead d first n flags) s = .next (hostCmd s d 0x0A02 true (logRead d first n flags)) := by
  have hgoes : ¬ (bit flags 0 && !signRoom s d.tenant) = true := by simpa using h
  exact congrArg Host.Outcome.next (if_neg hgoes)

section
variable {s : State} {d : Desc} {first n : Nat} (h : canTake s d 0x0A02 true = true) (hten : d.tenant = 0) (hlow : 1 ≤ n)
  (hhigh : n ≤ 4096)
include h hten hlow hhigh

theorem exec_legalLogRead_writes (hfits : (logPart s first n).flatten.length ≤ d.dlen) :
    ∃ t, exec (.legalLogRead d first n 0) s = .next t ∧ Told s t ∧
      .write d.tenant d.dptr (logPart s first n).flatten ∈ t.hif.out ∧
      answered s t d stOk (logPart s first n).flatten.length (logResult s first n) := by
  have hplain : bit 0 0 = false := by decide
  rw [exec_legalLogRead_eq (by simp [hplain])]
  refine next_hostCmd_replyOut _ h hfits ?_
  refine (checked_of_pass _ (firstFail_by0_and _ hten (decide_eq_true ⟨hlow, hhigh⟩))).trans ?_
  rw [hplain, logPart_take, logResult_take]
  rfl

theorem exec_legalLogRead_signs (hsign : signRoom s d.tenant = true) (hfits : (logPart s first n).flatten.length + 64 ≤ d.dlen) :
    ∃ t, exec (.legalLogRead d first n 1) s = .next t ∧ t.cus.ops = s.cus.ops ++ [logSign s first n] := by
  have hlong : ¬ d.dlen < (logPart (take s d) first n).flatten.length + 64 := by
    rw [logPart_take]
    exact Nat.not_lt.mpr hfits
  have hact : logRead d first n 1 (take s d) = addSign (defer (freshToken (take s d)).2 d 0x0A02 (take s d).cus.nextToken [] false
      (logResult (take s d) first n) []) (logSign (take s d) first n) :=
    (checked_of_pass _ (firstFail_by0_and _ hten (decide_eq_true ⟨hlow, hhigh⟩))).trans (if_neg hlong)
  obtain ⟨t, ht, htold⟩ := next_hostCmd_waits _ h hact rfl rfl
  refine ⟨t, (exec_legalLogRead_eq fun _ => hsign).trans ht, ?_⟩
  rw [htold.kept.cus]
  show (take s d).cus.ops ++ [logSign (take s d) first n] = _
  rw [logSign, logPart_take, (take_kept s d).cus, logSign]

end

/-! ### TAMPER_READ (R523) -/

theorem tamperPage_take (s : State) (d : Desc) (m : Nat) : tamperPage (take s d) m = tamperPage s m := by
  rw [tamperPage, (take_sent s d).ev, tamperPage]

theorem exec_tamperRead_writes {s : State} {d : Desc} {scope m : Nat} (h : canTake s d 0x0A03 true = true) (hten : d.tenant = 0)
    (hscope : scope = 0 ∧ m < 256 ∨ scope = 1) (hfits : (tamperPage s (if scope = 1 then tamperDevice else m)).length ≤ d.dlen) :
    ∃ t, exec (.tamperRead d scope m) s = .next t ∧ Told s t ∧
      .write d.tenant d.dptr (tamperPage s (if scope = 1 then tamperDevice else m)) ∈ t.hif.out ∧
      answered s t d stOk (tamperPage s (if scope = 1 then tamperDevice else m)).length [] := by
  have hpass : firstFail [(d.tenant == 0 || (scope == 0 && mpOfTenant (take s d) m d.tenant), stNotPermitted),
      (decide (scope = 0 ∧ m < 256 ∨ scope = 1), stBadArg)] = none := by
    simp [firstFail, hten, hscope]
  exact next_hostCmd_replyOut _ h hfits ((checked_of_pass _ hpass).trans (by rw [tamperPage_take]))

/-! ### The obligation -/

/-- Settles O47: a read that nothing answers ends in its first round, one of a single item in its second; the other reads write what
stood before the command was taken. -/
theorem logsAndArchiveAreRead : Obligations.LogsAndArchiveAreRead := by
  intro s d hten
  refine ⟨?empty, ?single, ?log, ?tampers⟩
  case empty =>
    intro first n k rg f ses h hlow hhigh _ _ hrg htyp hactive hpage hopens hbehind
    simp only [List.all_eq_true, decide_eq_true_eq] at hbehind
    exact exec_archiveRead_empty h hten hrg (by rw [hten]; exact htyp) hopens (by rw [hten]; exact hactive)
      (by rw [hten]; exact hpage) hlow hhigh hbehind
  case single =>
    intro first k rg p it h _ hrg htyp hactive hpage hstill hopens hfree hlog hgood hfirst hkind hfits
    have hrec : itemRec it = ⟨it.kind, 1, it.aseq, it.tenant, it.session, it.body⟩ := by simp [itemRec, hgood, flag]
    subst hfirst
    obtain ⟨t, ht, hclosed, hwritten, hanswer⟩ := exec_archiveRead_single h hten hrg (by rw [hten]; exact htyp) hopens
      (by rw [hten]; exact hactive) (by rw [hten]; exact hpage) hstill (by rw [hten]; exact hfree) hlog hkind (hrec ▸ hfits)
    rw [hten] at hclosed hwritten
    exact ⟨t, ht, hclosed, hrec ▸ hwritten, hanswer⟩
  case log =>
    rintro first n l h hlow hhigh rfl
    refine ⟨?plain, ?signed⟩
    case plain =>
      intro hfits
      obtain ⟨t, ht, htold, hwritten, hanswer⟩ := exec_legalLogRead_writes (first := first) h hten hlow hhigh hfits
      rw [hten] at hwritten
      exact ⟨t, ht, htold, hwritten, hanswer⟩
    case signed =>
      intro hfits hsign
      obtain ⟨t, ht, hops⟩ := exec_legalLogRead_signs (first := first) h hten hlow hhigh (by rw [hten]; exact hsign) hfits
      exact ⟨t, _, ht, hops, rfl, rfl, rfl, rfl, rfl⟩
  case tampers =>
    intro scope m h hscope hfits
    obtain ⟨t, ht, htold, hwritten, hanswer⟩ := exec_tamperRead_writes h hten hscope hfits
    rw [hten] at hwritten
    exact ⟨t, ht, htold, hwritten, hanswer⟩

end Sys2Proof.Proofs
end

section
/-!
SESSION_OPEN, SESSION_CLOSE and BILL_END (R268, R269, R275, R518): each is one change of the tariff engine behind one REPORT_CUT cue
of tenant 0.
-/
namespace Sys2Proof.Proofs

open Sys2Proof.Machine Sys2Proof.Laws

/-! ### A report cut behind a change of the tariff engine (R49, R277) -/

/-- The hub with new contents of the tariff engine, behind a REPORT_CUT cue of tenant 0 at a stamp. -/
def withCut (s : State) (x : Tar) (b : Stamp) : State := (createCue { s with tar := x } cueReport b 0 0).1

/-- The new cue depends on the clock alone. -/
theorem withCut_of_clk {s t : State} (h : t.clk = s.clk) (x : Tar) (b : Stamp) :
    withCut t x b = { t with tar := x, clk := (withCut s x b).clk } := by
  have hpick : pickCue { t with tar := x } 0 = pickCue { s with tar := x } 0 :=
    pickCue_of_clk (s := { s with tar := x }) (t := { t with tar := x }) h 0
  simp only [withCut, createCue, hpick]
  cases pickCue { s with tar := x } 0 with
  | none => rw [← h]
  | some q => simp only [setCue, h]

theorem told_withCut {s t : State} (h : Told s t) (x : Tar) (b : Stamp) : Told (withCut s x b) (withCut t x b) := by
  rw [withCut_of_clk h.kept.clk, withCut_of_clk (s := s) rfl]
  exact told_clk (told_tar h x) _

/-- A command of tenant 0 that asks for a report cut and answers at once. -/
theorem next_hostCmd_cut {s : State} {d : Desc} {opc : Nat} {x : Tar} {b : Stamp} {res : Bytes} (act : State → State)
    (h : canTake s d opc false = true) (hact : act (take s d) = reply (withCut (take s d) x b) d stOk res) :
    ∃ t, (.next (hostCmd s d opc false act) : Out) = .next t ∧ Told (withCut s x b) t ∧ answered s t d stOk 0 res := by
  have hframe := withCut_of_clk (s := take s d) rfl x b
  obtain ⟨t, ht, htold, hanswer⟩ :=
    next_hostCmd_reply act h hact (by rw [hframe]) (by rw [hframe]) (by rw [hframe]) (by rw [hframe])
  exact ⟨t, ht, (told_withCut (take_told s d) x b).trans htold, hanswer⟩

/-! ### What the checks of the three commands read -/

/-- What the checks and the stamps read stands in four blocks. -/
theorem frame_of_kept {s t : State} (h : Kept s t) : t = { t with clk := s.clk, bkd := s.bkd, slu := s.slu, tar := s.tar } := by
  rw [← h.clk, ← h.bkd, ← h.slu, ← h.tar]

theorem stampOr_of_kept {s t : State} (h : Kept s t) (st : Stamp) : stampOr t st = stampOr s st := by
  rw [frame_of_kept h]
  rfl

theorem firstFail_append_pass {l : List (Bool × Nat)} (r : List (Bool × Nat)) (h : firstFail l = none) :
    firstFail (l ++ r) = firstFail r := by
  induction l with
  | nil => rfl
  | cons c l ih =>
    obtain ⟨ok, st⟩ := c
    cases ok with
    | false => cases h
    | true => exact ih h

theorem firstFail_cutChecks {s t : State} {st : Stamp} (h : Kept s t) (hcheck : cueCheck s cueReport (stampOr s st) = none)
    (hroom : cueRoom s 0 = none) : firstFail (cutChecks t st 0) = none := by
  have hsame : cutChecks t st 0 = cutChecks s st 0 := by
    rw [frame_of_kept h]
    rfl
  rw [hsame]
  simp [cutChecks, hcheck, hroom, firstFail]

theorem mpAbsent_of_kept {s t : State} (h : Kept s t) (m : Nat) : mpAbsent t m = mpAbsent s m := by
  rw [frame_of_kept h]
  rfl

theorem tenantDefined_of_kept {s t : State} (h : Kept s t) (n : Nat) : tenantDefined t n = tenantDefined s n := by
  rw [frame_of_kept h]
  rfl

/-! ### What the three commands ask of the tariff engine (R268, R269, R270, R275) -/

theorem takeSessionId_within {s : State} (hleft : s.tar.nextId ≤ 0xFFFFFFFE) (hblock : s.tar.nextId + 1 < s.tar.blockEnd) :
    takeSessionId s = some (s.tar.nextId, { s with tar := { s.tar with nextId := s.tar.nextId + 1 } }) := by
  simp [takeSessionId, Nat.not_lt.mpr hleft, Nat.not_le.mpr hblock]

/-- The tariff engine with a session replaced: `setSession` on its block. -/
def putSession (x : Tar) (id : Nat) (y : Session) : Tar := { x with live := { x.live with sessions := tput x.live.sessions id y } }

theorem setSession_eq (s : State) (id : Nat) (y : Session) : setSession s id y = { s with tar := putSession s.tar id y } := rfl

/-- The tariff engine with a tenant's billing replaced: `setBill` on its block. -/
def putBill (x : Tar) (n : Nat) (y : Bill) : Tar := { x with live := { x.live with bills := tput x.live.bills n y } }

theorem setBill_eq (s : State) (n : Nat) (y : Bill) : setBill s n y = { s with tar := putBill s.tar n y } := rfl

/-- The tariff engine that has given its next SESSION_ID to a session. -/
def sessionAsked (x : Tar) (y : Session) : Tar := putSession { x with nextId := x.nextId + 1 } x.nextId y

/-- The session with a close scheduled at a boundary, or at the earlier one that it has. -/
def closeAsked (x : Session) (b : Nat) : Session := { x with closeAt := some (x.closeAt.elim b fun c => min c.1 b, 0) }

/-- The tenant's billing with one more period end to come. -/
def endAsked (x : Bill) (b : Nat) : Bill := { x with ends := x.ends ++ [b] }

/-- RESULT of BILL_END: the stamp, and the period that ends there. -/
def endResult (x : Bill) (b : Stamp) : Bytes :=
  le 7 b ++ le 4 (x.period + (x.ends.filter fun e => decide (e < Stamp.cycle b)).length)

/-! ### The three commands -/

section
variable {s : State} {d : Desc} {st : Stamp} (hten : d.tenant = 0) (hcheck : cueCheck s cueReport (stampOr s st) = none)
  (hroom : cueRoom s 0 = none)
include hten hcheck hroom

theorem exec_sessionOpen_asks {m n f : Nat} (h : canTake s d 0x0501 false = true) (hm : m < 256) (hpresent : mpAbsent s m = false)
    (htenant : tenantDefined s n = true) (hfree : mpTaken s m = false) (hleft : s.tar.nextId ≤ 0xFFFFFFFE)
    (hblock : s.tar.nextId + 1 < s.tar.blockEnd) :
    ∃ t, exec (.sessionOpen d m n f st) s = .next t ∧
      Told (withCut s (sessionAsked s.tar { mp := m, tenant := n, start := Stamp.cycle (stampOr s st), nonPerishable := bit f 0 })
        (stampOr s st)) t ∧ answered s t d stOk 0 (le 4 s.tar.nextId ++ le 7 (stampOr s st)) := by
  have htake := take_kept s d
  have hpass : firstFail ([by0 d, (decide (m < 256), stBadArg), (!mpAbsent (take s d) m, stMpAbsent),
      (tenantDefined (take s d) n, stTenantUnknown), (!mpTaken (take s d) m, stMpBound),
      (decide ((take s d).tar.nextId ≤ 0xFFFFFFFE), stSessionExhausted)] ++ cutChecks (take s d) st 0) = none := by
    rw [firstFail_append_pass _ ?_]
    · exact firstFail_cutChecks htake hcheck hroom
    · have hmp : mpTaken (take s d) m = false := by rw [← hfree, mpTaken, sessions, htake.tar]; rfl
      simp [by0, firstFail, hten, hm, mpAbsent_of_kept htake, hpresent, tenantDefined_of_kept htake, htenant, hmp, htake.tar, hleft]
  have hid := takeSessionId_within (s := take s d) (by rw [htake.tar]; exact hleft) (by rw [htake.tar]; exact hblock)
  refine next_hostCmd_cut _ h ((checked_of_pass _ hpass).trans ?_)
  simp only [hid, setSession_eq, stampOr_of_kept htake]
  rw [← htake.tar]
  rfl

theorem exec_sessionClose_asks {id : Nat} {x : Session} (h : canTake s d 0x0502 false = true) (hx : sessionById s id = some x)
    (hopen : x.isOpen = true) :
    ∃ t, exec (.sessionClose d id st) s = .next t ∧
      Told (withCut s (putSession s.tar id (closeAsked x (Stamp.cycle (stampOr s st)))) (stampOr s st)) t ∧
      answered s t d stOk 0 (le 7 (stampOr s st)) := by
  have htake := take_kept s d
  have hx' : sessionById (take s d) id = some x := by rw [← hx, sessionById, sessions, htake.tar]; rfl
  have hpass : firstFail ([by0 d, ((some x).elim false Session.isOpen, stNotFound)] ++ cutChecks (take s d) st 0) = none := by
    rw [firstFail_append_pass (l := [by0 d, ((some x).elim false Session.isOpen, stNotFound)]) _ (firstFail_by0_and _ hten hopen)]
    exact firstFail_cutChecks htake hcheck hroom
  refine next_hostCmd_cut _ h ?_
  simp only [hx']
  refine (checked_of_pass _ hpass).trans ?_
  rw [← stampOr_of_kept htake, ← htake.tar, setSession_eq, closeAsked]
  cases x.closeAt <;> rfl

theorem exec_billEnd_asks {n : Nat} (h : canTake s d 0x0504 false = true) (htenant : tenantDefined s n = true)
    (hapart : ((bill s n).ends.all fun e => decide (e + 1 < Stamp.cycle (stampOr s st) ∨ Stamp.cycle (stampOr s st) + 1 < e)) = true) :
    ∃ t, exec (.billEnd d n st) s = .next t ∧
      Told (withCut s (putBill s.tar n (endAsked (bill s n) (Stamp.cycle (stampOr s st)))) (stampOr s st)) t ∧
      answered s t d stOk 0 (endResult (bill s n) (stampOr s st)) := by
  have htake := take_kept s d
  have hbill : bill (take s d) n = bill s n := by rw [bill, htake.tar, bill]
  have hpass : firstFail ([(d.tenant == 0 || (n == d.tenant && selfEnd (take s d) n), stNotPermitted),
      (tenantDefined (take s d) n, stTenantUnknown)] ++ cutChecks (take s d) st d.tenant ++
      [((bill s n).ends.all fun e => decide (e + 1 < Stamp.cycle (stampOr s st) ∨ Stamp.cycle (stampOr s st) + 1 < e),
        stCueConflict)]) = none := by
    rw [List.append_assoc, firstFail_append_pass _ ?_, firstFail_append_pass _ ?_]
    · simp only [hapart, firstFail, if_true]
    · rw [hten]
      exact firstFail_cutChecks htake hcheck hroom
    · simp [firstFail, hten, tenantDefined_of_kept htake, htenant]
  refine next_hostCmd_cut _ h ?_
  simp only [hbill, stampOr_of_kept htake]
  refine (checked_of_pass _ hpass).trans ?_
  rw [setBill_eq, hten]
  simp only [hbill]
  rw [← htake.tar]
  rfl

end

/-! ### The obligation -/

/-- Settles O36: each command passes its checks, which read nothing that taking it has changed, and creates one cue behind its change of
the tariff engine. -/
theorem sessionsAndPeriodsAreAsked : Obligations.SessionsAndPeriodsAreAsked := by
  intro s d st hten hcheck hroom
  refine ⟨?opens, ?closes, ?ends⟩
  case opens =>
    intro m n f h hm _ hpresent htenant hfree hleft hblock
    exact exec_sessionOpen_asks hten hcheck hroom h hm hpresent htenant hfree hleft hblock
  case closes =>
    intro id x h hx hopen
    exact exec_sessionClose_asks hten hcheck hroom h hx hopen
  case ends =>
    intro n h htenant hapart
    exact exec_billEnd_asks hten hcheck hroom h htenant hapart

end Sys2Proof.Proofs
end

section
/-!
SNAPSHOT_COMPLETE archives the snapshot (R276), and the archive streams it (R496): a stream that has no room left raises
EV_RNG_STAGE_FULL (R499), a fault of HOST, domain 9 (Tables EVT.1, EVT.3).
-/
namespace Sys2Proof.Proofs

open Sys2Proof.Machine Sys2Proof.Laws

/-- The snapshot of tenant 0's first period, ended at boundary 4. -/
def firstSnapshot : Snap := ⟨4, 0, 0, 1, 0, 0, 0, {}, 0⟩

/-- A record of 64 bytes of a custody chain, as a stream takes it. -/
def custodyRecord : StreamRec := ⟨1, 0, 1, 0, 0, zeros 64⟩

/-- A running hub whose tenant 0 has a snapshot to complete and an STR ring for custody records and snapshots that waits for pages, with
the 3,276 records staged that its default QUOTA holds (R498); HOST handles a fault, with sixteen more pending. -/
def stagedFull : State :=
  { tar := { live := { bills := [(0, { pend := [firstSnapshot] })] } }
    rng := { rings := [(2, { typ := .str, state := .active, kinds := 2 ^ 1 + 2 ^ 3, staged := List.replicate 3276 custodyRecord })] }
    ev := { doms := [(9, { state := .handling, stack := [⟨0x7A5, 1, 0, false⟩], queue := List.replicate 16 (0x7A5, 1) })] } }

/-- A step that sets a FAULT_OVERRUN bit has changed the EVT registers. -/
theorem not_kept_of_overrun {s t : State} {k : Nat} (hclear : bit s.reg.overrun k = false) (hset : bit t.reg.overrun k = true) :
    ¬ Kept s t := by
  intro h
  rw [h.reg, hclear] at hset
  exact absurd hset (by decide)

/-- The record of the archived snapshot does not fit the QUOTA; its fault finds the pending queue of HOST full, so the domain escalates
and sets its bit in FAULT_OVERRUN (R400). -/
theorem exec_snapshotComplete_stagedFull :
    ∃ t, exec (.snapshotComplete 0) stagedFull = .next t ∧ bit t.reg.overrun 9 = true :=
  ⟨_, rfl, by decide +kernel⟩

/-- Refutes O37: its clause on snapshots leaves no room for the fault of a stream that cannot take the archived snapshot; with the
pending queue of HOST full the step also escalates that domain. -/
theorem not_tariffCuesRun : ¬ Obligations.TariffCuesRun := by
  intro h
  obtain ⟨-, -, -, hcompletes⟩ := h stagedFull (by decide)
  obtain ⟨t, hexec, hkept⟩ := hcompletes 0 firstSnapshot [] rfl (by decide)
  obtain ⟨u, hexec', hset⟩ := exec_snapshotComplete_stagedFull
  obtain rfl : t = u := by simpa [hexec] using hexec'
  exact not_kept_of_overrun (by decide) hset hkept

end Sys2Proof.Proofs
end

section
/-!
What a taken command finds (R487): taking it touches the rings and the host interface alone, so a meaning works on the hub as it was
before, and its work beside the host stands once the completion is out.
-/
namespace Sys2Proof.Proofs

open Sys2Proof.Machine Sys2Proof.Laws

/-! ### The hub with the host's side of another -/

/-- The hub `s` with the host interface and the rings of `a`. -/
def onHost (s a : State) : State := { s with hif := a.hif, rng := a.rng }

/-- A hub that has taken a command is the hub before with other rings and another host interface. -/
theorem take_eq_onHost (s : State) (d : Desc) : take s d = onHost s (take s d) := sent_frame (take_sent s d)

/-- Work that leaves the host's side alone is told from the same work on a hub that has taken a command. -/
theorem told_onHost {s u : State} (d : Desc) (hhif : u.hif = s.hif) (hrng : u.rng = s.rng) : Told u (onHost u (take s d)) := by
  have htake := take_told s d
  refine ⟨by constructor <;> rfl, ?_, fun k => ?_, fun k i => ?_, rfl, ?_⟩
  · rw [hhif]
    exact htake.hif
  · rw [show func u k = func s k by rw [func, hhif, func]]
    exact htake.fn k
  · rw [show ring u k i = ring s k i by rw [ring, hrng, ring]]
    exact htake.ids k i
  · obtain ⟨l, hl⟩ := htake.out.out
    exact ⟨l, by rw [hhif]; exact hl⟩

/-- A command whose work on the hub is `u`, with one INFO event behind it, and that answers at once. -/
theorem next_hostCmd_tells {s u : State} {d : Desc} {opc st : Nat} {data : Bool} {res : Bytes} {e : EvReq} (act : State → State)
    (h : canTake s d opc data = true) (hact : act (take s d) = reply (raise (onHost u (take s d)) e) d st res)
    (hinfo : severity e.id e.star = 0) (hhif : u.hif = s.hif) (hrng : u.rng = s.rng) (hpwr : u.pwr = s.pwr)
    (hdoms : u.ev.doms = s.ev.doms) :
    ∃ t, (.next (hostCmd s d opc data act) : Out) = .next t ∧ Told u t ∧ answered s t d st 0 res := by
  have hpwr' : u.pwr = (take s d).pwr := hpwr.trans (take_kept s d).pwr.symm
  have hdoms' : u.ev.doms = (take s d).ev.doms := by rw [hdoms, (take_sent s d).ev]
  obtain ⟨t, ht, htold, hanswer⟩ := next_hostCmd_inform_reply act h hact hinfo rfl rfl hpwr' hdoms'
  exact ⟨t, ht, (told_onHost d hhif hrng).trans htold, hanswer⟩

/-! ### Work beside the host -/

/-- `t` differs from `s` neither on the host's side, nor in the tariff engine, nor in the resets and the fault domains. -/
structure Offline (s t : State) : Prop where
  tar : t.tar = s.tar
  slu : t.slu = s.slu
  rng : t.rng = s.rng
  hif : t.hif = s.hif
  pwr : t.pwr = s.pwr
  doms : t.ev.doms = s.ev.doms

theorem Offline.refl (s : State) : Offline s s := ⟨rfl, rfl, rfl, rfl, rfl, rfl⟩

theorem Offline.trans {s t u : State} (h : Offline s t) (g : Offline t u) : Offline s u :=
  ⟨g.tar.trans h.tar, g.slu.trans h.slu, g.rng.trans h.rng, g.hif.trans h.hif, g.pwr.trans h.pwr, g.doms.trans h.doms⟩

theorem Offline.ite {s t u : State} {c : Prop} [Decidable c] (ht : Offline s t) (hu : Offline s u) :
    Offline s (if c then t else u) := by
  split
  · exact ht
  · exact hu

theorem Offline.foldl {α : Type} (f : State → α → State) (hf : ∀ s a, Offline s (f s a)) (l : List α) (s : State) :
    Offline s (l.foldl f s) := by
  induction l generalizing s with
  | nil => exact Offline.refl s
  | cons a l ih => exact (hf s a).trans (ih (f s a))

theorem inform_offline (s : State) (e : EvReq) : Offline s (inform s e) :=
  have hkept := inform_kept s e
  have hio := inform_io s e
  ⟨hkept.tar, hkept.slu, hio.rng, hio.hif, hkept.pwr, record_doms _ _ _ _ _ _⟩

theorem raise_info_offline {s : State} {e : EvReq} (h : severity e.id e.star = 0) : Offline s (raise s e) :=
  raise_of_info h ▸ inform_offline s e

/-- A command whose work, beside the host, ends in `v`, and that answers at once. -/
theorem next_hostCmd_offline {s u v : State} {d : Desc} {opc st : Nat} {data : Bool} {res : Bytes} (act : State → State)
    (h : canTake s d opc data = true) (hact : act (take s d) = reply v d st res) (hwork : Offline u v)
    (hrng : u.rng = (take s d).rng) (hhif : u.hif = (take s d).hif) (hpwr : u.pwr = (take s d).pwr)
    (hdoms : u.ev.doms = (take s d).ev.doms) :
    ∃ t, (.next (hostCmd s d opc data act) : Out) = .next t ∧ Told v t ∧ answered s t d st 0 res :=
  next_hostCmd_reply act h hact (hwork.rng.trans hrng) (hwork.hif.trans hhif) (hwork.pwr.trans hpwr) (hwork.doms.trans hdoms)

/-! ### Tables -/

/-- The second of two writes to one key stands. -/
theorem tput_tput_self {α : Type} (m : Tbl α) (k : Nat) (v w : α) : tput (tput m k v) k w = tput m k w := by
  induction m with
  | nil => simp [tput]
  | cons p m ih =>
    obtain ⟨j, x⟩ := p
    by_cases hlt : k < j
    · simp [tput, hlt]
    · by_cases heq : k = j
      · simp [tput, heq]
      · simp [tput, hlt, heq, ih]

end Sys2Proof.Proofs
end

section
/-!
Credit accounts and the keypad's lockout (R279, R288, R292, R519): a grant, an unlock and the timers of the keypad change one record
each, behind at most one INFO event.
-/
namespace Sys2Proof.Proofs

open Sys2Proof.Machine Sys2Proof.Laws

/-! ### Accounts -/

@[simp] theorem account_setAccount (s : State) (n : Nat) (x : Credit) : account (setAccount s n x) n = x := tget_tput_self _ _ _ _

theorem account_of_crd {s t : State} (h : t.crd = s.crd) (n : Nat) : account t n = account s n := by
  rw [account, h, account]

/-- The later of two accounts written for a tenant stands. -/
theorem setAccount_setAccount (s : State) (n : Nat) (x y : Credit) : setAccount (setAccount s n x) n y = setAccount s n y := by
  simp only [setAccount, tput_tput_self]

/-- What tenant 0 or the tenant itself may ask for, of a tenant that is defined. -/
theorem firstFail_ownTenant {s t : State} {d : Desc} {n : Nat} (r : List (Bool × Nat)) (hkept : Kept s t)
    (hown : d.tenant = 0 ∨ d.tenant = n) (hdefined : tenantDefined s n = true) :
    firstFail ((d.tenant == 0 || n == d.tenant, stNotPermitted) :: (tenantDefined t n, stTenantUnknown) :: r) = firstFail r := by
  rw [tenantDefined_of_kept hkept, hdefined]
  rcases hown with h | h <;> simp [firstFail, h]

/-! ### Emergency credit (R292) -/

/-- An account whose emergency credit has become active. -/
def inEmergency (x : Credit) : Credit := { x with ec := true, ecUsed := true, ecDue := false, state := 2 }

/-- EV_CRD_STATE of a grant, from the state it ends (R291). -/
def grantEvent (n old : Nat) : EvReq := { id := 0x486, data := Config.eventData 0x486 [(n : Nat), (old : Nat), ((2 : Nat) : Int)] }

/-- Emergency credit that nothing refuses finds its tenant EXHAUSTED. -/
theorem state_of_ecRefusal {s : State} {n : Nat} (h : ecRefusal s n = none) : (account s n).state = 3 := by
  simp only [ecRefusal, firstFail] at h
  split_ifs at h with hprepaid hlimit hunused hstate
  simp only [Bool.and_eq_true, beq_iff_eq] at hstate
  exact hstate.1

theorem grantEc_eq {s : State} {n : Nat} (h : ecRefusal s n = none) :
    grantEc s n = raise (setAccount s n (inEmergency (account s n))) (grantEvent n 3) := by
  have hstate := state_of_ecRefusal h
  simp only [grantEc, setCreditState, account_setAccount, setAccount_setAccount, hstate]
  rfl

theorem exec_ecGrant_grants {s : State} {d : Desc} {n : Nat} (h : canTake s d 0x0602 false = true)
    (hown : d.tenant = 0 ∨ d.tenant = n) (hdefined : tenantDefined s n = true) (hgrant : ecRefusal s n = none) :
    ∃ t, exec (.ecGrant d n) s = .next t ∧ Told (setAccount s n (inEmergency (account s n))) t ∧ answered s t d stOk 0 [] := by
  refine next_hostCmd_tells (e := grantEvent n 3) _ h ?_ rfl rfl rfl rfl rfl
  have hrefusal : ecRefusal (take s d) n = none := by rw [take_eq_onHost]; exact hgrant
  simp only [hrefusal]
  refine (checked_of_pass _ (firstFail_ownTenant _ (take_kept s d) hown hdefined)).trans ?_
  rw [grantEc_eq hrefusal, take_eq_onHost]
  rfl

/-! ### CREDIT_READ (R519) -/

@[simp] theorem le_length (n v : Nat) : (le n v).length = n := by
  induction n generalizing v with
  | zero => rfl
  | succ n ih => simp [le, ih]

@[simp] theorem leInt_length (n : Nat) (v : Int) : (leInt n v).length = n := le_length _ _

@[simp] theorem zeros_length (n : Nat) : (zeros n).length = n := List.length_replicate

theorem accountBytes_length (s : State) (n : Nat) : (accountBytes s n).length = 48 := by
  simp [accountBytes]

theorem exec_creditRead_reads {s : State} {d : Desc} {n : Nat} (h : canTake s d 0x0606 true = true)
    (hown : d.tenant = 0 ∨ d.tenant = n) (hdefined : tenantDefined s n = true) (hfits : 48 ≤ d.dlen) :
    ∃ t, exec (.creditRead d n) s = .next t ∧ Told s t ∧ .write d.tenant d.dptr (accountBytes s n) ∈ t.hif.out ∧
      answered s t d stOk 48 [] := by
  have hlen := accountBytes_length s n
  have hbytes : accountBytes (take s d) n = accountBytes s n := by rw [take_eq_onHost]; rfl
  rw [← hlen] at hfits ⊢
  refine next_hostCmd_replyOut _ h hfits
    ((checked_of_pass _ (firstFail_ownTenant _ (take_kept s d) hown hdefined)).trans ?_)
  rw [hbytes]

/-! ### The lockout (R288) -/

/-- The hub whose lockout has ended. -/
def unlocked (s : State) : State := { setLock s 0 s.bkd.ret.bad with crd := { s.crd with lockSaid := false } }

/-- EV_CRD_LOCK at the end of a lockout. -/
def unlockEvent : EvReq := { id := 0x485, data := Config.eventData 0x485 [0] }

theorem unlockKeypad_eq {s : State} (h : s.bkd.ret.lockUntil ≠ 0) : unlockKeypad s = raise (unlocked s) unlockEvent := if_neg h

theorem exec_keypadUnlock_unlocks {s : State} {d : Desc} (h : canTake s d 0x0605 false = true) (hten : d.tenant = 0)
    (hlock : s.bkd.ret.lockUntil ≠ 0) :
    ∃ t, exec (.keypadUnlock d) s = .next t ∧ Told (unlocked s) t ∧ answered s t d stOk 0 [] := by
  refine next_hostCmd_tells (e := unlockEvent) _ h ((checked_of_pass _ (firstFail_by0 hten)).trans ?_) rfl rfl rfl rfl rfl
  rw [unlockKeypad_eq (by rw [(take_kept s d).bkd]; exact hlock), take_eq_onHost]
  rfl

/-- The end of a calm hub's step whose work is one INFO event behind a change `u`. -/
theorem next_whenRunning_tells {s u : State} {e : EvReq} (f : State → State) (hcalm : calm s = true) (hf : f s = raise u e)
    (hinfo : severity e.id e.star = 0) (hwork : Uncut s u) : ∃ t, (.next (whenRunning s f) : Out) = .next t ∧ Told u t := by
  have hnoted := raise_info_noted (s := u) hinfo
  have huncut : Uncut s (f s) := hf ▸ hwork.trans hnoted.beside.uncut
  exact ⟨_, rfl, hnoted.told.trans (hf ▸ whenRunning_told_of_calm f hcalm huncut.inReset huncut.archiveDom)⟩

theorem exec_keypadLockEnd_unlocks {s : State} (hcalm : calm s = true) (hlock : s.bkd.ret.lockUntil ≠ 0)
    (hpast : s.bkd.ret.lockUntil ≤ nowSec s) : ∃ t, exec .keypadLockEnd s = .next t ∧ Told (unlocked s) t :=
  next_whenRunning_tells (e := unlockEvent) _ hcalm ((if_pos ⟨hlock, hpast⟩).trans (unlockKeypad_eq hlock)) rfl ⟨rfl, rfl⟩

theorem exec_keypadBadExpire_forgets {s : State} (hcalm : calm s = true) :
    exec .keypadBadExpire s = .next (setLock s s.bkd.ret.lockUntil (freshBad s)) :=
  next_whenRunning_quiet _ hcalm rfl rfl rfl rfl

/-! ### Keypad entries (R279, R280) -/

theorem annStart_beside (s : State) (c : Nat) : Beside s (annStart s c) := by
  unfold annStart setAnnState
  exact Beside.ite (Beside.ite (Beside.refl s) ((setAnnChan_beside _ _ _).trans (inform_beside _ _))) (Beside.refl s)

/-- A tone sounds beside the accounts and the keypad. -/
theorem keyTone_beside (s : State) (kind : Nat) : Beside s (keyTone s kind) := by
  unfold keyTone
  exact Beside.ite ((setAnnChan_beside _ _ _).trans (annStart_beside _ _)) (Beside.refl s)

/-- An entry that is aborted leaves an empty one behind. -/
theorem keypadAbort_beside (s : State) : Beside (setKeypad s {}) (keypadAbort s) := keyTone_beside _ _

theorem exec_keypadEntryTimeout_ends {s : State} (hcalm : calm s = true) (hphase : s.crd.keypad.phase ≠ 0)
    (hidle : s.crd.keypad.last + secs 30 ≤ s.bkd.tick) :
    ∃ t, exec .keypadEntryTimeout s = .next t ∧ t.crd = { s.crd with keypad := { last := s.bkd.tick } } := by
  have hdue : ¬ (s.crd.keypad.phase = 0 ∨ nowTick s < s.crd.keypad.last + secs 30) := by
    rw [not_or]
    exact ⟨hphase, Nat.not_lt.mpr hidle⟩
  have hdrop : Uncut s (setKeypad s {}) := ⟨rfl, rfl⟩
  have hends : Beside (setKeypad s {}) (if s.crd.keypad.phase = 4 then setKeypad s {} else keypadAbort s) :=
    Beside.ite (Beside.refl _) (keypadAbort_beside s)
  obtain ⟨t, ht, hkept⟩ : ∃ t, exec .keypadEntryTimeout s = .next t ∧
      Kept (if s.crd.keypad.phase = 4 then setKeypad s {} else keypadAbort s) t :=
    next_whenRunning_kept _ hcalm (if_neg hdue) (hdrop.trans hends.uncut)
  exact ⟨t, ht, hkept.crd.trans hends.crd⟩

/-! ### The obligation -/

/-- Settles O40: the commands and the timers change one record each, and what they report is INFO, so the step ends in that change;
the tone of a dropped entry sounds beside it. -/
theorem accountsAndLockouts : Obligations.AccountsAndLockouts := by
  intro s
  refine ⟨?grants, ?reads, ?unlocks, ?lockEnds, fun hcalm => exec_keypadBadExpire_forgets hcalm, ?entryEnds⟩
  case grants =>
    intro d n h hown hdefined hgrant
    exact exec_ecGrant_grants h hown hdefined hgrant
  case reads =>
    intro d n h hown hdefined hfits
    obtain ⟨t, ht, htold, hwritten, hanswer⟩ := exec_creditRead_reads h hown hdefined hfits
    exact ⟨t, ht, htold, hwritten, accountBytes_length s n, hanswer⟩
  case unlocks =>
    intro d h hten hlock
    exact exec_keypadUnlock_unlocks h hten hlock
  case lockEnds =>
    intro hcalm hlock hpast
    exact exec_keypadLockEnd_unlocks hcalm hlock hpast
  case entryEnds =>
    intro hcalm hphase hidle
    exact exec_keypadEntryTimeout_ends hcalm hphase hidle

end Sys2Proof.Proofs
end

section
/-!
Tokens (R279–R289, R519): the check reads the key store and the accounts alone, so what it answers and what it leaves of the account are
the same for a command and for the keypad.
-/
namespace Sys2Proof.Proofs

open Sys2Proof.Machine Sys2Proof.Laws

/-! ### What the check reads (R285–R287) -/

/-- The two hubs have the same keys and the same accounts. -/
structure SameTokens (s t : State) : Prop where
  key : t.key = s.key
  accounts : t.crd.accounts = s.crd.accounts

theorem SameTokens.frame {s t : State} (h : SameTokens s t) :
    t = { t with key := s.key, crd := { t.crd with accounts := s.crd.accounts } } := by
  rw [← h.key, ← h.accounts]

theorem SameTokens.account {s t : State} (h : SameTokens s t) (n : Nat) : account t n = account s n := by
  rw [Machine.account, h.accounts, Machine.account]

theorem SameTokens.tokenKey {s t : State} (h : SameTokens s t) (n : Nat) : tokenKey t n = tokenKey s n := by
  rw [h.frame]
  rfl

/-- The check's answer depends on the keys and the accounts. -/
theorem SameTokens.decodeToken {s t : State} (h : SameTokens s t) (n : Nat) (l : List Nat) : decodeToken t n l = decodeToken s n l := by
  rw [h.frame]
  rfl

/-- Bringing a tenant's window up to its key changes its account and nothing else. -/
theorem refreshWindow_frame (s : State) (n : Nat) :
    refreshWindow s n = { s with crd := { s.crd with accounts := (refreshWindow s n).crd.accounts } } := by
  unfold refreshWindow
  extract_lets x
  split
  · rfl
  · split <;> rfl

theorem SameTokens.refreshWindow {s t : State} (h : SameTokens s t) (n : Nat) :
    SameTokens (refreshWindow s n) (refreshWindow t n) := by
  refine ⟨by rw [refreshWindow_frame t, refreshWindow_frame s]; exact h.key, ?_⟩
  simp only [Machine.refreshWindow, h.tokenKey, h.account]
  split
  · exact h.accounts
  · split
    · exact h.accounts
    · simp only [setAccount, h.accounts]

/-! ### What the check leaves (R286, R287) -/

/-- An account that has taken the ID of a token and what is due for it. -/
def credited (x : Credit) (p : Nat) : Credit :=
  { idTake x (tokId p) with due := x.due + (tokCredit p : Nat), ecDue := x.ecDue || tokClass p == 1 }

/-- The hub once a check has answered `r`: only an accepted token touches the account. -/
def tokenTaken (s : State) (n : Nat) (r : Nat × Option Nat) : State :=
  if r.1 = 0 then setAccount s n (credited (account s n) (r.2.getD 0)) else s

/-- What a deciphered token answers, by its MAC, its tenant, its class and its ID (R285). -/
def tokenVerdict (x : Credit) (n mac p : Nat) : Nat × Option Nat :=
  if p % 16384 ≠ mac then (stTokenMac, none)
  else if tokTenant p ≠ n then (stTokenTenant, some p)
  else if tokReserved p then (stTokenClass, some p)
  else ((idCheck x (tokId p)).getD 0, some p)

theorem decodeToken_of_size {s : State} {l : List Nat} (n : Nat) (h : 2 ^ 66 ≤ digitsVal l) :
    decodeToken s n l = (stTokenFormat, none) := by
  unfold decodeToken
  exact if_pos h

theorem decodeToken_of_no_key {s : State} {n : Nat} {l : List Nat} (hsize : ¬ 2 ^ 66 ≤ digitsVal l) (hkey : tokenKey s n = none) :
    decodeToken s n l = (stNoTokenKey, none) := by
  unfold decodeToken
  simp only [hkey]
  exact if_neg hsize

/-- Digits of at most 66 bits are deciphered with the tenant's token key. -/
theorem decodeToken_of_key {s : State} {n : Nat} {l : List Nat} {k : Nat × Nat} (hsize : ¬ 2 ^ 66 ≤ digitsVal l)
    (hkey : tokenKey s n = some k) : decodeToken s n l =
      tokenVerdict (account s n) n (tokenMac (material s k.1) (tokenPlain (material s k.1) (digitsVal l)))
        (tokenPlain (material s k.1) (digitsVal l)) := by
  unfold decodeToken
  simp only [hkey]
  exact if_neg hsize

theorem tokenVerdict_accepts {x : Credit} {n mac p : Nat} (h : (tokenVerdict x n mac p).1 = 0) :
    tokenVerdict x n mac p = (0, some p) := by
  unfold tokenVerdict at h ⊢
  split_ifs at h ⊢
  · cases h
  · cases h
  · cases h
  · exact Prod.ext h rfl

/-- A token that the check accepts has been deciphered. -/
theorem decodeToken_accepts {s : State} {n : Nat} {l : List Nat} (h : (decodeToken s n l).1 = 0) :
    ∃ p, decodeToken s n l = (0, some p) := by
  by_cases hsize : 2 ^ 66 ≤ digitsVal l
  · rw [decodeToken_of_size n hsize] at h
    cases h
  · cases hkey : tokenKey s n with
    | none =>
      rw [decodeToken_of_no_key hsize hkey] at h
      cases h
    | some k =>
      rw [decodeToken_of_key hsize hkey] at h ⊢
      exact ⟨_, tokenVerdict_accepts h⟩

/-- What a check leaves of the account when it is given its answer. -/
theorem runToken_eq {s : State} {n : Nat} {l : List Nat} (hwritable : s.cis.readOnly.contains 2 = false) :
    runToken s n l = (decodeToken (refreshWindow s n) n l, tokenTaken (refreshWindow s n) n (decodeToken (refreshWindow s n) n l)) := by
  have hopen : (refreshWindow s n).cis.readOnly.contains 2 = false := by rw [refreshWindow_frame]; exact hwritable
  unfold runToken
  by_cases haccept : (decodeToken (refreshWindow s n) n l).1 = 0
  · obtain ⟨p, hp⟩ := decodeToken_accepts haccept
    simp only [tokenTaken, hp, hopen]
    rfl
  · rw [tokenTaken, if_neg haccept]
    dsimp only
    split
    case h_1 p hp => exact absurd (congrArg Prod.fst hp) haccept
    case h_2 => rfl

theorem account_tokenTaken (s : State) (n : Nat) (r : Nat × Option Nat) :
    account (tokenTaken s n r) n = if r.1 = 0 then credited (account s n) (r.2.getD 0) else account s n := by
  unfold tokenTaken
  split
  · exact account_setAccount _ _ _
  · rfl

theorem tokenTaken_frame (s : State) (n : Nat) (r : Nat × Option Nat) :
    tokenTaken s n r = { s with crd := { s.crd with accounts := (tokenTaken s n r).crd.accounts } } := by
  unfold tokenTaken
  split <;> rfl

/-- What a check of a token leaves differs from the hub before by the accounts alone. -/
theorem tokenTaken_refreshWindow_frame (s : State) (n : Nat) (r : Nat × Option Nat) :
    tokenTaken (refreshWindow s n) n r =
      { s with crd := { s.crd with accounts := (tokenTaken (refreshWindow s n) n r).crd.accounts } } := by
  rw [tokenTaken_frame, refreshWindow_frame]

/-! ### TOKEN_SUBMIT (R289, R519) -/

/-- Twenty ASCII digits. -/
def digitsOk (b : Bytes) : Bool := b.length == 20 && b.all fun c => decide (48 ≤ c.toNat ∧ c.toNat ≤ 57)

/-- The digits that ASCII bytes spell. -/
def digitsOf (b : Bytes) : List Nat := b.map fun c => c.toNat - 48

/-- What a submission's check answers, and the hub it leaves. -/
def submitCheck (s : State) (n : Nat) (b : Bytes) : (Nat × Option Nat) × State :=
  if digitsOk b then runToken s n (digitsOf b) else ((stTokenFormat, none), s)

/-- RESULT of an accepted token. -/
def tokenResult (p : Nat) : Bytes := le 2 (tokId p) ++ le 1 (tokClass p) ++ le 1 (tokSub p) ++ zeros 4 ++ le 8 (tokCredit p)

/-- The hub that has noted a submission and what it answered: a rejection counts against the function. -/
def submitNoted (d : Desc) (c : (Nat × Option Nat) × State) : State :=
  tokenEvent (if c.1.1 = 0 then c.2 else funcReject c.2 d.tenant) 0 0xFFFF (c.1.2.map tokId) c.1.1

theorem tokenEvent_noted (s : State) (n m : Nat) (id : Option Nat) (st : Nat) : Noted s (tokenEvent s n m id st) :=
  raise_info_noted rfl

theorem funcReject_frame (s : State) (f : Nat) :
    ∃ x, funcReject s f = { s with crd := x } ∧ x.accounts = s.crd.accounts := by
  unfold funcReject
  extract_lets l
  split <;> exact ⟨_, rfl, rfl⟩

/-- Noting a submission leaves the account as the check left it, and works beside the host. -/
theorem submitNoted_spec (d : Desc) (c : (Nat × Option Nat) × State) :
    Offline c.2 (submitNoted d c) ∧ ∀ n, account (submitNoted d c) n = account c.2 n := by
  unfold submitNoted
  obtain ⟨x, hx, haccounts⟩ := funcReject_frame c.2 d.tenant
  have hcount : Offline c.2 (if c.1.1 = 0 then c.2 else funcReject c.2 d.tenant) :=
    Offline.ite (Offline.refl _) (hx ▸ ⟨rfl, rfl, rfl, rfl, rfl, rfl⟩)
  have hsame : ∀ n, account (if c.1.1 = 0 then c.2 else funcReject c.2 d.tenant) n = account c.2 n := by
    intro n
    split
    · rfl
    · rw [hx, account, haccounts, account]
  refine ⟨hcount.trans (raise_info_offline rfl), fun n => ?_⟩
  rw [account_of_crd (tokenEvent_noted _ _ _ _ _).told.kept.crd, hsame]

section
variable {s : State} {d : Desc} {n : Nat} {b : Bytes} (h : canTake s d 0x0601 false = true)
  (hown : d.tenant = 0 ∨ d.tenant = n) (hdefined : tenantDefined s n = true) (hprepaid : prepaid s n = true)
  (hfree : tget 0 s.crd.funcLock d.tenant ≤ s.bkd.tick)
include h hown hdefined hprepaid hfree

/-- A permitted submission ends as its check left the hub, with the status of the check. -/
theorem exec_tokenSubmit_answers {st : Nat} {res : Bytes} {c : (Nat × Option Nat) × State}
    (hcheck : submitCheck (take s d) n b = c) (hwork : Offline (take s d) c.2)
    (hanswer : (∃ p, c.1 = (0, some p) ∧ st = stOk ∧ res = tokenResult p) ∨ (c.1.1 ≠ 0 ∧ st = c.1.1 ∧ res = [])) :
    ∃ t, exec (.tokenSubmit d n b) s = .next t ∧ account t n = account c.2 n ∧ answered s t d st 0 res := by
  obtain ⟨hnoted, haccount⟩ := submitNoted_spec d c
  have htake := take_kept s d
  have hpass : firstFail [(d.tenant == 0 || n == d.tenant, stNotPermitted), (tenantDefined (take s d) n, stTenantUnknown),
      (prepaid (take s d) n, stNotPrepaid), (decide (tget 0 (take s d).crd.funcLock d.tenant ≤ nowTick (take s d)), stTokenLocked)]
      = none := by
    have hprepaid' : prepaid (take s d) n = true := by rw [take_eq_onHost]; exact hprepaid
    rw [firstFail_ownTenant _ htake hown hdefined, htake.crd, nowTick, htake.bkd, hprepaid']
    simp [firstFail, hfree]
  obtain ⟨t, ht, htold, hdone⟩ : ∃ t, exec (.tokenSubmit d n b) s = .next t ∧ Told (submitNoted d c) t ∧ answered s t d st 0 res := by
    refine next_hostCmd_offline _ h ((checked_of_pass _ hpass).trans ?_) (hwork.trans hnoted) rfl rfl rfl rfl
    change (match (submitCheck (take s d) n b).1 with
      | (0, some p) => reply (submitNoted d (submitCheck (take s d) n b)) d stOk (tokenResult p)
      | _ => reply (submitNoted d (submitCheck (take s d) n b)) d (submitCheck (take s d) n b).1.1 []) = _
    rw [hcheck]
    rcases hanswer with ⟨p, hp, rfl, rfl⟩ | ⟨hst, rfl, rfl⟩
    · rw [hp]
      rfl
    · split
      case h_1 p hp => exact absurd (congrArg Prod.fst hp) hst
      case h_2 => rfl
  exact ⟨t, ht, (account_of_crd htold.kept.crd n).trans (haccount n), hdone⟩

/-- Anything but 20 digits answers ST_TOKEN_FORMAT. -/
theorem exec_tokenSubmit_malformed (hbad : digitsOk b = false) :
    ∃ t, exec (.tokenSubmit d n b) s = .next t ∧ account t n = account s n ∧ answered s t d stTokenFormat 0 [] := by
  have hcheck : submitCheck (take s d) n b = ((stTokenFormat, none), take s d) := if_neg (by simp [hbad])
  obtain ⟨t, ht, haccount, hanswer⟩ := exec_tokenSubmit_answers h hown hdefined hprepaid hfree hcheck (Offline.refl _)
    (.inr ⟨(by decide : stTokenFormat ≠ 0), rfl, rfl⟩)
  exact ⟨t, ht, haccount.trans (account_of_crd (take_kept s d).crd n), hanswer⟩

/-- Twenty digits answer the status of the check, and the account is as the check leaves it. -/
theorem exec_tokenSubmit_checks {r : Nat × Option Nat} (hwritable : s.cis.readOnly.contains 2 = false) (hgood : digitsOk b = true)
    (hr : r = decodeToken (refreshWindow s n) n (digitsOf b)) :
    ∃ t, exec (.tokenSubmit d n b) s = .next t ∧ account t n = account (tokenTaken (refreshWindow s n) n r) n ∧
      if r.1 = 0 then answered s t d stOk 0 (tokenResult (r.2.getD 0)) else answered s t d r.1 0 [] := by
  have hsame : SameTokens s (take s d) := ⟨(take_kept s d).key, by rw [(take_kept s d).crd]⟩
  have hcheck : submitCheck (take s d) n b = (r, tokenTaken (refreshWindow (take s d) n) n r) := by
    have hopen : (take s d).cis.readOnly.contains 2 = false := by rw [(take_sent s d).cis]; exact hwritable
    rw [submitCheck, if_pos hgood, runToken_eq hopen, (hsame.refreshWindow n).decodeToken, ← hr]
  have hwork : Offline (take s d) (tokenTaken (refreshWindow (take s d) n) n r) := by
    rw [tokenTaken_refreshWindow_frame]
    exact ⟨rfl, rfl, rfl, rfl, rfl, rfl⟩
  have htaken : account (tokenTaken (refreshWindow (take s d) n) n r) n = account (tokenTaken (refreshWindow s n) n r) n := by
    rw [account_tokenTaken, account_tokenTaken, (hsame.refreshWindow n).account]
  by_cases haccept : r.1 = 0
  · obtain ⟨p, hp⟩ := decodeToken_accepts (hr ▸ haccept)
    obtain ⟨t, ht, haccount, hanswer⟩ 
      := exec_tokenSubmit_answers h hown hdefined hprepaid hfree hcheck hwork (.inl ⟨p, hr.trans hp, rfl, rfl⟩)
    refine ⟨t, ht, haccount.trans htaken, ?_⟩
    rw [if_pos haccept, hr.trans hp]
    exact hanswer
  · obtain ⟨t, ht, haccount, hanswer⟩ 
      := exec_tokenSubmit_answers h hown hdefined hprepaid hfree hcheck hwork (.inr ⟨haccept, rfl, rfl⟩)
    exact ⟨t, ht, haccount.trans htaken, by rw [if_neg haccept]; exact hanswer⟩

end

end Sys2Proof.Proofs
end

section
/-!
The keypad (R278, R279, R288, R292): a key changes the entry alone until # ends it; then the check of a token or a grant of emergency
credit changes one account, and the tone, the count of rejections and the events work beside the entry.
-/
namespace Sys2Proof.Proofs

open Sys2Proof.Machine Sys2Proof.Laws

/-! ### Keys (R279) -/

theorem startLock_of_not_due {s : State} (h : s.crd.lockDue = false) : startLock s = s := if_pos (by simp [h])

section
variable {s : State} (hcalm : calm s = true) (hdue : s.crd.lockDue = false)
include hcalm hdue

theorem exec_keypadKey_star : exec (.keypadKey 14) s = .next (setKeypad s {}) := by
  refine next_whenRunning_quiet _ hcalm ?_ rfl rfl rfl
  rw [startLock_of_not_due hdue]
  exact if_pos rfl

/-- A and B begin an entry where none is under way. -/
theorem exec_keypadKey_begins {key ph : Nat} (hidle : s.crd.keypad.phase = 0 ∨ s.crd.keypad.phase = 4)
    (hkey : key = 10 ∧ ph = 1 ∨ key = 11 ∧ ph = 3) : exec (.keypadKey key) s = .next (setKeypad s { phase := ph }) := by
  refine next_whenRunning_quiet _ hcalm ?_ rfl rfl rfl
  rw [startLock_of_not_due hdue]
  rcases hkey with ⟨rfl, rfl⟩ | ⟨rfl, rfl⟩ <;> exact (if_neg (by decide)).trans (if_pos hidle)

/-- A digit is taken while the entry has room for it. -/
theorem exec_keypadKey_digit {key : Nat} {k : Keypad} (hkey : key < 10)
    (hk : s.crd.keypad.phase = 2 ∧ s.crd.keypad.digits.length < 20 ∧ k = { s.crd.keypad with digits := s.crd.keypad.digits ++ [key] } ∨
      (s.crd.keypad.phase = 1 ∨ s.crd.keypad.phase = 3) ∧ s.crd.keypad.mp.length < 3 ∧
        k = { s.crd.keypad with mp := s.crd.keypad.mp ++ [key] }) :
    exec (.keypadKey key) s = .next (setKeypad s k) := by
  refine next_whenRunning_quiet _ hcalm ?_ rfl rfl rfl
  rw [startLock_of_not_due hdue]
  have hstar : key ≠ 14 := by omega
  have hbusy : ¬ (s.crd.keypad.phase = 0 ∨ s.crd.keypad.phase = 4) := by omega
  simp only [hstar, hbusy, hkey, if_true, if_false]
  rcases hk with ⟨hphase, hroom, rfl⟩ | ⟨hphase, hroom, rfl⟩
  · simp only [hphase, hroom, if_true]
  · have hmp : s.crd.keypad.phase ≠ 2 := by omega
    simp only [hmp, hroom, if_true, if_false]

end

/-- The work of # on an entry that is under way. -/
def hashWork (s : State) : State :=
  match s.crd.keypad.phase with
  | 1 => keypadMp s s.crd.keypad fun a _ => setKeypad a { s.crd.keypad with phase := 2 }
  | 2 => if s.crd.keypad.digits.length = 20 then keypadToken s s.crd.keypad else keypadAbort s
  | _ => keypadMp s s.crd.keypad fun a m => keypadEc a m

/-- The step of a meaning is that of any other with the same work. -/
theorem whenRunning_congr {s : State} {f g : State → State} (h : f s = g s) : whenRunning s f = whenRunning s g := by
  rw [whenRunning, h, whenRunning]

theorem exec_keypadKey_hash {s : State} (hdue : s.crd.lockDue = false)
    (hbusy : ¬ (s.crd.keypad.phase = 0 ∨ s.crd.keypad.phase = 4)) : exec (.keypadKey 15) s = .next (whenRunning s hashWork) := by
  refine congrArg Host.Outcome.next (whenRunning_congr ?_)
  rw [startLock_of_not_due hdue]
  exact (if_neg (by decide)).trans (if_neg hbusy)

/-! ### # after an entry's MP (R279) -/

/-- The number of an MP that is present is accepted. -/
theorem keypadMp_of_present {s : State} {k : Keypad} (next : State → Nat → State) (hmp : k.mp ≠ []) (hrange : digitsVal k.mp ≤ 255)
    (hpresent : mpAbsent s (digitsVal k.mp) = false) : keypadMp s k next = next s (digitsVal k.mp) := by
  have hfound : ¬ (255 < digitsVal k.mp ∨ mpAbsent s (digitsVal k.mp) = true) := by
    rw [hpresent]
    simpa using hrange
  simp only [keypadMp, List.isEmpty_iff, hmp, hfound, if_false, ite_self]

/-- # after A and the number of a present MP opens the token digits. -/
theorem exec_keypadKey_opens {s : State} (hcalm : calm s = true) (hdue : s.crd.lockDue = false) (hmp : s.crd.keypad.mp ≠ [])
    (hrange : digitsVal s.crd.keypad.mp ≤ 255) (hpresent : mpAbsent s (digitsVal s.crd.keypad.mp) = false)
    (hphase : s.crd.keypad.phase = 1) : exec (.keypadKey 15) s = .next (setKeypad s { s.crd.keypad with phase := 2 }) := by
  have hwork : hashWork s = setKeypad s { s.crd.keypad with phase := 2 } := by
    simp only [hashWork, hphase, keypadMp_of_present _ hmp hrange hpresent]
  rw [exec_keypadKey_hash hdue (by omega)]
  exact next_whenRunning_quiet hashWork hcalm hwork rfl rfl rfl

/-- `t` differs from `s` neither in the entry nor in the accounts, and the step can end in it. -/
structure EntryKept (s t : State) : Prop where
  uncut : Uncut s t
  keypad : t.crd.keypad = s.crd.keypad
  accounts : t.crd.accounts = s.crd.accounts

theorem EntryKept.refl (s : State) : EntryKept s s := ⟨Uncut.refl s, rfl, rfl⟩

theorem EntryKept.trans {s t u : State} (h : EntryKept s t) (g : EntryKept t u) : EntryKept s u :=
  ⟨h.uncut.trans g.uncut, g.keypad.trans h.keypad, g.accounts.trans h.accounts⟩

theorem EntryKept.ite {s t u : State} {c : Prop} [Decidable c] (ht : EntryKept s t) (hu : EntryKept s u) :
    EntryKept s (if c then t else u) := by
  split
  · exact ht
  · exact hu

theorem Beside.entryKept {s t : State} (h : Beside s t) : EntryKept s t := ⟨h.uncut, by rw [h.crd], by rw [h.crd]⟩

/-- A rejected token is counted, or the lockout falls due (R288). -/
theorem keypadBad_entryKept (s : State) : EntryKept s (keypadBad s) := by
  unfold keypadBad
  extract_lets bad
  split <;> exact ⟨⟨rfl, rfl⟩, rfl, rfl⟩

/-! ### A complete token entry (R279, R280, R288) -/

/-- The hub that has sounded, counted and reported what a check has answered. -/
def keypadNoted (s : State) (n m : Nat) (r : Nat × Option Nat) : State :=
  let s1 := keyTone s (if r.1 = 0 then 0 else 1)
  tokenEvent (if r.1 = 0 ∨ r.1 = stNotPrepaid then s1 else keypadBad s1) n m (r.2.map tokId) r.1

theorem keypadNoted_entryKept (s : State) (n m : Nat) (r : Nat × Option Nat) : EntryKept s (keypadNoted s n m r) := by
  unfold keypadNoted
  extract_lets s1
  have htone : EntryKept s s1 := (keyTone_beside s _).entryKept
  exact (htone.trans (EntryKept.ite (EntryKept.refl s1) (keypadBad_entryKept s1))).trans
    (tokenEvent_noted _ _ _ _ _).beside.entryKept

theorem keypadToken_eq {s : State} {k : Keypad} {n : Nat} {r : Nat × Option Nat} (hopen : keypadLocked s = false)
    (hwritable : s.cis.readOnly.contains 2 = false) (hprepaid : prepaid s n = true) (htenant : mpTenant s (digitsVal k.mp) = n)
    (hr : r = decodeToken (refreshWindow s n) n k.digits) : keypadToken s k =
      keypadNoted (tokenTaken (refreshWindow (setKeypad s {}) n) n r) n (digitsVal k.mp) r := by
  have hsame : SameTokens s (setKeypad s {}) := ⟨rfl, rfl⟩
  have hrun : runToken (setKeypad s {}) n k.digits = (r, tokenTaken (refreshWindow (setKeypad s {}) n) n r) := by
    rw [runToken_eq (s := setKeypad s {}) hwritable, (hsame.refreshWindow n).decodeToken, ← hr]
  have hopen' : ¬ keypadLocked (setKeypad s {}) = true := by
    rw [show keypadLocked (setKeypad s {}) = false from hopen]
    exact Bool.false_ne_true
  have htenant' : keyTenant (setKeypad s {}) (digitsVal k.mp) = n := htenant
  have hprepaid' : prepaid (setKeypad s {}) n = true := hprepaid
  unfold keypadToken
  simp only [hopen', htenant', hprepaid', hrun, if_true]
  rfl

section
variable {s : State} {n : Nat} (hcalm : calm s = true) (hdue : s.crd.lockDue = false) (hopen : keypadLocked s = false)
  (htenant : mpTenant s (digitsVal s.crd.keypad.mp) = n)
include hcalm hdue hopen htenant

/-- # after 20 digits runs the check for the tenant of the MP. -/
theorem exec_keypadKey_checks {r : Nat × Option Nat} (hwritable : s.cis.readOnly.contains 2 = false) (hprepaid : prepaid s n = true)
    (hphase : s.crd.keypad.phase = 2) (hdigits : s.crd.keypad.digits.length = 20)
    (hr : r = decodeToken (refreshWindow s n) n s.crd.keypad.digits) :
    ∃ t, exec (.keypadKey 15) s = .next t ∧ t.crd.keypad = { last := s.bkd.tick } ∧
      account t n = if r.1 = 0 then credited (account (refreshWindow s n) n) (r.2.getD 0) else account (refreshWindow s n) n := by
  have hsame : SameTokens s (setKeypad s {}) := ⟨rfl, rfl⟩
  have hnoted := keypadNoted_entryKept (tokenTaken (refreshWindow (setKeypad s {}) n) n r) n (digitsVal s.crd.keypad.mp) r
  have hframe := tokenTaken_refreshWindow_frame (setKeypad s {}) n r
  have htaken : Uncut s (tokenTaken (refreshWindow (setKeypad s {}) n) n r) := by
    rw [hframe]
    exact ⟨rfl, rfl⟩
  have hwork : hashWork s = keypadToken s s.crd.keypad := by
    simp only [hashWork, hphase, hdigits, if_true]
  rw [exec_keypadKey_hash hdue (by omega)]
  obtain ⟨t, ht, hkept⟩ := next_whenRunning_kept hashWork hcalm
    (hwork.trans (keypadToken_eq hopen hwritable hprepaid htenant hr)) (htaken.trans hnoted.uncut)
  refine ⟨t, ht, ?_, ?_⟩
  · rw [hkept.crd, hnoted.keypad, hframe]
    rfl
  · rw [account_of_crd hkept.crd, account, hnoted.accounts, ← account, account_tokenTaken, (hsame.refreshWindow n).account]

/-- # after B and the MP of a tenant that may have it makes emergency credit active (R292). -/
theorem exec_keypadKey_grants (hmp : s.crd.keypad.mp ≠ []) (hrange : digitsVal s.crd.keypad.mp ≤ 255)
    (hpresent : mpAbsent s (digitsVal s.crd.keypad.mp) = false) (hphase : s.crd.keypad.phase = 3) (hgrant : ecRefusal s n = none) :
    ∃ t, exec (.keypadKey 15) s = .next t ∧ t.crd.keypad = { last := s.bkd.tick } ∧ account t n = inEmergency (account s n) := by
  have hgrant' : ecRefusal (setKeypad s {}) n = none := hgrant
  have hopen' : ¬ keypadLocked (setKeypad s {}) = true := by
    rw [show keypadLocked (setKeypad s {}) = false from hopen]
    exact Bool.false_ne_true
  have htenant' : keyTenant (setKeypad s {}) (digitsVal s.crd.keypad.mp) = n := htenant
  have hwork : hashWork s = keyTone (grantEc (setKeypad s {}) n) 0 := by
    simp only [hashWork, hphase, keypadMp_of_present _ hmp hrange hpresent, keypadEc, hopen', htenant', hgrant', Option.isNone_none,
      if_true]
    rfl
  have hsounds : EntryKept (setAccount (setKeypad s {}) n (inEmergency (account s n))) (keyTone (grantEc (setKeypad s {}) n) 0) := by
    rw [grantEc_eq hgrant']
    exact (raise_info_noted rfl).beside.entryKept.trans (keyTone_beside _ 0).entryKept
  have hchange : Uncut s (setAccount (setKeypad s {}) n (inEmergency (account s n))) := ⟨rfl, rfl⟩
  rw [exec_keypadKey_hash hdue (by omega)]
  obtain ⟨t, ht, hkept⟩ := next_whenRunning_kept hashWork hcalm hwork (hchange.trans hsounds.uncut)
  refine ⟨t, ht, ?_, ?_⟩
  · rw [hkept.crd, hsounds.keypad]
    rfl
  · rw [account_of_crd hkept.crd, account, hsounds.accounts, ← account, account_setAccount]

end

/-! ### The obligation -/

/-- Settles O39: a submission and the keypad run one check, whose answer and whose account depend on the keys and the accounts alone; what
follows it works beside the account, and every other key changes the entry alone. -/
theorem tokensAreChecked : Obligations.TokensAreChecked := by
  intro s n hwritable hprepaid
  refine ⟨?submits, fun hcalm hdue => ⟨exec_keypadKey_star hcalm hdue, ?begins, ?mpDigits, ?tokenDigits, ?hash⟩⟩
  case submits =>
    intro d b h hown hdefined hfree
    by_cases hgood : b.length = 20 ∧ (b.all fun c => decide (48 ≤ c.toNat ∧ c.toNat ≤ 57)) = true
    · rw [if_pos hgood]
      have hok : digitsOk b = true := by
        obtain ⟨hlen, hall⟩ := hgood
        rw [digitsOk, hlen, hall]
        rfl
      intro r x
      obtain ⟨t, ht, haccount, hanswer⟩ := exec_tokenSubmit_checks h hown hdefined hprepaid hfree hwritable hok (r := r) rfl
      rw [account_tokenTaken] at haccount
      refine ⟨t, ht, ?_⟩
      split
      case isTrue haccept => exact ⟨by rw [haccount, if_pos haccept]; rfl, by rw [if_pos haccept] at hanswer; exact hanswer⟩
      case isFalse haccept => exact ⟨by rw [haccount, if_neg haccept], by rw [if_neg haccept] at hanswer; exact hanswer⟩
    · rw [if_neg hgood]
      refine exec_tokenSubmit_malformed h hown hdefined hprepaid hfree (Bool.eq_false_iff.mpr fun hok => hgood ?_)
      rw [digitsOk, Bool.and_eq_true, beq_iff_eq] at hok
      exact hok
  case begins =>
    intro hidle
    exact ⟨exec_keypadKey_begins hcalm hdue hidle (.inl ⟨rfl, rfl⟩), exec_keypadKey_begins hcalm hdue hidle (.inr ⟨rfl, rfl⟩)⟩
  case mpDigits =>
    intro key hkey hphase hroom
    exact exec_keypadKey_digit hcalm hdue hkey (.inr ⟨hphase, hroom, rfl⟩)
  case tokenDigits =>
    intro key hkey hphase hroom
    exact exec_keypadKey_digit hcalm hdue hkey (.inl ⟨hphase, hroom, rfl⟩)
  case hash =>
    intro hopen hmp hrange hpresent htenant
    refine ⟨exec_keypadKey_opens hcalm hdue hmp hrange hpresent, ?checks,
      exec_keypadKey_grants hcalm hdue hopen htenant hmp hrange hpresent⟩
    intro hphase hdigits r x
    exact exec_keypadKey_checks hcalm hdue hopen htenant hwritable hprepaid hphase hdigits rfl

end Sys2Proof.Proofs
end

section
/-!
Switching by command (R294–R298, R519, R520): placing a switching reads the clock, the ring, the objects and the relays alone, so a taken
command places what the hub would have placed before, and withdrawing one works beside the host and the tariff engine.
-/
namespace Sys2Proof.Proofs

open Sys2Proof.Machine Sys2Proof.Laws

/-! ### Placing a switching (R54, R115, R298) -/

/-- What placing a switching gives: the hub with its cue and its arm's reserved lane, the cue, and the stamp. -/
def switched (s : State) (m cmd : Nat) (sw : Stamp) (cause : Nat) : State × Nat × Stamp :=
  let c := createCue s cueRelay sw 0 (relayArg m cmd)
  let act := (armPlace s (coilStamp s m cmd sw)).1
  let a : Arm := { id := c.1.ply.armSeq, head := m / 4, send := act - armLead s, act := act,
                   offset := (armPlace s (coilStamp s m cmd sw)).2, mp := m, cmd := cmd, cue := c.2, cause := cause,
                   coil := coilStamp s m cmd sw, delay := operateDelay s m cmd, state := .reserved, cancel := 0, cancelFrame := 0 }
  ({ c.1 with ply := { c.1.ply with arms := c.1.ply.arms ++ [a], armSeq := c.1.ply.armSeq + 1 } }, c.2, sw)

/-- The arm of a switching at a stamp finds a lane. -/
def laneFree (s : State) (m cmd : Nat) (sw : Stamp) : Bool :=
  armFits s s.ply.arms ((armPlace s (coilStamp s m cmd sw)).1 - armLead s)

/-- One stamp is tried: what stands in its way, the next stamp, or the switching. The arm's frame is left opaque, which keeps its
arithmetic out of the comparison with the recursion's body. -/
theorem placeSwitch_succ (n : Nat) (s : State) (m cmd : Nat) (sw : Stamp) (cause : Nat) (search : Bool) :
    placeSwitch (n + 1) s m cmd sw cause search =
      if relayConflict s m sw then .error stCueConflict
      else if !laneFree s m cmd sw then
        if search then placeSwitch n s m cmd (sw + angleBits) cause search else .error stCueConflict
      else (cueRoom s 0).elim (.ok (switched s m cmd sw cause)) .error := by
  unfold laneFree switched
  obtain ⟨rec, hrec⟩ : ∃ f, placeSwitch = f := ⟨_, rfl⟩
  obtain ⟨place, hplace⟩ : ∃ f, f = armPlace := ⟨_, rfl⟩
  rw [hrec, ← hplace]
  delta placeSwitch placeSwitch._f at hrec
  rw [← hplace] at hrec
  clear hplace
  subst hrec
  show (if relayConflict s m sw = true then Except.error stCueConflict
    else if (!armFits s s.ply.arms ((place s (coilStamp s m cmd sw)).1 - armLead s)) = true then _ else _) = _
  cases cueRoom s 0 with
  | none => rfl
  | some st => rfl

/-- Cues of tenant 0 are refused by a full table alone. -/
theorem cueRoom_zero (s : State) : cueRoom s 0 = if (pickCue s 0).isNone then some stCueFull else none :=
  if_neg fun hne => hne.1 rfl

/-- Room for a cue means a free ID. -/
theorem pickCue_of_room {s : State} (h : cueRoom s 0 = none) : ∃ i, pickCue s 0 = some i := by
  cases hpick : pickCue s 0 with
  | some i => exact ⟨i, rfl⟩
  | none =>
    rw [cueRoom_zero, hpick] at h
    cases h

/-- A switching that was placed stands at one stamp, for which there was room. -/
theorem placeSwitch_placed {n : Nat} {s u : State} {m cmd cause i : Nat} {st sw : Stamp} {search : Bool}
    (h : placeSwitch n s m cmd st cause search = .ok (u, i, sw)) :
    switched s m cmd sw cause = (u, i, sw) ∧ cueRoom s 0 = none := by
  induction n generalizing st with
  | zero => cases h
  | succ n ih =>
    rw [placeSwitch_succ] at h
    by_cases hconflict : relayConflict s m st = true
    · rw [if_pos hconflict] at h
      cases h
    rw [if_neg hconflict] at h
    by_cases hlane : (!laneFree s m cmd st) = true
    · rw [if_pos hlane] at h
      cases search with
      | true => exact ih h
      | false => cases h
    rw [if_neg hlane] at h
    cases hroom : cueRoom s 0 with
    | some st => rw [hroom] at h; cases h
    | none =>
      rw [hroom] at h
      have hplaced : switched s m cmd st cause = (u, i, sw) := Except.ok.inj h
      have hsw : st = sw := congrArg (fun r => r.2.2) hplaced
      exact ⟨hsw ▸ hplaced, rfl⟩

/-- A switching has a pending cue of its own, and leaves all but the clock and the ring alone. -/
theorem switched_spec {s u : State} {m cmd cause i : Nat} {sw : Stamp} (h : switched s m cmd sw cause = (u, i, sw))
    (hroom : cueRoom s 0 = none) :
    cue u i = ⟨sw, cueRelay, 0, .pending, relayArg m cmd⟩ ∧ u = { s with clk := u.clk, ply := u.ply } := by
  obtain ⟨j, hpick⟩ := pickCue_of_room hroom
  obtain ⟨hu, hrest⟩ := Prod.mk.inj h
  obtain ⟨hi, -⟩ := Prod.mk.inj hrest
  rw [createCue_of_pick _ _ _ hpick] at hu hi
  subst hu
  have hij : j = i := hi
  subst hij
  exact ⟨cue_setCue s j _, rfl⟩

/-! ### Placing beside the host -/

/-- The result of placing a switching, with the host's side of another hub. -/
def placedOnHost (a : State) (r : State × Nat × Stamp) : State × Nat × Stamp := (onHost r.1 a, r.2)

theorem laneFree_onHost (s a : State) (m cmd : Nat) (sw : Stamp) : laneFree (onHost s a) m cmd sw = laneFree s m cmd sw := rfl

theorem cueRoom_onHost (s a : State) : cueRoom (onHost s a) 0 = cueRoom s 0 := by
  rw [cueRoom_zero, cueRoom_zero, pickCue_of_clk (show (onHost s a).clk = s.clk from rfl)]

theorem createCue_onHost (s a : State) (kind : Nat) (st : Stamp) (arg : Nat) :
    createCue (onHost s a) kind st 0 arg = (onHost (createCue s kind st 0 arg).1 a, (createCue s kind st 0 arg).2) := by
  unfold createCue
  rw [pickCue_of_clk (show (onHost s a).clk = s.clk from rfl)]
  cases pickCue s 0 with
  | none => rfl
  | some i => rfl

theorem switched_onHost (s a : State) (m cmd : Nat) (sw : Stamp) (cause : Nat) :
    switched (onHost s a) m cmd sw cause = placedOnHost a (switched s m cmd sw cause) := by
  unfold switched
  rw [createCue_onHost]
  rfl

/-- A switching is placed from the clock, the ring, the objects and the relays. -/
theorem placeSwitch_onHost (n : Nat) (s a : State) (m cmd : Nat) (st : Stamp) (cause : Nat) (search : Bool) :
    placeSwitch n (onHost s a) m cmd st cause search = (placeSwitch n s m cmd st cause search).map (placedOnHost a) := by
  induction n generalizing st with
  | zero => rfl
  | succ n ih =>
    rw [placeSwitch_succ, placeSwitch_succ, ih, laneFree_onHost, cueRoom_onHost, switched_onHost,
      show relayConflict (onHost s a) m st = relayConflict s m st from rfl]
    cases relayConflict s m st with
    | true => rfl
    | false =>
      cases laneFree s m cmd st with
      | true => cases cueRoom s 0 <;> rfl
      | false => cases search <;> rfl

theorem startClose_onHost (s a : State) (m cause : Nat) :
    startClose (onHost s a) m cause = (startClose s m cause).map (placedOnHost a) := by
  unfold startClose
  exact placeSwitch_onHost 64 s a m 1 _ cause true

theorem stampFrom_onHost (s a : State) (angle t k n : Nat) : stampFrom (onHost s a) angle t k n = stampFrom s angle t k n := by
  induction k generalizing n with
  | zero => rfl
  | succ k ih =>
    rw [stampFrom, stampFrom, ih]
    rfl

/-- The first switching stamp a warned sequence can have (R295). -/
def firstOpen (s : State) (m : Nat) : Stamp :=
  let w := boundaryAfter s 1
  stampFrom s (relayField s m 2 2) (stampTicks s w + warnTicks) 8 (Stamp.cycle w + warnTicks * s.clk.freq / 2147483648 - 2)

theorem firstOpen_onHost (s a : State) (m : Nat) : firstOpen (onHost s a) m = firstOpen s m := stampFrom_onHost s a _ _ _ _

/-- A warned sequence of a placed switching, with the cue of its warning. -/
def warnedAt (s : State) (m : Nat) (operator credit : Bool) (asked : Stamp) (r : State × Nat × Stamp) : State × Nat × Stamp :=
  let c := createCue r.1 cueAnn (boundaryAfter s 1) 0 (warnArg s)
  (setSeq c.1 m (some ⟨operator, credit, .cued, boundaryAfter s 1, r.2.2, c.2, r.2.1, false, asked⟩), r.2)

/-- A warned sequence: its switching is placed, and its warning where there is room. -/
theorem startOpen_eq (s : State) (m : Nat) (operator credit : Bool) (asked : Stamp) :
    startOpen s m operator credit asked =
      (placeSwitch 64 s m 2 (if decide (asked ≤ firstOpen s m) then firstOpen s m else asked) (if operator then 1 else 0)
        (decide (asked ≤ firstOpen s m))).bind fun r =>
          (cueRoom r.1 0).elim (.ok (warnedAt s m operator credit asked r)) .error := by
  unfold firstOpen
  obtain ⟨opening, hopening⟩ : ∃ f, startOpen = f := ⟨_, rfl⟩
  obtain ⟨place, hplace⟩ : ∃ f, f = placeSwitch := ⟨_, rfl⟩
  obtain ⟨stampAt, hstamp⟩ : ∃ f, f = stampFrom := ⟨_, rfl⟩
  rw [hopening, ← hplace, ← hstamp]
  delta startOpen at hopening
  rw [← hplace, ← hstamp] at hopening
  clear hplace hstamp
  subst hopening
  beta_reduce
  extract_lets w t first own
  show _ = (place 64 s m 2 (if own then first else asked) (if operator then 1 else 0) own).bind _
  cases place 64 s m 2 (if own then first else asked) (if operator then 1 else 0) own with
  | error st => rfl
  | ok r =>
    obtain ⟨u, i, sw⟩ := r
    show _ = (cueRoom u 0).elim _ _
    dsimp only
    cases cueRoom u 0 with
    | some st => rfl
    | none => rfl

theorem warnedAt_onHost (s a : State) (m : Nat) (operator credit : Bool) (asked : Stamp) (r : State × Nat × Stamp) :
    warnedAt (onHost s a) m operator credit asked (placedOnHost a r) = placedOnHost a (warnedAt s m operator credit asked r) := by
  unfold warnedAt placedOnHost
  rw [createCue_onHost]
  rfl

/-- A warned sequence is placed from the clock, the ring, the objects and the relays. -/
theorem startOpen_onHost (s a : State) (m : Nat) (operator credit : Bool) (asked : Stamp) :
    startOpen (onHost s a) m operator credit asked = (startOpen s m operator credit asked).map (placedOnHost a) := by
  rw [startOpen_eq, startOpen_eq, placeSwitch_onHost, firstOpen_onHost]
  cases placeSwitch 64 s m 2 (if decide (asked ≤ firstOpen s m) then firstOpen s m else asked) (if operator then 1 else 0)
    (decide (asked ≤ firstOpen s m)) with
  | error st => rfl
  | ok r =>
    show (cueRoom (onHost r.1 a) 0).elim (.ok (warnedAt (onHost s a) m operator credit asked (placedOnHost a r))) .error =
      Except.map (placedOnHost a) ((cueRoom r.1 0).elim (.ok (warnedAt s m operator credit asked r)) .error)
    rw [cueRoom_onHost, warnedAt_onHost]
    cases cueRoom r.1 0 with
    | some st => rfl
    | none => rfl

/-- What a placed warned sequence is: its record, with the stamp and the cue of its switching. -/
theorem startOpen_spec {s u : State} {m i : Nat} {operator credit : Bool} {asked sw : Stamp}
    (h : startOpen s m operator credit asked = .ok (u, i, sw)) :
    (∃ w j, seqOf u m = some ⟨operator, credit, .cued, w, sw, j, i, false, asked⟩) ∧
      u = { s with clk := u.clk, ply := u.ply, crd := u.crd } := by
  rw [startOpen_eq] at h
  cases hplace : placeSwitch 64 s m 2 (if decide (asked ≤ firstOpen s m) then firstOpen s m else asked) (if operator then 1 else 0)
    (decide (asked ≤ firstOpen s m)) with
  | error st => rw [hplace] at h; cases h
  | ok r =>
    rw [hplace] at h
    obtain ⟨u', i', sw'⟩ := r
    obtain ⟨hswitched, hroom⟩ := placeSwitch_placed hplace
    obtain ⟨-, hframe⟩ := switched_spec hswitched hroom
    change (cueRoom u' 0).elim _ _ = _ at h
    cases hroom' : cueRoom u' 0 with
    | some st => rw [hroom'] at h; cases h
    | none =>
      rw [hroom'] at h
      obtain ⟨j, hpick⟩ := pickCue_of_room hroom'
      obtain ⟨hu, hrest⟩ := Prod.mk.inj (Except.ok.inj h)
      obtain ⟨rfl, rfl⟩ := Prod.mk.inj hrest
      rw [createCue_of_pick _ _ _ hpick] at hu
      subst hu
      refine ⟨⟨boundaryAfter s 1, j, ?_⟩, ?_⟩
      · unfold seqOf setSeq
        rw [relay_setRelay]
      · rw [hframe]
        rfl

/-! ### RELAY_SET CLOSE (R297, R298, R520) -/

/-- The hub whose operator closes an MP: on an EXHAUSTED tenant the credit sequence ends, and the session is overridden. -/
def takenOver (s : State) (m : Nat) : State :=
  match openSession s m with
  | some (id, x) => if exhausted s x.tenant then setSession (abandonCredit s m) id { x with overridden := true } else s
  | none => s

theorem relayClose_of_placed {s u : State} {m i : Nat} {st sw : Stamp} (d : Desc)
    (h : (if st = 0 then startClose s m 1 else placeSwitch 1 s m 1 st 1 false) = .ok (u, i, sw)) :
    relayClose s d m st = reply (takenOver u m) d stOk (switchResult sw i) := by
  rw [relayClose, h]
  rfl

/-! ### RELAY_SET OPEN (R295, R520) -/

theorem relayOpen_of_placed {s u : State} {m i : Nat} {st sw : Stamp} (d : Desc) (hnone : seqOf s m = none)
    (h : startOpen s m true false st = .ok (u, i, sw)) : relayOpen s d m st = reply u d stOk (switchResult sw i) := by
  rw [relayOpen, hnone, h]

theorem relayOpen_of_running {s : State} {m : Nat} {q : RelSeq} (d : Desc) (st : Stamp) (hseq : seqOf s m = some q)
    (hphase : q.phase ≠ .held) :
    relayOpen s d m st = reply (setSeq s m (some { q with operator := true })) d stOk (switchResult q.switch q.cue) := by
  rw [relayOpen, hseq]
  exact if_pos hphase

/-! ### Ending a sequence (R296, R448) -/

theorem setAnnChan_offline (s : State) (c : Nat) (x : AnnChan) : Offline s (setAnnChan s c x) :=
  Offline.ite ⟨rfl, rfl, rfl, rfl, rfl, rfl⟩ ⟨rfl, rfl, rfl, rfl, rfl, rfl⟩

theorem playEvents_offline (s : State) (c what : Nat) (y : Sounding) : Offline s (playEvents s c what y) :=
  Offline.foldl _ (fun a _ => inform_offline a _) _ _

theorem soundTop_offline (s : State) (c : Nat) : Offline s (soundTop s c) := by
  unfold soundTop annIdle
  split
  · split
    · exact (setAnnChan_offline _ _ _).trans (playEvents_offline _ _ _ _)
    · exact (setAnnChan_offline _ _ _).trans (playEvents_offline _ _ _ _)
    · exact Offline.refl s
  · exact Offline.ite (Offline.refl s) (setAnnChan_offline _ _ _)

theorem endPlays_offline (s : State) (c what : Nat) (gone : Nat → PlayOwner → Bool) : Offline s (endPlays s c what gone) := by
  unfold endPlays
  extract_lets x ended st
  refine Offline.ite (Offline.refl s) ?_
  exact ((setAnnChan_offline _ _ _).trans (soundTop_offline _ _)).trans (Offline.foldl _ (fun a _ => inform_offline a _) _ _)

theorem stopWarning_offline (s : State) (m what : Nat) : Offline s (stopWarning s m what) :=
  stopWarning_eq s m what ▸ (endPlays_offline _ _ _ _).trans (endPlays_offline _ _ _ _)

/-- Work beside the host and the tariff engine that keeps the relays and the accounts. -/
def OffCredit (s t : State) : Prop := Offline s t ∧ t.crd = s.crd

theorem OffCredit.refl (s : State) : OffCredit s s := ⟨Offline.refl s, rfl⟩

theorem OffCredit.trans {s t u : State} (h : OffCredit s t) (g : OffCredit t u) : OffCredit s u :=
  ⟨h.1.trans g.1, g.2.trans h.2⟩

theorem OffCredit.of_clk_ply {s t : State} (h : t = { s with clk := t.clk, ply := t.ply }) : OffCredit s t := by
  rw [h]
  exact ⟨⟨rfl, rfl, rfl, rfl, rfl, rfl⟩, rfl⟩

theorem cancelCue_offCredit (s : State) (i : Nat) : OffCredit s (cancelCue s i) := by
  unfold cancelCue
  split
  · exact OffCredit.of_clk_ply rfl
  · exact OffCredit.refl s

theorem cancelLate_offCredit (s : State) (a : Arm) (outcome : Nat) : OffCredit s (cancelLate s a outcome) :=
  ⟨raise_info_offline rfl, (cancelLate_beside s a outcome).crd⟩

theorem sendShort_offCredit (s : State) (p typ : Nat) (payload : Bytes) : OffCredit s (sendShort s p typ payload) := by
  rw [(sendShort_sends s p typ payload).rest]
  exact OffCredit.of_clk_ply rfl

/-- A switching is withdrawn: its lane, its cue, or a CANCEL on the ring (R56–R58). -/
theorem cancelSwitch_offCredit (s : State) (i : Nat) : OffCredit s (cancelSwitch s i) := by
  unfold cancelSwitch
  split
  · exact cancelCue_offCredit s i
  · rename_i a _
    by_cases hreserved : a.state = .reserved
    · rw [if_pos hreserved]
      exact OffCredit.trans (OffCredit.of_clk_ply rfl) (cancelCue_offCredit _ i)
    rw [if_neg hreserved]
    by_cases hlate : a.act ≤ s.ply.frame
    · rw [if_pos hlate]
      split
      · exact cancelLate_offCredit s a 1
      · exact OffCredit.refl s
    rw [if_neg hlate]
    split
    · exact OffCredit.trans (OffCredit.of_clk_ply rfl) (sendShort_offCredit _ _ _ _)
    · exact OffCredit.refl s

/-- After its record has gone, the end of a sequence keeps the relays and the accounts. -/
theorem dropSeq_offCredit (s : State) (m : Nat) (q : RelSeq) : OffCredit (setSeq s m none) (dropSeq s m q) :=
  OffCredit.trans (OffCredit.trans ⟨stopWarning_offline _ m 4, (stopWarning_beside _ m 4).crd⟩ (cancelCue_offCredit _ _))
    (cancelSwitch_offCredit _ _)

theorem setSeq_offline (s : State) (m : Nat) (q : Option RelSeq) : Offline s (setSeq s m q) := ⟨rfl, rfl, rfl, rfl, rfl, rfl⟩

theorem seqOf_setSeq (s : State) (m : Nat) (q : Option RelSeq) : seqOf (setSeq s m q) m = q := by
  unfold seqOf setSeq
  rw [relay_setRelay]

theorem abandonCredit_offline (s : State) (m : Nat) : Offline s (abandonCredit s m) := by
  unfold abandonCredit
  split
  · exact Offline.refl s
  · exact Offline.ite (Offline.refl s)
      (Offline.ite (setSeq_offline _ _ _) ((setSeq_offline s m none).trans (dropSeq_offCredit s m _).1))

/-- A credit sequence that no operator joined ends when it is abandoned (R296). -/
theorem seqOf_abandonCredit {s : State} {m : Nat} (h : (seqOf s m).any (fun q => q.credit && !q.operator) = true) :
    seqOf (abandonCredit s m) m = none := by
  cases hseq : seqOf s m with
  | none => rw [hseq] at h; cases h
  | some q =>
    rw [hseq] at h
    obtain ⟨hcredit, hoperator⟩ : q.credit = true ∧ q.operator = false := by simpa using h
    have hdrop : abandonCredit s m = dropSeq s m q := by simp [abandonCredit, hseq, hcredit, hoperator]
    rw [hdrop, seqOf_of_crd (dropSeq_offCredit s m q).2, seqOf_setSeq]

/-! ### A decision for a session (R294) -/

theorem creditOpen_offline (s : State) (m : Nat) : Offline s (creditOpen s m) := by
  unfold creditOpen
  split
  · exact setSeq_offline _ _ _
  · split
    · split
      · rename_i hopen
        obtain ⟨-, hframe⟩ := startOpen_spec hopen
        rw [hframe]
        exact ⟨rfl, rfl, rfl, rfl, rfl, rfl⟩
      · exact Offline.refl s
    · exact Offline.refl s

/-- For a session with consent the policy opens its outlet, or leaves it to the operator. -/
theorem policySession_offline {x : Session} (s : State) (id : Nat) (h : x.consent = true) : Offline s (policySession s id x) := by
  rw [policySession, h, Bool.or_true, if_pos rfl]
  exact Offline.ite (Offline.refl s) (creditOpen_offline s x.mp)

/-! ### CONSENT_DISCONNECT and CONSENT_REVOKE (R294, R296, R519) -/

theorem sessionById_setSession (s : State) (id : Nat) (x : Session) : sessionById (setSession s id x) id = some x :=
  tfind_tput_self _ _ _

theorem sessionById_of_tar {s t : State} (h : t.tar = s.tar) (id : Nat) : sessionById t id = sessionById s id := by
  unfold sessionById sessions
  rw [h]

theorem liveSession_of_open {s t : State} {id : Nat} {x : Session} (htar : t.tar = s.tar) (h : sessionById s id = some x)
    (hopen : x.isOpen = true) : liveSession t id = some x := by
  rw [liveSession, sessionById_of_tar htar, h]
  exact if_pos hopen

/-- The step of a command that replaces a session and then works beside the tariff engine. -/
theorem next_hostCmd_setSession {s v : State} {d : Desc} {opc id : Nat} {y : Session} (act : State → State)
    (h : canTake s d opc false = true) (hact : act (take s d) = reply v d stOk []) (hwork : Offline (setSession (take s d) id y) v) :
    ∃ t, (.next (hostCmd s d opc false act) : Out) = .next t ∧ Told v t ∧ sessionById t id = some y ∧ answered s t d stOk 0 [] := by
  obtain ⟨t, ht, htold, hanswer⟩ := next_hostCmd_offline act h hact hwork rfl rfl rfl rfl
  exact ⟨t, ht, htold, by rw [sessionById_of_tar (htold.kept.tar.trans hwork.tar), sessionById_setSession], hanswer⟩

/-- The hub that has noted a consent, with what the policy then does for an EXHAUSTED tenant. -/
def consented (s : State) (id : Nat) (x : Session) : State :=
  if exhausted s x.tenant then policySession (setSession s id { x with consent := true }) id { x with consent := true }
  else setSession s id { x with consent := true }

/-- The hub that has noted a revocation, with what it ends for a perishable load. -/
def revoked (s : State) (id : Nat) (x : Session) : State :=
  if x.nonPerishable then setSession s id { x with consent := false }
  else abandonCredit (setSession s id { x with consent := false }) x.mp

section
variable {s : State} {d : Desc} {id : Nat} {x : Session}

theorem firstFail_liveSession (hten : d.tenant = 0) (hlive : liveSession s id = some x) :
    firstFail [by0 d, ((liveSession s id).isSome, stNotFound)] = none :=
  firstFail_by0_and stNotFound hten (by rw [hlive]; rfl)

theorem exec_consentDisconnect_consents (hten : d.tenant = 0) (hsession : sessionById s id = some x) (hopen : x.isOpen = true)
    (h : canTake s d 0x0603 false = true) :
    ∃ t, exec (.consentDisconnect d id) s = .next t ∧ Told (consented (take s d) id x) t ∧
      sessionById t id = some { x with consent := true } ∧ answered s t d stOk 0 [] := by
  have hlive := liveSession_of_open (take_kept s d).tar hsession hopen
  have hwork : Offline (setSession (take s d) id { x with consent := true }) (consented (take s d) id x) :=
    Offline.ite (policySession_offline _ id rfl) (Offline.refl _)
  refine next_hostCmd_setSession _ h ((checked_of_pass _ (firstFail_liveSession hten hlive)).trans ?_) hwork
  simp only [hlive]
  rfl

theorem exec_consentRevoke_revokes (hten : d.tenant = 0) (hsession : sessionById s id = some x) (hopen : x.isOpen = true)
    (h : canTake s d 0x0604 false = true) :
    ∃ t, exec (.consentRevoke d id) s = .next t ∧ Told (revoked (take s d) id x) t ∧
      sessionById t id = some { x with consent := false } ∧ answered s t d stOk 0 [] := by
  have hlive := liveSession_of_open (take_kept s d).tar hsession hopen
  have hwork : Offline (setSession (take s d) id { x with consent := false }) (revoked (take s d) id x) :=
    Offline.ite (Offline.refl _) (abandonCredit_offline _ _)
  refine next_hostCmd_setSession _ h ((checked_of_pass _ (firstFail_liveSession hten hlive)).trans ?_) hwork
  simp only [hlive]
  rfl

/-- A revocation ends the credit sequence of a perishable load that no operator joined (R296). -/
theorem seqOf_revoked (id : Nat) (hperishable : x.nonPerishable = false)
    (hcredit : (seqOf s x.mp).any (fun q => q.credit && !q.operator) = true) : seqOf (revoked (take s d) id x) x.mp = none := by
  have hseq : seqOf (setSession (take s d) id { x with consent := false }) x.mp = seqOf s x.mp := seqOf_of_crd (take_kept s d).crd _
  rw [revoked, hperishable]
  exact seqOf_abandonCredit (hseq ▸ hcredit)

end

/-! ### RELAY_SET (R297, R298, R520) -/

section
variable {s : State} {d : Desc} {m cmd : Nat} {st : Stamp}

theorem cueCheck_take (s : State) (d : Desc) (kind : Nat) (st : Stamp) : cueCheck (take s d) kind st = cueCheck s kind st := by
  rw [take_eq_onHost]
  rfl

/-- The step of a RELAY_SET that passes its checks. -/
theorem exec_relaySet_of_pass {v : State} {res : Bytes} (hten : d.tenant = 0) (h : canTake s d 0x0701 false = true) (hm : m < 256)
    (hcmd : cmd = 1 ∨ cmd = 2) (hmp : mpAbsent s m = false) (hcue : st ≠ 0 → cueCheck s cueRelay st = none)
    (hact : (if cmd = 1 then relayClose (take s d) d m st else relayOpen (take s d) d m st) = reply v d stOk res)
    (hrng : v.rng = (take s d).rng) (hhif : v.hif = (take s d).hif) (hpwr : v.pwr = (take s d).pwr)
    (hdoms : v.ev.doms = (take s d).ev.doms) :
    ∃ t, exec (.relaySet d m cmd st) s = .next t ∧ Told v t ∧ answered s t d stOk 0 res := by
  refine next_hostCmd_reply _ h ((checked_of_pass _ ?_).trans hact) hrng hhif hpwr hdoms
  have hstamp : (if st = 0 then none else cueCheck (take s d) cueRelay st) = none := by
    split
    · rfl
    · rename_i hne
      rw [cueCheck_take, hcue hne]
  simp [firstFail, by0, hten, hm, hcmd, mpAbsent_of_kept (take_kept s d), hmp, hstamp]

end

/-! ### CLOSE -/

/-- The switching of a RELAY_SET CLOSE: the first that can be placed, or the one at the stamp asked for. -/
def closing (s : State) (m : Nat) (st : Stamp) : Except Nat (State × Nat × Stamp) :=
  if st = 0 then startClose s m 1 else placeSwitch 1 s m 1 st 1 false

theorem closing_onHost (s a : State) (m : Nat) (st : Stamp) : closing (onHost s a) m st = (closing s m st).map (placedOnHost a) := by
  unfold closing
  rw [startClose_onHost, placeSwitch_onHost]
  split
  · rfl
  · rfl

theorem closing_spec {s u : State} {m i : Nat} {st sw : Stamp} (h : closing s m st = .ok (u, i, sw)) :
    cue u i = ⟨sw, cueRelay, 0, .pending, relayArg m 1⟩ ∧ u = { s with clk := u.clk, ply := u.ply } := by
  unfold closing at h
  have hplaced : switched s m 1 sw 1 = (u, i, sw) ∧ cueRoom s 0 = none := by
    by_cases hst : st = 0
    · rw [if_pos hst, startClose] at h
      exact placeSwitch_placed h
    · rw [if_neg hst] at h
      exact placeSwitch_placed h
  exact switched_spec hplaced.1 hplaced.2

/-- Taking an MP over leaves the host's side, the resets and the fault domains alone. -/
theorem takenOver_frame (s : State) (m : Nat) : (takenOver s m).rng = s.rng ∧ (takenOver s m).hif = s.hif ∧
    (takenOver s m).pwr = s.pwr ∧ (takenOver s m).ev.doms = s.ev.doms := by
  have hkeep := abandonCredit_offline s m
  unfold takenOver
  split
  · split
    · exact ⟨hkeep.rng, hkeep.hif, hkeep.pwr, hkeep.doms⟩
    · exact ⟨rfl, rfl, rfl, rfl⟩
  · exact ⟨rfl, rfl, rfl, rfl⟩

/-- On an EXHAUSTED tenant the session is overridden. -/
theorem takenOver_of_exhausted {s : State} {m : Nat} {p : Nat × Session} (hopen : openSession s m = some p)
    (h : exhausted s p.2.tenant = true) : sessionById (takenOver s m) p.1 = some { p.2 with overridden := true } := by
  rw [takenOver, hopen]
  exact (congrArg (sessionById · p.1) (if_pos h)).trans (sessionById_setSession _ _ _)

theorem takenOver_of_solvent {s : State} {m : Nat} (h : ∀ p, openSession s m = some p → exhausted s p.2.tenant = false) :
    takenOver s m = s := by
  unfold takenOver
  split
  · rename_i id x hopen
    exact if_neg (by rw [h (id, x) hopen]; exact Bool.false_ne_true)
  · rfl

theorem openSession_of_tar {s t : State} (h : t.tar = s.tar) (m : Nat) : openSession t m = openSession s m := by
  unfold openSession sessions
  rw [h]

theorem exec_relaySet_closes {s u : State} {d : Desc} {m i : Nat} {st sw : Stamp} (hten : d.tenant = 0)
    (h : canTake s d 0x0701 false = true) (hm : m < 256) (hmp : mpAbsent s m = false)
    (hcue : st ≠ 0 → cueCheck s cueRelay st = none) (hplace : closing s m st = .ok (u, i, sw)) :
    ∃ t, exec (.relaySet d m 1 st) s = .next t ∧ Told (takenOver (onHost u (take s d)) m) t ∧
      answered s t d stOk 0 (switchResult sw i) := by
  obtain ⟨-, hframe⟩ := closing_spec hplace
  have hplaced : closing (take s d) m st = .ok (onHost u (take s d), i, sw) := by
    rw [take_eq_onHost, closing_onHost, hplace, ← take_eq_onHost]
    rfl
  obtain ⟨hrng, hhif, hpwr, hdoms⟩ := takenOver_frame (onHost u (take s d)) m
  refine exec_relaySet_of_pass hten h hm (.inl rfl) hmp hcue ((if_pos rfl).trans (relayClose_of_placed d hplaced)) hrng hhif
    (hpwr.trans ?_) (hdoms.trans ?_)
  · exact (congrArg State.pwr hframe).trans (take_kept s d).pwr.symm
  · rw [(take_sent s d).ev]
    exact congrArg (·.ev.doms) hframe

/-- Whose tenant is EXHAUSTED is read from the objects and the accounts, which a placed switching leaves alone. -/
theorem exhausted_of_placed {s u a : State} (h : u = { s with clk := u.clk, ply := u.ply }) (n : Nat) :
    exhausted (onHost u a) n = exhausted s n := by
  rw [h]
  rfl

/-! ### OPEN -/

theorem exec_relaySet_opens {s u : State} {d : Desc} {m i : Nat} {st sw : Stamp} (hten : d.tenant = 0)
    (h : canTake s d 0x0701 false = true) (hm : m < 256) (hmp : mpAbsent s m = false)
    (hcue : st ≠ 0 → cueCheck s cueRelay st = none) (hnone : seqOf s m = none)
    (hplace : startOpen s m true false st = .ok (u, i, sw)) :
    ∃ t, exec (.relaySet d m 2 st) s = .next t ∧ Told (onHost u (take s d)) t ∧ answered s t d stOk 0 (switchResult sw i) := by
  obtain ⟨-, hframe⟩ := startOpen_spec hplace
  have hplaced : startOpen (take s d) m true false st = .ok (onHost u (take s d), i, sw) := by
    rw [take_eq_onHost, startOpen_onHost, hplace, ← take_eq_onHost]
    rfl
  have hnone' : seqOf (take s d) m = none := (seqOf_of_crd (take_kept s d).crd m).trans hnone
  refine exec_relaySet_of_pass hten h hm (.inr rfl) hmp hcue ((if_neg (by decide)).trans (relayOpen_of_placed d hnone' hplaced))
    rfl rfl ?_ ?_
  · exact (congrArg State.pwr hframe).trans (take_kept s d).pwr.symm
  · rw [(take_sent s d).ev]
    exact congrArg (·.ev.doms) hframe

theorem exec_relaySet_joins {s : State} {d : Desc} {m : Nat} {st : Stamp} {q : RelSeq} (hten : d.tenant = 0)
    (h : canTake s d 0x0701 false = true) (hm : m < 256) (hmp : mpAbsent s m = false)
    (hcue : st ≠ 0 → cueCheck s cueRelay st = none) (hseq : seqOf s m = some q) (hphase : q.phase ≠ .held) :
    ∃ t, exec (.relaySet d m 2 st) s = .next t ∧ Told (setSeq s m (some { q with operator := true })) t ∧
      answered s t d stOk 0 (switchResult q.switch q.cue) := by
  have hseq' : seqOf (take s d) m = some q := (seqOf_of_crd (take_kept s d).crd m).trans hseq
  obtain ⟨t, ht, htold, hanswer⟩ := exec_relaySet_of_pass hten h hm (.inr rfl) hmp hcue
    ((if_neg (by decide)).trans (relayOpen_of_running d st hseq' hphase)) rfl rfl rfl rfl
  have hwork : setSeq (take s d) m (some { q with operator := true }) =
      onHost (setSeq s m (some { q with operator := true })) (take s d) := by
    rw [take_eq_onHost]
    rfl
  exact ⟨t, ht, (hwork ▸ told_onHost d rfl rfl : Told _ _).trans htold, hanswer⟩

/-! ### RELAY_READ (R520) -/

theorem relayEntry_length (s : State) (m : Nat) : (relayEntry s m).length = 24 := by
  simp [relayEntry]

theorem relayEntries_length (s : State) (m n : Nat) : ((span m n).flatMap (relayEntry s)).length = 24 * n := by
  simp [List.length_flatMap, relayEntry_length, span_eq_range', Nat.mul_comm]

theorem relayEntry_take (s : State) (d : Desc) : relayEntry (take s d) = relayEntry s := by
  rw [take_eq_onHost]
  rfl

theorem exec_relayRead_reads {s : State} {d : Desc} {m n : Nat} (hten : d.tenant = 0) (h : canTake s d 0x0702 true = true)
    (hn : 1 ≤ n) (hlast : m + n ≤ 256) (hfits : 24 * n ≤ d.dlen) :
    ∃ t, exec (.relayRead d m n) s = .next t ∧ Told s t ∧ .write 0 d.dptr ((span m n).flatMap (relayEntry s)) ∈ t.hif.out ∧
      answered s t d stOk (24 * n) [] := by
  have hpass : firstFail [(d.tenant == 0 || ((span m (min n 256)).all fun k => mpOfTenant (take s d) k d.tenant), stNotPermitted),
      (decide (1 ≤ n ∧ m + n ≤ 256), stBadArg)] = none := by simp [firstFail, hten, hn, hlast]
  have hlen := relayEntries_length s m n
  rw [← hlen] at hfits ⊢
  rw [← hten]
  exact next_hostCmd_replyOut _ h hfits ((checked_of_pass _ hpass).trans (by rw [relayEntry_take]))

/-! ### The obligation -/

/-- Settles O41: a command places what the hub would have placed before it was taken, and what it withdraws or decides lies beside the
host and the sessions. -/
theorem switchingIsAsked : Obligations.SwitchingIsAsked := by
  unfold Obligations.SwitchingIsAsked
  intro s d hten
  refine ⟨fun id x hsession hopen => ⟨fun h => ?_, fun h => ?_⟩, fun m i st sw u h hm hmp hcue => ⟨fun hplace => ?_, ?_, ?_⟩,
    fun m n h hn hlast hfits => ?_⟩
  · obtain ⟨t, ht, -, hconsent, hanswer⟩ := exec_consentDisconnect_consents hten hsession hopen h
    exact ⟨t, ht, hconsent, hanswer⟩
  · obtain ⟨t, ht, htold, hconsent, hanswer⟩ := exec_consentRevoke_revokes hten hsession hopen h
    exact ⟨t, ht, hconsent, hanswer, fun hperishable hcredit =>
      (seqOf_of_crd htold.kept.crd x.mp).trans (seqOf_revoked id hperishable hcredit)⟩
  · obtain ⟨t, ht, htold, hanswer⟩ := exec_relaySet_closes hten h hm hmp hcue hplace
    obtain ⟨hcued, hframe⟩ := closing_spec hplace
    have hsessions : openSession (onHost u (take s d)) m = openSession s m := openSession_of_tar (congrArg State.tar hframe) m
    refine ⟨t, ht, hanswer, fun p hp hexhausted => ?_, fun hsolvent => ?_⟩
    · rw [sessionById_of_tar htold.kept.tar,
        takenOver_of_exhausted (hsessions.trans hp) ((exhausted_of_placed hframe _).trans hexhausted)]
      rfl
    · have hsame := takenOver_of_solvent (s := onHost u (take s d)) (m := m)
        fun p hp => (exhausted_of_placed hframe _).trans (hsolvent p (hsessions ▸ hp))
      rw [cue_of_clk htold.kept.clk, hsame]
      exact hcued
  · intro hnone hplace
    obtain ⟨t, ht, htold, hanswer⟩ := exec_relaySet_opens hten h hm hmp hcue hnone hplace
    obtain ⟨⟨w, j, hseq⟩, -⟩ := startOpen_spec hplace
    exact ⟨t, _, ht, hanswer, (seqOf_of_crd htold.kept.crd m).trans hseq, rfl, rfl, rfl, rfl, rfl⟩
  · exact fun q hseq hphase => exec_relaySet_joins hten h hm hmp hcue hseq hphase
  · obtain ⟨t, ht, htold, hwritten, hanswer⟩ := exec_relayRead_reads hten h hn hlast hfits
    exact ⟨t, ht, htold, hwritten, relayEntries_length s m n, hanswer⟩

end Sys2Proof.Proofs
end
